-- ==== Sys2Proof/Word.lean ====
section
/-! DEFINITION. The machine's word types: names for the bit vectors the manual calls bytes, words, addresses and masks. -/

namespace Sys2Proof

/-- A byte of memory (R11). -/
abbrev Byte := BitVec 8

/-- A 32-bit word: a register, a lane's value, an instruction word. -/
abbrev Word := BitVec 32

/-- A 64-bit value, held in an even and an odd register (R23). -/
abbrev DWord := BitVec 64

/-- A program counter: a 48-bit virtual address (R29). -/
abbrev Pc := BitVec 48

/-- One bit for each of the 32 lanes of a group. -/
abbrev LaneMask := BitVec 32

/-- A register number of the namespace of R18. -/
abbrev RegNum := BitVec 7

/-- A predicate number p0..p7 (R22). -/
abbrev PredNum := BitVec 3

/-- One bit for each of the 128 register numbers (R29, OUTSTANDING). -/
abbrev RegSet := BitVec 128

end Sys2Proof
end

