-- ==== Sys2Proof/Syntax.lean ====
section
/-! DEFINITION. The instructions of the M4, one constructor a row of the opcode table: the words of the lane and
uniform sets (02_formats_opcode_map.md, R67 to R70), then the machine's own steps that no word encodes
(95_what_each_step_holds.md). Fields are names and numbers; no constructor holds a raw instruction word. -/

namespace Sys2Proof

/-- A source register field: a register number, or the literal word that follows the instruction (R21, R62). -/
inductive Src where
  | reg (r : RegNum)
  | lit (w : Word)
deriving DecidableEq, Repr

/-- IADD and ISUB slots (R129). -/
inductive SatMode where
  | wrap | sat | usat
deriving DecidableEq, Repr

/-- The eight tests of ICMP and SCMP (R137). -/
inductive CmpOp where
  | eq | ne | lt | le | gt | ge | ltu | leu
deriving DecidableEq, Repr

/-- The eight tests of FCMP and HCMP2 (R154, R160). -/
inductive FCmpOp where
  | eq | ne | lt | le | gt | ge | un | ord
deriving DecidableEq, Repr

/-- PSET slots (R139). -/
inductive PsetOp where
  | and | or | xor | andn | orn | nand | nor | xnor
deriving DecidableEq, Repr

/-- PMOV slots (R140). -/
inductive PmovOp where
  | pv | vp | pw | wp
deriving DecidableEq, Repr

/-- QSWP slots (R142). -/
inductive QswpOp where
  | h | v | d
deriving DecidableEq, Repr

/-- SHFL slots (R143). -/
inductive ShflOp where
  | idx | up | down | xor
deriving DecidableEq, Repr

/-- VOTE slots (R144). -/
inductive VoteOp where
  | all | any | same | mask | count | rank
deriving DecidableEq, Repr

/-- MATCH slots (R145). -/
inductive MatchOp where
  | mask | lead | count | all
deriving DecidableEq, Repr

/-- REDM slots (R147). -/
inductive RedmOp where
  | smin | smax | umin | umax | fmin | fmax
deriving DecidableEq, Repr

/-- Rounding slots of FADD, FSUB, FMUL and FFMA: slot 0 rounds by FMT (R67, R152). -/
inductive FRnd where
  | fmt | rne | rz | rdn | rup
deriving DecidableEq, Repr

/-- DOT4 slots (R161). -/
inductive Dot4Op where
  | i8 | u8 | e4m3 | e5m2
deriving DecidableEq, Repr

/-- Load slots (R68). -/
inductive LoadSize where
  | u8 | s8 | u16 | s16 | b32 | b64 | b128
deriving DecidableEq, Repr

/-- Store slots (R68). -/
inductive StoreSize where
  | b8 | b16 | b32 | b64 | b128
deriving DecidableEq, Repr

/-- FENQ and FDEQ widths (R67). -/
inductive FifoSize where
  | b32 | b64 | b128
deriving DecidableEq, Repr

/-- PREF levels (R67). -/
inductive PrefLevel where
  | l1 | l2 | llc
deriving DecidableEq, Repr

/-- Atomic set A, 32-bit operations (R68). -/
inductive AtomA where
  | add | fadd | min | max | and | or | exch | cas
deriving DecidableEq, Repr

/-- Atomic set B (R68). -/
inductive AtomB where
  | xor | umin | umax | add64 | exch64 | cas64 | min64 | max64
deriving DecidableEq, Repr

/-- Scopes (R57). -/
inductive Scope where
  | blk | clu | dev | sys
deriving DecidableEq, Repr

/-- FENCE forms (R70, R206). -/
inductive FenceForm where
  | rel | acq | ar | sc
deriving DecidableEq, Repr

/-- SETFMT slots (R209). -/
inductive FmtField where
  | rm | sat | narrow | afmt | bfmt | acc | out | all
deriving DecidableEq, Repr

/-- TAGBIND slots: the fusion of tags (R221). -/
inductive Fusion where
  | q | h | v | all
deriving DecidableEq, Repr

/-- One instruction, or one of the steps that no word encodes. A word instruction carries the ebb bit `e` (R47). -/
inductive Instr where
  /-- IADD (R129): Lane integer add, wrapping or saturating by slot. -/
  | iadd (e : Bool) (m : SatMode) (d : RegNum) (a : Src) (b : Src)
  /-- ISUB (R129): Lane integer subtract, wrapping or saturating by slot. -/
  | isub (e : Bool) (m : SatMode) (d : RegNum) (a : Src) (b : Src)
  /-- IADDC (R130): Lane add with carry in and carry out through predicate pk. -/
  | iaddc (e : Bool) (k : PredNum) (d : RegNum) (a : Src) (b : Src)
  /-- IMUL (R129): Low 32 bits of the lane product. -/
  | imul (e : Bool) (d : RegNum) (a : Src) (b : Src)
  /-- IMULH (R129): High 32 bits of the signed or unsigned lane product. -/
  | imulh (e : Bool) (u : Bool) (d : RegNum) (a : Src) (b : Src)
  /-- IMAD (R129): Lane multiply-add into d. -/
  | imad (e : Bool) (d : RegNum) (a : Src) (b : Src)
  /-- IMIN (R129): Signed or unsigned lane minimum. -/
  | imin (e : Bool) (u : Bool) (d : RegNum) (a : Src) (b : Src)
  /-- IMAX (R129): Signed or unsigned lane maximum. -/
  | imax (e : Bool) (u : Bool) (d : RegNum) (a : Src) (b : Src)
  /-- IABS (R129): Lane absolute value, wrapping or saturating. -/
  | iabs (e : Bool) (m : Bool) (d : RegNum) (a : Src)
  /-- INEG (R129): Lane negation, wrapping or saturating. -/
  | ineg (e : Bool) (m : Bool) (d : RegNum) (a : Src)
  /-- AND (R131): Lane bitwise and. -/
  | and (e : Bool) (d : RegNum) (a : Src) (b : Src)
  /-- ANDN (R131): Lane bitwise and with complemented b. -/
  | andn (e : Bool) (d : RegNum) (a : Src) (b : Src)
  /-- OR (R131): Lane bitwise or. -/
  | or (e : Bool) (d : RegNum) (a : Src) (b : Src)
  /-- XOR (R131): Lane bitwise exclusive or. -/
  | xor (e : Bool) (d : RegNum) (a : Src) (b : Src)
  /-- SHL (R131): Lane shift left by the full count. -/
  | shl (e : Bool) (d : RegNum) (a : Src) (b : Src)
  /-- SHR (R131): Lane logical shift right by the full count. -/
  | shr (e : Bool) (d : RegNum) (a : Src) (b : Src)
  /-- SAR (R131): Lane arithmetic shift right. -/
  | sar (e : Bool) (d : RegNum) (a : Src) (b : Src)
  /-- ROTL (R131): Lane rotate left by n mod 32. -/
  | rotl (e : Bool) (d : RegNum) (a : Src) (b : Src)
  /-- BFX (R132): Lane bit-field extract, zero- or sign-extended. -/
  | bfx (e : Bool) (m : Bool) (d : RegNum) (a : Src) (b : Src)
  /-- BFI (R132): Lane bit-field insert into d. -/
  | bfi (e : Bool) (d : RegNum) (a : Src) (b : Src)
  /-- POPC (R133): Lane population count. -/
  | popc (e : Bool) (d : RegNum) (a : Src)
  /-- CLZ (R133): Lane count of leading zeros. -/
  | clz (e : Bool) (d : RegNum) (a : Src)
  /-- BREV (R133): Lane bit reversal. -/
  | brev (e : Bool) (d : RegNum) (a : Src)
  /-- PRMT (R134): Lane byte permute under a selector in d. -/
  | prmt (e : Bool) (d : RegNum) (a : Src) (b : Src)
  /-- LEA (R135): Lane scaled sum x + y × 2^k. -/
  | lea (e : Bool) (k : BitVec 3) (d : RegNum) (a : Src) (b : Src)
  /-- MOV (R136): Lane copy of 32 or 64 bits. -/
  | mov (e : Bool) (w : Bool) (d : RegNum) (a : Src)
  /-- MOVI (R136): Lane move of a sign-extended 17-bit immediate. -/
  | movi (e : Bool) (d : RegNum) (i : BitVec 17)
  /-- ICMP (R137): Lane integer compare into a predicate. -/
  | icmp (e : Bool) (c : CmpOp) (d : PredNum) (a : Src) (b : Src)
  /-- ISEL (R138): Lane select by predicate pk. -/
  | isel (e : Bool) (k : PredNum) (d : RegNum) (a : Src) (b : Src)
  /-- PSET (R139): Lane predicate logic. -/
  | pset (e : Bool) (o : PsetOp) (d : PredNum) (a : PredNum) (b : PredNum)
  /-- PMOV (R140): Moves bits between predicates and vector registers. -/
  | pmov (e : Bool) (o : PmovOp) (d : RegNum) (a : Src)
  /-- QSWP (R142): Exchange within a quad, inactive sources acting as helper lanes. -/
  | qswp (e : Bool) (o : QswpOp) (d : RegNum) (a : Src)
  /-- QBC (R142): Broadcast of one quad lane to its quad. -/
  | qbc (e : Bool) (l : BitVec 2) (d : RegNum) (a : Src)
  /-- SHFL (R143): Reads any lane of the group; outstanding result. -/
  | shfl (e : Bool) (o : ShflOp) (d : RegNum) (a : Src) (b : Src)
  /-- VOTE (R144): Summarises a predicate over the active lanes. -/
  | vote (e : Bool) (o : VoteOp) (d : RegNum) (a : PredNum)
  /-- FIRST (R145): Broadcasts the lowest active lane's value. -/
  | first (e : Bool) (d : RegNum) (a : Src)
  /-- MATCH (R145): Reports facts about each lane's class of equal values. -/
  | match (e : Bool) (o : MatchOp) (d : RegNum) (a : Src)
  /-- REDA (R146): Integer or fixed-tree FP32 sum over the active lanes. -/
  | reda (e : Bool) (m : Bool) (d : RegNum) (a : Src)
  /-- REDM (R147): Minimum or maximum over the active lanes. -/
  | redm (e : Bool) (o : RedmOp) (d : RegNum) (a : Src)
  /-- FADD (R152): FP32 add with the slot's rounding. -/
  | fadd (e : Bool) (r : FRnd) (d : RegNum) (a : Src) (b : Src)
  /-- FSUB (R152): FP32 subtract. -/
  | fsub (e : Bool) (r : FRnd) (d : RegNum) (a : Src) (b : Src)
  /-- FMUL (R152): FP32 multiply. -/
  | fmul (e : Bool) (r : FRnd) (d : RegNum) (a : Src) (b : Src)
  /-- FFMA (R152): FP32 fused multiply-add into d. -/
  | ffma (e : Bool) (r : FRnd) (d : RegNum) (a : Src) (b : Src)
  /-- FMIN (R153): FP32 minimum with NaN handling by slot. -/
  | fmin (e : Bool) (m : Bool) (d : RegNum) (a : Src) (b : Src)
  /-- FMAX (R153): FP32 maximum with NaN handling by slot. -/
  | fmax (e : Bool) (m : Bool) (d : RegNum) (a : Src) (b : Src)
  /-- FCMP (R154): FP32 compare into a predicate. -/
  | fcmp (e : Bool) (c : FCmpOp) (d : PredNum) (a : Src) (b : Src)
  /-- FCLASS (R155): Classifies an FP32 operand. -/
  | fclass (e : Bool) (d : RegNum) (a : Src)
  /-- FRCP (R157): Correctly rounded reciprocal; outstanding result. -/
  | frcp (e : Bool) (d : RegNum) (a : Src)
  /-- FRSQ (R157): Correctly rounded reciprocal square root. -/
  | frsq (e : Bool) (d : RegNum) (a : Src)
  /-- FSQRT (R157): Square root rounded by FMT.RM. -/
  | fsqrt (e : Bool) (d : RegNum) (a : Src)
  /-- FEX2 (R157): Correctly rounded 2^x. -/
  | fex2 (e : Bool) (d : RegNum) (a : Src)
  /-- FLG2 (R157): Correctly rounded log2 x. -/
  | flg2 (e : Bool) (d : RegNum) (a : Src)
  /-- FSIN (R157): Correctly rounded sine. -/
  | fsin (e : Bool) (d : RegNum) (a : Src)
  /-- FCOS (R157): Correctly rounded cosine. -/
  | fcos (e : Bool) (d : RegNum) (a : Src)
  /-- FTANH (R157): Correctly rounded hyperbolic tangent. -/
  | ftanh (e : Bool) (d : RegNum) (a : Src)
  /-- FDIVS (R156): Correctly rounded FP32 division; outstanding result. -/
  | fdivs (e : Bool) (d : RegNum) (a : Src) (b : Src)
  /-- HADD2 (R159): Packed FP16 add. -/
  | hadd2 (e : Bool) (d : RegNum) (a : Src) (b : Src)
  /-- HMUL2 (R159): Packed FP16 multiply. -/
  | hmul2 (e : Bool) (d : RegNum) (a : Src) (b : Src)
  /-- HFMA2 (R159): Packed FP16 fused multiply-add. -/
  | hfma2 (e : Bool) (d : RegNum) (a : Src) (b : Src)
  /-- HCMP2 (R160): Packed FP16 compare into a predicate pair. -/
  | hcmp2 (e : Bool) (c : FCmpOp) (d : PredNum) (a : Src) (b : Src)
  /-- CVTI (R163): Widens a format-f value to FP32. -/
  | cvti (e : Bool) (d : RegNum) (a : Src) (c : BitVec 4)
  /-- CVTF (R164): Narrows FP32 to format f, with optional outlier capture. -/
  | cvtf (e : Bool) (d : RegNum) (a : Src) (c : BitVec 4)
  /-- CVTDX (R168): Encodes the group's lanes as one DX block. -/
  | cvtdx (e : Bool) (d : RegNum) (a : Src) (c : BitVec 4)
  /-- CVTXD (R169): Decodes each lane's DX element to FP32. -/
  | cvtxd (e : Bool) (d : RegNum) (a : Src) (c : BitVec 4)
  /-- DXEXP (R167): Chooses a DX header from the block's data. -/
  | dxexp (e : Bool) (d : RegNum) (a : Src)
  /-- SRND (R165): Stochastic rounding of FP32 to format f's values. -/
  | srnd (e : Bool) (d : RegNum) (a : Src) (c : BitVec 4)
  /-- DOT4 (R161): Accumulates four byte products into d. -/
  | dot4 (e : Bool) (o : Dot4Op) (d : RegNum) (a : Src) (b : Src)
  /-- LDG (R173): Global load per lane; outstanding result. -/
  | ldg (e : Bool) (z : LoadSize) (c : Scope) (s : BitVec 5) (d : RegNum) (a : Src)
  /-- STG (R173): Global store per lane. -/
  | stg (e : Bool) (z : StoreSize) (c : Scope) (s : BitVec 5) (d : Src) (a : Src)
  /-- LDS (R178): Scratchpad load per lane with bank replays. -/
  | lds (e : Bool) (z : LoadSize) (c : Scope) (s : BitVec 5) (d : RegNum) (a : Src)
  /-- STS (R178): Scratchpad store per lane. -/
  | sts (e : Bool) (z : StoreSize) (c : Scope) (s : BitVec 5) (d : Src) (a : Src)
  /-- ATOMG_SET_A (R177): 32-bit global atomic of set A, lanes in increasing order. -/
  | atomgA (e : Bool) (z : AtomA) (c : Scope) (s : BitVec 5) (d : RegNum) (a : Src)
  /-- ATOMG_SET_B (R177): Global atomic of set B, including 64-bit forms. -/
  | atomgB (e : Bool) (z : AtomB) (c : Scope) (s : BitVec 5) (d : RegNum) (a : Src)
  /-- ATOMS_SET_A (R177): Scratchpad atomic of set A, performed at the pool. -/
  | atomsA (e : Bool) (z : AtomA) (c : Scope) (s : BitVec 5) (d : RegNum) (a : Src)
  /-- ATOMS_SET_B (R177): Scratchpad atomic of set B. -/
  | atomsB (e : Bool) (z : AtomB) (c : Scope) (s : BitVec 5) (d : RegNum) (a : Src)
  /-- PREF (R187): Prefetches a line into the named level; never traps. -/
  | pref (e : Bool) (z : PrefLevel) (s : BitVec 5) (a : Src)
  /-- FENQ (R185): Appends active lanes' values to a FIFO, parking if full. -/
  | fenq (e : Bool) (z : FifoSize) (s : BitVec 5) (d : Src)
  /-- FDEQ (R185): Removes FIFO entries into active lanes, parking if empty. -/
  | fdeq (e : Bool) (z : FifoSize) (s : BitVec 5) (d : RegNum)
  /-- SADD (R190): Uniform add. -/
  | sadd (e : Bool) (d : RegNum) (a : Src) (b : Src)
  /-- SSUB (R190): Uniform subtract. -/
  | ssub (e : Bool) (d : RegNum) (a : Src) (b : Src)
  /-- SMUL (R190): Uniform multiply, low 32 bits. -/
  | smul (e : Bool) (d : RegNum) (a : Src) (b : Src)
  /-- SAND (R190): Uniform and. -/
  | sand (e : Bool) (d : RegNum) (a : Src) (b : Src)
  /-- SOR (R190): Uniform or. -/
  | sor (e : Bool) (d : RegNum) (a : Src) (b : Src)
  /-- SXOR (R190): Uniform exclusive or. -/
  | sxor (e : Bool) (d : RegNum) (a : Src) (b : Src)
  /-- SSHL (R190): Uniform shift left. -/
  | sshl (e : Bool) (d : RegNum) (a : Src) (b : Src)
  /-- SSHR (R190): Uniform logical shift right. -/
  | sshr (e : Bool) (d : RegNum) (a : Src) (b : Src)
  /-- SCMP (R191): Uniform compare giving 1 or 0. -/
  | scmp (e : Bool) (c : CmpOp) (d : RegNum) (a : Src) (b : Src)
  /-- SMOV (R191): Uniform move of 32 or 64 bits. -/
  | smov (e : Bool) (w : Bool) (d : RegNum) (a : Src)
  /-- SLI (R191): Loads a sign-extended 19-bit immediate into a uniform register. -/
  | sli (e : Bool) (d : BitVec 5) (i : BitVec 19)
  /-- SLD (R192): Uniform global load for the split; outstanding result. -/
  | sld (e : Bool) (w : Bool) (d : RegNum) (a : Src) (b : Src)
  /-- SST (R192): Uniform global store at DEV scope. -/
  | sst (e : Bool) (w : Bool) (d : Src) (a : Src) (b : Src)
  /-- BRA (R193): Predicated branch that may diverge the split. -/
  | bra (e : Bool) (c : BitVec 3) (j : BitVec 21)
  /-- JMP (R195): Register-target jump for the whole split. -/
  | jmp (e : Bool) (a : Src)
  /-- JZ (R193): Branches the split if s_c is zero. -/
  | jz (e : Bool) (c : BitVec 3) (j : BitVec 21)
  /-- JNZ (R193): Branches the split if s_c is nonzero. -/
  | jnz (e : Bool) (c : BitVec 3) (j : BitVec 21)
  /-- CALL (R193): Writes the return address to s20:s21 and branches. -/
  | call (e : Bool) (j : BitVec 21)
  /-- RET (R195): Register-target return. -/
  | ret (e : Bool) (a : Src)
  /-- RCV (R194): Records the reconvergence address for the next divergence. -/
  | rcv (e : Bool) (j : BitVec 21)
  /-- JOIN (R33): Starts a pending arm, merges splits, or waits for siblings. -/
  | join (e : Bool)
  /-- EXIT (R196): Waits for results, releases, and retires the active lanes. -/
  | exit (e : Bool)
  /-- BAR (R197): Arrives at block barrier b after a BLK-scope fence. -/
  | bar (e : Bool) (b : BitVec 4)
  /-- CBAR (R198): Arrives at the cohort barrier after a CLU-scope fence. -/
  | cbar (e : Bool)
  /-- BINIT (R201): Initialises a barrier object. -/
  | binit (e : Bool) (d : Src) (a : Src) (b : Src)
  /-- BARV (R202): Arrives at a barrier object, adding expected bytes, returning the phase. -/
  | barv (e : Bool) (d : RegNum) (a : Src) (b : Src)
  /-- BWAIT (R203): Parks until the object's phase passes the token. -/
  | bwait (e : Bool) (a : Src) (b : Src)
  /-- YIELD (R204): Waits for a phase and continues at a label. -/
  | yield (e : Bool) (c : BitVec 3) (j : BitVec 21)
  /-- FENCE (R206): Orders the split's own accesses at the given form and scope. -/
  | fence (e : Bool) (f : FenceForm) (c : Scope)
  /-- REGREQ (R207): Requests a larger register count, parking until granted. -/
  | regreq (e : Bool) (n : BitVec 7)
  /-- REGREL (R208): Lowers the group's register count. -/
  | regrel (e : Bool) (n : BitVec 7)
  /-- SETFMT (R209): Writes one field of the split's FMT. -/
  | setfmt (e : Bool) (o : FmtField) (a : Src)
  /-- SIGX (R210): Exchanges the split's signature. -/
  | sigx (e : Bool) (d : RegNum) (a : Src)
  /-- SIGCHK (R210): Checks the signature, raising SIGNATURE on mismatch. -/
  | sigchk (e : Bool) (a : Src)
  /-- MFSR (R211): Reads a special register. -/
  | mfsr (e : Bool) (d : RegNum) (i : BitVec 8)
  /-- MTSR (R211): Writes a special register. -/
  | mtsr (e : Bool) (a : Src) (i : BitVec 8)
  /-- TRAP (R212): Raises SOFTWARE with code k. -/
  | trap (e : Bool) (k : BitVec 16)
  /-- RTE (R213): Returns from a trap, or ends a save or restore routine. -/
  | rte (e : Bool)
  /-- BKPT (R212): Raises BREAKPOINT, or stops the group under debugging. -/
  | bkpt (e : Bool) (k : BitVec 16)
  /-- NOP (R214): Does nothing; NOP.e closes a run. -/
  | nop (e : Bool)
  /-- SLEEP (R214): Parks the split in WAIT for a number of ticks. -/
  | sleep (e : Bool) (a : Src)
  /-- LAUNCH (R215): Posts a child launch packet to the raft. -/
  | launch (e : Bool) (a : Src) (b : Src)
  /-- SEND (R216): Releases at SYS scope and appends an event record. -/
  | send (e : Bool) (a : Src) (b : Src)
  /-- WAIT (R186): Parks the split while a memory word equals b. -/
  | wait (e : Bool) (w : Bool) (d : Src) (a : Src) (b : Src)
  /-- SALLOC (R180): Allocates scratchpad with a lifetime. -/
  | salloc (e : Bool) (m : Bool) (d : RegNum) (a : Src) (b : Src)
  /-- SFREE (R181): Frees a scratchpad allocation after its accesses are performed. -/
  | sfree (e : Bool) (m : Bool) (a : Src)
  /-- RENEW (R183): Rewrites segments of an allocation, resetting their ages. -/
  | renew (e : Bool) (a : Src) (b : Src)
  /-- SSTAT (R184): Reads a segment's remaining lifetime. -/
  | sstat (e : Bool) (d : RegNum) (a : Src)
  /-- POOLCFG (R188): Supervisor change of a pool's mode. -/
  | poolcfg (e : Bool) (d : RegNum) (a : Src) (b : Src)
  /-- KICK (R239): Hands a copy request to the request engine. -/
  | kick (e : Bool) (a : Src)
  /-- GANG (R223): Sets the gang register. -/
  | gang (e : Bool) (a : Src)
  /-- TAGBIND (R221): Binds a context tag, returning a status. -/
  | tagbind (e : Bool) (o : Fusion) (d : RegNum) (a : Src)
  /-- TAGFREE (R222): Releases a tag after its waves drain. -/
  | tagfree (e : Bool) (a : Src)
  /-- MMA (R225): Accepts a matrix product on a tag, alone or at a gang latch. -/
  | mma (e : Bool) (t : BitVec 5) (a : BitVec 5) (b : BitVec 5)
  /-- ACCZ (R232): Clears a tag's bank and flags. -/
  | accz (e : Bool) (t : BitVec 5)
  /-- ACCRD (R229): Reads and converts bank rows into vector registers. -/
  | accrd (e : Bool) (t : BitVec 5) (d : RegNum) (w : BitVec 6)
  /-- ACCWR (R231): Writes vector registers into bank rows. -/
  | accwr (e : Bool) (t : BitVec 5) (a : RegNum) (w : BitVec 6)
  /-- ACCST (R233): Converts and stores a bank region to memory. -/
  | accst (e : Bool) (t : BitVec 5) (q : BitVec 5)
  /-- MSTAT (R235): Reads a tag's status word, optionally trapping. -/
  | mstat (e : Bool) (t : BitVec 5) (d : BitVec 5) (x : Bool)
  /-- MFREEZE (R236): Stops a tag's admission. -/
  | mfreeze (e : Bool) (t : BitVec 5)
  /-- MTHAW (R236): Resumes a frozen tag's admission. -/
  | mthaw (e : Bool) (t : BitVec 5)
  /-- TAGKILL (R237): Supervisor removal of a tag from any context. -/
  | tagkill (e : Bool) (t : BitVec 5)
  /-- FORK (R246): Block-collective creation of n rival views. -/
  | fork (e : Bool) (c : BitVec 3) (j : BitVec 21)
  /-- CHOOSE (R248): Claims the fork record and commits the rival's view. -/
  | choose (e : Bool)
  /-- VABORT (R250): Discards the executing rival or atomic block. -/
  | vabort (e : Bool)
  /-- VSTAT (R253): Reads a view status word. -/
  | vstat (e : Bool) (d : RegNum) (a : Src)
  /-- VCOMMIT (R258): Takes a checkpoint or commits an atomic block without a barrier number. -/
  | vcommit (e : Bool)
  /-- A host write of `v` (8 bytes when `wide`, else 4) at offset `off` of function `fn` (R14, R381). -/
  | registerWrite (fn : Nat) (off : Nat) (wide : Bool) (v : DWord)
  /-- The producer writes QTAIL (R300). -/
  | qtailDoorbell (q : Nat) (v : Word)
  /-- The host writes QHEAD (R299, R306). -/
  | qheadWrite (q : Nat) (v : Word)
  /-- The host sets ENABLE (R299). -/
  | queueEnable (q : Nat)
  /-- The host clears ENABLE (R306). -/
  | queueDisable (q : Nat)
  /-- The front end reads a LAUNCH packet at QHEAD (R302, R305, R307). -/
  | launchPacket (q : Nat)
  /-- The front end reads a FLUME packet (R303). -/
  | flumePacket (q : Nat)
  /-- The front end reads a WAITSEQ packet (R304). -/
  | waitseqPacket (q : Nat)
  /-- The front end reads a SIGNAL packet (R304). -/
  | signalPacket (q : Nat)
  /-- The front end reads a WRAP packet (R304). -/
  | wrapPacket (q : Nat)
  /-- The front end reads a NOP packet, or a packet that no other type claims (R304, R305). -/
  | nopPacket (q : Nat)
  /-- An accepted packet starts (R309). -/
  | packetStart (q : Nat) (seq : DWord)
  /-- The condition of a started WAITSEQ holds (R304). -/
  | waitseqMet (q : Nat) (seq : DWord)
  /-- A started SIGNAL stores its value (R304). -/
  | signalStore (q : Nat) (seq : DWord)
  /-- The last block exit of a launch is recorded (R309). -/
  | launchComplete (lid : Nat)
  /-- The distributor of partition `part` places the next cohort on `cluster`, member m on `cores[m]` (R311, R312). -/
  | placementStep (part : Nat) (cluster : Nat) (cores : List Nat)
  /-- A rival made by FORK is placed (R247). -/
  | clonePlacement (bid : Nat) (cluster : Nat) (core : Nat)
  /-- A saved block is placed and its restore routine starts (R351). -/
  | blockRestore (bid : Nat) (cluster : Nat) (core : Nat)
  /-- A scheduler issues the split that R45 requires. -/
  | starvationIssue (gid : Nat) (sp : Nat)
  /-- A core detects a register deadlock and evicts a group (R28). -/
  | registerDeadlock (cluster : Nat) (core : Nat)
  /-- A pending REGREQ is granted (R207). -/
  | regreqGrant (gid : Nat)
  /-- Raft window `w` of queue `q` closes (R315). -/
  | raftWindowClose (q : Nat) (w : Nat)
  /-- Stage `j` of a flume item is released and starts (R316). -/
  | stageRelease (item : Nat) (j : Nat)
  /-- Stage `j` passes its deadline (R317). -/
  | stageOverrun (item : Nat) (j : Nat)
  /-- A time slice of a partition ends (R319). -/
  | sliceEnd (part : Nat)
  /-- The grace period of a reclaimed quarter ends (R320). -/
  | reclaimGraceExpiry (quarter : Nat)
  /-- The lanes `lanes` of an outstanding result are written (R48, R49). -/
  | outstandingResultReturn (gid : Nat) (seq : Nat) (lanes : LaneMask)
  /-- Buffered store `i` of a split is performed and acknowledged (R174, R264). -/
  | storeAcknowledge (gid : Nat) (sp : Nat) (i : Nat)
  /-- The host answers a replayable fault (R294, R383). -/
  | faultResponse (asid : Nat) (va : Nat) (invalid : Bool)
  /-- A PRG Response: 0 Success, 1 Invalid Request, 2 Response Failure (R385). -/
  | prgResponse (fn : Nat) (asid : Nat) (va : Nat) (code : Nat)
  /-- A write to the watched sector wakes a WAIT (R186). -/
  | waitWake (gid : Nat) (sp : Nat)
  /-- The timeout of a WAIT passes (R186). -/
  | waitTimeout (gid : Nat) (sp : Nat)
  /-- A SLEEP ends (R214). -/
  | sleepExpiry (gid : Nat) (sp : Nat)
  /-- A parked FENQ or FDEQ can complete (R185). -/
  | fifoResume (gid : Nat) (sp : Nat)
  /-- A site samples its sensors (R182, R282, R416). -/
  | temperatureSample (site : Nat) (readings : List (BitVec 16))
  /-- A scratchpad segment reaches its lifetime (R182, R200). -/
  | segmentExpiry (seg : Nat)
  /-- An L2 line of age 48 reference microseconds is written back (R281). -/
  | l2LineWriteback (cluster : Nat) (line : Nat)
  /-- An L2 line of age 56 reference microseconds is dropped (R281). -/
  | l2LineDrop (cluster : Nat) (line : Nat)
  /-- The engine acts on one destination piece of a copy (R240, R241, R273). -/
  | copyPiecePerformed (req : Nat) (row : Nat) (off : Nat) (len : Nat)
  /-- The tile fetch unit latches the next pack of a tag (R333, R337). -/
  | tileFetchLatch (cluster : Nat) (p : Nat)
  /-- One cycle of the arbitration domain that holds a quadrant (R331). -/
  | waveAdmission (cluster : Nat) (quadrant : Nat)
  /-- The oldest wave of a tag leaves its region (R324, R326). -/
  | waveExit (cluster : Nat) (p : Nat)
  /-- A killed tag has drained and is FREE (R237). -/
  | tagkillDrainComplete (cluster : Nat) (p : Nat)
  /-- An accumulator check fails (R327). -/
  | accumulatorError (cluster : Nat) (p : Nat) (row : Nat) (col : Nat) (corrected : Bool)
  /-- A check of unit `unit` fails on the sector at `pa` (R371 to R373); from 2^52 on, `pa` names bytes of the clusters' pools. -/
  | errorDetected (unit : Nat) (pa : Nat) (corrected : Bool) (lost : Bool)
  /-- A register file or split table check fails (R374). -/
  | registerFileError (gid : Nat) (corrected : Bool)
  /-- A flit of a link request fails and is retried (R387). -/
  | flitRetry (req : Nat)
  /-- A link access has not completed after 2^22 ticks (R387). -/
  | linkAccessTimeout (req : Nat)
  /-- Another device of the domain accesses this device: kind 0 load, 1 store, 2.. an atomic by its slot (R386, R388). -/
  | remoteAccess (tenancy : Nat) (off : Nat) (kind : Nat) (bytes : List Byte)
  /-- The oldest echo entry of a scheduler is re-executed on `lanes`, with mismatching lanes (R375, R376). -/
  | echoReexecute (sched : Nat) (lanes : LaneMask) (mismatch : LaneMask)
  /-- The oldest echo entry of a scheduler is dropped unchecked (R375). -/
  | echoEntryTimeout (sched : Nat)
  /-- The dead sectors of a discarded view are reclaimed (R366, R369). -/
  | sectorReclaim (view : Nat)
  /-- A fetch matches an enabled comparator (R357). -/
  | breakpointMatch (gid : Nat) (sp : Nat) (n : Nat)
  /-- The control window starts a PREEMPT (R342, R343). -/
  | preempt (fn : Nat) (keep : Bool)
  /-- The control window starts a KILL (R355). -/
  | kill (fn : Nat)
  /-- The control window starts a STOP (R358). -/
  | stop (fn : Nat) (stopblk : Bool)
  /-- The control window starts a RESUME (R358). -/
  | resume (fn : Nat)
  /-- The control window starts a STEP (R359). -/
  | step (fn : Nat)
  /-- The control window starts a DEBUGON (R357). -/
  | debugon (fn : Nat) (stopblk : Bool)
  /-- The control window starts a DEBUGOFF (R357). -/
  | debugoff (fn : Nat)
  /-- The host writes RTAIL of the command ring (R382). -/
  | commandRingTail (v : Word)
  /-- The host writes RHEAD of a ring (R382). -/
  | ringHeadWrite (fn : Nat) (r : Nat) (v : Word)
  /-- The next command of the ring is a BIND (R292). -/
  | bind
  /-- The next command of the ring is a RETIRE (R292). -/
  | retire
  /-- The next command of the ring is an INVAL (R292). -/
  | inval
  /-- The next command of the ring is a MIGRATE (R296). -/
  | migrate
  /-- Command `i` in progress completes (R291). -/
  | commandCompletion (i : Nat)
  /-- The migration of command `i` takes its next step (R277). -/
  | migrateProceed (i : Nat)
  /-- Step 2 of a migration has lasted 1,000,000 ticks (R296). -/
  | migratePinned (i : Nat)
  /-- An ATS invalidation of a function (R384). -/
  | atsInvalidation (fn : Nat) (addr : Nat) (len : Nat)
  /-- PART of a quarter is written (R390). -/
  | quarterPartWrite (quarter : Nat) (v : BitVec 6)
  /-- LENT of a quarter is written from 63 to a borrower (R390). -/
  | quarterLend (quarter : Nat) (v : BitVec 6)
  /-- LENT of a quarter is written from a borrower to 63 (R320). -/
  | quarterReclaim (quarter : Nat)
  /-- The change of a quarter completes and PEND clears (R390, R407). -/
  | layoutChangeComplete (quarter : Nat)
  /-- The latch change of a core takes effect (R397). -/
  | latchChange (core : Nat)
  /-- A source of a tenancy ends a 1,024-tick period (R395). -/
  | rateControlPeriod (tenancy : Nat) (source : Nat)
  /-- The host loads a partition's supervisor image, with its entry and save-region base (R340, R401). -/
  | supervisorImageLoad (part : Nat) (image : List Byte) (entry : Pc) (save : Pc)
  /-- Power-on reset: boot starts (R412). -/
  | powerOnReset
  /-- A boot stage ends: 0 with success, else a FAILCODE (R412). -/
  | bootStageEnd (fail : Nat)
  /-- A boot stage lasts 5 s (R412). -/
  | bootStageTimeout
  /-- The management core sets the ratios of a millisecond (R415). -/
  | powerRatioUpdate (pnow : BitVec 16)
  /-- A cluster, or a whole site, is reset or lost (R308). -/
  | unitLoss (site : Bool) (n : Nat)
  /-- A word that names no instruction issues (R65). -/
  | illegalOp (w : Word)
  /-- CLOCK reaches the tick a split waits for (R264). -/
  | gwctReached (gid : Nat) (sp : Nat)
  /-- The host sets PRI Enable (R385). -/
  | priEnable (fn : Nat)
  /-- The next command of the ring is malformed (R291). -/
  | badCommand
  /-- The loader places an MLOF image at virtual `base`, physical `frame` (R98, R99). -/
  | imageLoad (asid : Nat) (base : Nat) (frame : Nat) (image : List Byte)
  /-- The loader unloads the image at `base` (R100). -/
  | imageUnload (base : Nat)
  /-- SPDM (R403). -/
  | getVersion (fn : Nat) (version : Byte) (payload : List Byte)
  /-- SPDM (R403). -/
  | getCapabilities (fn : Nat) (version : Byte) (payload : List Byte)
  /-- SPDM (R402, R403). -/
  | negotiateAlgorithms (fn : Nat) (version : Byte) (payload : List Byte)
  /-- SPDM (R403). -/
  | getDigests (fn : Nat) (version : Byte) (payload : List Byte)
  /-- SPDM (R403). -/
  | getCertificate (fn : Nat) (version : Byte) (payload : List Byte)
  /-- SPDM (R404). -/
  | challenge (fn : Nat) (version : Byte) (payload : List Byte)
  /-- SPDM (R404). -/
  | getMeasurements (fn : Nat) (version : Byte) (payload : List Byte)
  /-- SPDM (R403). -/
  | keyExchange (fn : Nat) (version : Byte) (payload : List Byte)
  /-- SPDM (R403). -/
  | finish (fn : Nat) (version : Byte) (payload : List Byte)
  /-- A key command in a session (R405, R408). -/
  | keyProvision (fn : Nat) (lseq : DWord) (key : BitVec 512) (policy : BitVec 512)
  /-- A key command (R405, R406). -/
  | keyExport (fn : Nat) (policy : BitVec 512)
  /-- A key command (R405, R406, R408). -/
  | keyLoad (fn : Nat) (lseq : DWord) (blob : List Byte) (policy : BitVec 512)
  /-- A key command (R405). -/
  | keyClear (fn : Nat)
  /-- A key command (R409). -/
  | handoverExport (fn : Nat) (hseq : DWord) (dest : List Byte) (recovery : List Byte) (digest : BitVec 512)
  /-- A key command (R409). -/
  | handoverCommit (fn : Nat) (hseq : DWord)
  /-- A key command (R408, R409). -/
  | handoverImport (fn : Nat) (lseq : DWord) (packet : List Byte) (record : List Byte)
  /-- A key command (R409). -/
  | handoverConfirm (fn : Nat) (confirmation : List Byte)
  /-- An SPDM request code that the responder does not know (R403). -/
  | unsupportedRequest (fn : Nat) (code : Byte) (version : Byte) (payload : List Byte)
deriving DecidableEq, Repr

end Sys2Proof
end

