-- ==== Sys2Proof/WellFormed.lean ====
section
/-! DEFINITION. Which instructions a word can carry: a register source is not number 127 (that number names the literal
word, R21), and every literal source of one instruction is the same word (R62). Steps that no word encodes are not
well-formed words. What an instruction's operands must be for it to execute is checked when it executes. -/

namespace Sys2Proof

/-- A source that a 7-bit field can name. -/
def Src.wf : Src → Bool
  | .reg r => r != 127
  | .lit _ => true

/-- Two sources name one literal word (R62). -/
def Src.sameLit : Src → Src → Bool
  | .lit x, .lit y => x == y
  | _, _ => true

/-- The sources of an instruction can share its literal word. -/
def wfSrcs : List Src → Bool
  | [] => true
  | s :: rest => s.wf && rest.all (Src.sameLit s) && wfSrcs rest

/-- The instruction is the reading of some word. -/
def Instr.wf : Instr → Bool
  | .iadd _ _ _ a b => wfSrcs [a, b]
  | .isub _ _ _ a b => wfSrcs [a, b]
  | .iaddc _ _ _ a b => wfSrcs [a, b]
  | .imul _ _ a b => wfSrcs [a, b]
  | .imulh _ _ _ a b => wfSrcs [a, b]
  | .imad _ _ a b => wfSrcs [a, b]
  | .imin _ _ _ a b => wfSrcs [a, b]
  | .imax _ _ _ a b => wfSrcs [a, b]
  | .iabs _ _ _ a => wfSrcs [a]
  | .ineg _ _ _ a => wfSrcs [a]
  | .and _ _ a b => wfSrcs [a, b]
  | .andn _ _ a b => wfSrcs [a, b]
  | .or _ _ a b => wfSrcs [a, b]
  | .xor _ _ a b => wfSrcs [a, b]
  | .shl _ _ a b => wfSrcs [a, b]
  | .shr _ _ a b => wfSrcs [a, b]
  | .sar _ _ a b => wfSrcs [a, b]
  | .rotl _ _ a b => wfSrcs [a, b]
  | .bfx _ _ _ a b => wfSrcs [a, b]
  | .bfi _ _ a b => wfSrcs [a, b]
  | .popc _ _ a => wfSrcs [a]
  | .clz _ _ a => wfSrcs [a]
  | .brev _ _ a => wfSrcs [a]
  | .prmt _ _ a b => wfSrcs [a, b]
  | .lea _ _ _ a b => wfSrcs [a, b]
  | .mov _ _ _ a => wfSrcs [a]
  | .movi _ _ _ => true
  | .icmp _ _ _ a b => wfSrcs [a, b]
  | .isel _ _ _ a b => wfSrcs [a, b]
  | .pset _ _ _ _ _ => true
  | .pmov _ _ _ a => wfSrcs [a]
  | .qswp _ _ _ a => wfSrcs [a]
  | .qbc _ _ _ a => wfSrcs [a]
  | .shfl _ _ _ a b => wfSrcs [a, b]
  | .vote _ _ _ _ => true
  | .first _ _ a => wfSrcs [a]
  | .match _ _ _ a => wfSrcs [a]
  | .reda _ _ _ a => wfSrcs [a]
  | .redm _ _ _ a => wfSrcs [a]
  | .fadd _ _ _ a b => wfSrcs [a, b]
  | .fsub _ _ _ a b => wfSrcs [a, b]
  | .fmul _ _ _ a b => wfSrcs [a, b]
  | .ffma _ _ _ a b => wfSrcs [a, b]
  | .fmin _ _ _ a b => wfSrcs [a, b]
  | .fmax _ _ _ a b => wfSrcs [a, b]
  | .fcmp _ _ _ a b => wfSrcs [a, b]
  | .fclass _ _ a => wfSrcs [a]
  | .frcp _ _ a => wfSrcs [a]
  | .frsq _ _ a => wfSrcs [a]
  | .fsqrt _ _ a => wfSrcs [a]
  | .fex2 _ _ a => wfSrcs [a]
  | .flg2 _ _ a => wfSrcs [a]
  | .fsin _ _ a => wfSrcs [a]
  | .fcos _ _ a => wfSrcs [a]
  | .ftanh _ _ a => wfSrcs [a]
  | .fdivs _ _ a b => wfSrcs [a, b]
  | .hadd2 _ _ a b => wfSrcs [a, b]
  | .hmul2 _ _ a b => wfSrcs [a, b]
  | .hfma2 _ _ a b => wfSrcs [a, b]
  | .hcmp2 _ _ _ a b => wfSrcs [a, b]
  | .cvti _ _ a _ => wfSrcs [a]
  | .cvtf _ _ a _ => wfSrcs [a]
  | .cvtdx _ _ a _ => wfSrcs [a]
  | .cvtxd _ _ a _ => wfSrcs [a]
  | .dxexp _ _ a => wfSrcs [a]
  | .srnd _ _ a _ => wfSrcs [a]
  | .dot4 _ _ _ a b => wfSrcs [a, b]
  | .ldg _ _ _ _ _ a => wfSrcs [a]
  | .stg _ _ _ _ d a => wfSrcs [d, a]
  | .lds _ _ _ _ _ a => wfSrcs [a]
  | .sts _ _ _ _ d a => wfSrcs [d, a]
  | .atomgA _ _ _ _ _ a => wfSrcs [a]
  | .atomgB _ _ _ _ _ a => wfSrcs [a]
  | .atomsA _ _ _ _ _ a => wfSrcs [a]
  | .atomsB _ _ _ _ _ a => wfSrcs [a]
  | .pref _ _ _ a => wfSrcs [a]
  | .fenq _ _ _ d => wfSrcs [d]
  | .fdeq _ _ _ _ => true
  | .sadd _ _ a b => wfSrcs [a, b]
  | .ssub _ _ a b => wfSrcs [a, b]
  | .smul _ _ a b => wfSrcs [a, b]
  | .sand _ _ a b => wfSrcs [a, b]
  | .sor _ _ a b => wfSrcs [a, b]
  | .sxor _ _ a b => wfSrcs [a, b]
  | .sshl _ _ a b => wfSrcs [a, b]
  | .sshr _ _ a b => wfSrcs [a, b]
  | .scmp _ _ _ a b => wfSrcs [a, b]
  | .smov _ _ _ a => wfSrcs [a]
  | .sli _ _ _ => true
  | .sld _ _ _ a b => wfSrcs [a, b]
  | .sst _ _ d a b => wfSrcs [d, a, b]
  | .bra _ _ _ => true
  | .jmp _ a => wfSrcs [a]
  | .jz _ _ _ => true
  | .jnz _ _ _ => true
  | .call _ _ => true
  | .ret _ a => wfSrcs [a]
  | .rcv _ _ => true
  | .join _ => true
  | .exit _ => true
  | .bar _ _ => true
  | .cbar _ => true
  | .binit _ d a b => wfSrcs [d, a, b]
  | .barv _ _ a b => wfSrcs [a, b]
  | .bwait _ a b => wfSrcs [a, b]
  | .yield _ _ _ => true
  | .fence _ _ _ => true
  | .regreq _ _ => true
  | .regrel _ _ => true
  | .setfmt _ _ a => wfSrcs [a]
  | .sigx _ _ a => wfSrcs [a]
  | .sigchk _ a => wfSrcs [a]
  | .mfsr _ _ _ => true
  | .mtsr _ a _ => wfSrcs [a]
  | .trap _ _ => true
  | .rte _ => true
  | .bkpt _ _ => true
  | .nop _ => true
  | .sleep _ a => wfSrcs [a]
  | .launch _ a b => wfSrcs [a, b]
  | .send _ a b => wfSrcs [a, b]
  | .wait _ _ d a b => wfSrcs [d, a, b]
  | .salloc _ _ _ a b => wfSrcs [a, b]
  | .sfree _ _ a => wfSrcs [a]
  | .renew _ a b => wfSrcs [a, b]
  | .sstat _ _ a => wfSrcs [a]
  | .poolcfg _ _ a b => wfSrcs [a, b]
  | .kick _ a => wfSrcs [a]
  | .gang _ a => wfSrcs [a]
  | .tagbind _ _ _ a => wfSrcs [a]
  | .tagfree _ a => wfSrcs [a]
  | .mma _ _ _ _ => true
  | .accz _ _ => true
  | .accrd _ _ _ _ => true
  | .accwr _ _ _ _ => true
  | .accst _ _ _ => true
  | .mstat _ _ _ _ => true
  | .mfreeze _ _ => true
  | .mthaw _ _ => true
  | .tagkill _ _ => true
  | .fork _ _ _ => true
  | .choose _ => true
  | .vabort _ => true
  | .vstat _ _ a => wfSrcs [a]
  | .vcommit _ => true
  | .registerWrite _ _ _ _ => false
  | .qtailDoorbell _ _ => false
  | .qheadWrite _ _ => false
  | .queueEnable _ => false
  | .queueDisable _ => false
  | .launchPacket _ => false
  | .flumePacket _ => false
  | .waitseqPacket _ => false
  | .signalPacket _ => false
  | .wrapPacket _ => false
  | .nopPacket _ => false
  | .packetStart _ _ => false
  | .waitseqMet _ _ => false
  | .signalStore _ _ => false
  | .launchComplete _ => false
  | .placementStep _ _ _ => false
  | .clonePlacement _ _ _ => false
  | .blockRestore _ _ _ => false
  | .starvationIssue _ _ => false
  | .registerDeadlock _ _ => false
  | .regreqGrant _ => false
  | .raftWindowClose _ _ => false
  | .stageRelease _ _ => false
  | .stageOverrun _ _ => false
  | .sliceEnd _ => false
  | .reclaimGraceExpiry _ => false
  | .outstandingResultReturn _ _ _ => false
  | .storeAcknowledge _ _ _ => false
  | .faultResponse _ _ _ => false
  | .prgResponse _ _ _ _ => false
  | .waitWake _ _ => false
  | .waitTimeout _ _ => false
  | .sleepExpiry _ _ => false
  | .fifoResume _ _ => false
  | .temperatureSample _ _ => false
  | .segmentExpiry _ => false
  | .l2LineWriteback _ _ => false
  | .l2LineDrop _ _ => false
  | .copyPiecePerformed _ _ _ _ => false
  | .tileFetchLatch _ _ => false
  | .waveAdmission _ _ => false
  | .waveExit _ _ => false
  | .tagkillDrainComplete _ _ => false
  | .accumulatorError _ _ _ _ _ => false
  | .errorDetected _ _ _ _ => false
  | .registerFileError _ _ => false
  | .flitRetry _ => false
  | .linkAccessTimeout _ => false
  | .remoteAccess _ _ _ _ => false
  | .echoReexecute _ _ _ => false
  | .echoEntryTimeout _ => false
  | .sectorReclaim _ => false
  | .breakpointMatch _ _ _ => false
  | .preempt _ _ => false
  | .kill _ => false
  | .stop _ _ => false
  | .resume _ => false
  | .step _ => false
  | .debugon _ _ => false
  | .debugoff _ => false
  | .commandRingTail _ => false
  | .ringHeadWrite _ _ _ => false
  | .bind => false
  | .retire => false
  | .inval => false
  | .migrate => false
  | .commandCompletion _ => false
  | .migrateProceed _ => false
  | .migratePinned _ => false
  | .atsInvalidation _ _ _ => false
  | .quarterPartWrite _ _ => false
  | .quarterLend _ _ => false
  | .quarterReclaim _ => false
  | .layoutChangeComplete _ => false
  | .latchChange _ => false
  | .rateControlPeriod _ _ => false
  | .getVersion _ _ _ => false
  | .getCapabilities _ _ _ => false
  | .negotiateAlgorithms _ _ _ => false
  | .getDigests _ _ _ => false
  | .getCertificate _ _ _ => false
  | .challenge _ _ _ => false
  | .getMeasurements _ _ _ => false
  | .keyExchange _ _ _ => false
  | .finish _ _ _ => false
  | .keyProvision _ _ _ _ => false
  | .keyExport _ _ => false
  | .keyLoad _ _ _ _ => false
  | .keyClear _ => false
  | .handoverExport _ _ _ _ _ => false
  | .handoverCommit _ _ => false
  | .handoverImport _ _ _ _ => false
  | .handoverConfirm _ _ => false
  | .supervisorImageLoad _ _ _ _ => false
  | .powerOnReset => false
  | .bootStageEnd _ => false
  | .bootStageTimeout => false
  | .powerRatioUpdate _ => false
  | .unitLoss _ _ => false
  | .illegalOp _ => false
  | .gwctReached _ _ => false
  | .priEnable _ => false
  | .unsupportedRequest _ _ _ _ => false
  | .badCommand => false
  | .imageLoad _ _ _ _ => false
  | .imageUnload _ => false

end Sys2Proof
end

