-- ==== Sys2Proof/Decode.lean ====
section
/-! DEFINITION. The decoder and the encoder of instruction words (02_formats_opcode_map.md). The decoder is total and
refuses by name: `illegalOp` for a word of no assigned slot (R65), `illegalOperand` for a field that must be zero or a
reserved field value (R66). Field values that an instruction carries and then refuses (an odd pair, lit as a destination,
a predicate field above 7 of PMOV, FORK with c = 0) are decoded, and the meaning raises ILLEGAL_OPERAND. -/

namespace Sys2Proof

/-- Why a word is no instruction. `supervisor` of `illegalOperand`: the word's major is marked S in R69, or it names a special register that R35 closes to user mode, so that a user's
word raises PRIVILEGE first (R64). `truncated`: fewer bytes than the instruction needs. -/
inductive DecodeError where
  | illegalOp
  | illegalOperand (supervisor : Bool)
  | truncated
deriving DecidableEq, Repr

abbrev DecodeResult := Except DecodeError Instr


/-- Slot or field code (02_formats_opcode_map.md). -/
def SatMode.code : SatMode → BitVec 3
  | .wrap => 0
  | .sat => 1
  | .usat => 2

/-- The value of a code, `none` where the code is unassigned or reserved. -/
def SatMode.ofCode (c : BitVec 3) : Option SatMode :=
  match c.toNat with
  | 0 => some .wrap
  | 1 => some .sat
  | 2 => some .usat
  | _ => none

/-- Slot or field code (02_formats_opcode_map.md). -/
def CmpOp.code : CmpOp → BitVec 3
  | .eq => 0
  | .ne => 1
  | .lt => 2
  | .le => 3
  | .gt => 4
  | .ge => 5
  | .ltu => 6
  | .leu => 7

/-- The value of a code, `none` where the code is unassigned or reserved. -/
def CmpOp.ofCode (c : BitVec 3) : Option CmpOp :=
  match c.toNat with
  | 0 => some .eq
  | 1 => some .ne
  | 2 => some .lt
  | 3 => some .le
  | 4 => some .gt
  | 5 => some .ge
  | 6 => some .ltu
  | 7 => some .leu
  | _ => none

/-- Slot or field code (02_formats_opcode_map.md). -/
def FCmpOp.code : FCmpOp → BitVec 3
  | .eq => 0
  | .ne => 1
  | .lt => 2
  | .le => 3
  | .gt => 4
  | .ge => 5
  | .un => 6
  | .ord => 7

/-- The value of a code, `none` where the code is unassigned or reserved. -/
def FCmpOp.ofCode (c : BitVec 3) : Option FCmpOp :=
  match c.toNat with
  | 0 => some .eq
  | 1 => some .ne
  | 2 => some .lt
  | 3 => some .le
  | 4 => some .gt
  | 5 => some .ge
  | 6 => some .un
  | 7 => some .ord
  | _ => none

/-- Slot or field code (02_formats_opcode_map.md). -/
def PsetOp.code : PsetOp → BitVec 3
  | .and => 0
  | .or => 1
  | .xor => 2
  | .andn => 3
  | .orn => 4
  | .nand => 5
  | .nor => 6
  | .xnor => 7

/-- The value of a code, `none` where the code is unassigned or reserved. -/
def PsetOp.ofCode (c : BitVec 3) : Option PsetOp :=
  match c.toNat with
  | 0 => some .and
  | 1 => some .or
  | 2 => some .xor
  | 3 => some .andn
  | 4 => some .orn
  | 5 => some .nand
  | 6 => some .nor
  | 7 => some .xnor
  | _ => none

/-- Slot or field code (02_formats_opcode_map.md). -/
def PmovOp.code : PmovOp → BitVec 3
  | .pv => 0
  | .vp => 1
  | .pw => 2
  | .wp => 3

/-- The value of a code, `none` where the code is unassigned or reserved. -/
def PmovOp.ofCode (c : BitVec 3) : Option PmovOp :=
  match c.toNat with
  | 0 => some .pv
  | 1 => some .vp
  | 2 => some .pw
  | 3 => some .wp
  | _ => none

/-- Slot or field code (02_formats_opcode_map.md). -/
def QswpOp.code : QswpOp → BitVec 3
  | .h => 0
  | .v => 1
  | .d => 2

/-- The value of a code, `none` where the code is unassigned or reserved. -/
def QswpOp.ofCode (c : BitVec 3) : Option QswpOp :=
  match c.toNat with
  | 0 => some .h
  | 1 => some .v
  | 2 => some .d
  | _ => none

/-- Slot or field code (02_formats_opcode_map.md). -/
def ShflOp.code : ShflOp → BitVec 3
  | .idx => 0
  | .up => 1
  | .down => 2
  | .xor => 3

/-- The value of a code, `none` where the code is unassigned or reserved. -/
def ShflOp.ofCode (c : BitVec 3) : Option ShflOp :=
  match c.toNat with
  | 0 => some .idx
  | 1 => some .up
  | 2 => some .down
  | 3 => some .xor
  | _ => none

/-- Slot or field code (02_formats_opcode_map.md). -/
def VoteOp.code : VoteOp → BitVec 3
  | .all => 0
  | .any => 1
  | .same => 2
  | .mask => 3
  | .count => 4
  | .rank => 5

/-- The value of a code, `none` where the code is unassigned or reserved. -/
def VoteOp.ofCode (c : BitVec 3) : Option VoteOp :=
  match c.toNat with
  | 0 => some .all
  | 1 => some .any
  | 2 => some .same
  | 3 => some .mask
  | 4 => some .count
  | 5 => some .rank
  | _ => none

/-- Slot or field code (02_formats_opcode_map.md). -/
def MatchOp.code : MatchOp → BitVec 3
  | .mask => 0
  | .lead => 1
  | .count => 2
  | .all => 3

/-- The value of a code, `none` where the code is unassigned or reserved. -/
def MatchOp.ofCode (c : BitVec 3) : Option MatchOp :=
  match c.toNat with
  | 0 => some .mask
  | 1 => some .lead
  | 2 => some .count
  | 3 => some .all
  | _ => none

/-- Slot or field code (02_formats_opcode_map.md). -/
def RedmOp.code : RedmOp → BitVec 3
  | .smin => 0
  | .smax => 1
  | .umin => 2
  | .umax => 3
  | .fmin => 4
  | .fmax => 5

/-- The value of a code, `none` where the code is unassigned or reserved. -/
def RedmOp.ofCode (c : BitVec 3) : Option RedmOp :=
  match c.toNat with
  | 0 => some .smin
  | 1 => some .smax
  | 2 => some .umin
  | 3 => some .umax
  | 4 => some .fmin
  | 5 => some .fmax
  | _ => none

/-- Slot or field code (02_formats_opcode_map.md). -/
def FRnd.code : FRnd → BitVec 3
  | .fmt => 0
  | .rne => 1
  | .rz => 2
  | .rdn => 3
  | .rup => 4

/-- The value of a code, `none` where the code is unassigned or reserved. -/
def FRnd.ofCode (c : BitVec 3) : Option FRnd :=
  match c.toNat with
  | 0 => some .fmt
  | 1 => some .rne
  | 2 => some .rz
  | 3 => some .rdn
  | 4 => some .rup
  | _ => none

/-- Slot or field code (02_formats_opcode_map.md). -/
def Dot4Op.code : Dot4Op → BitVec 3
  | .i8 => 0
  | .u8 => 1
  | .e4m3 => 2
  | .e5m2 => 3

/-- The value of a code, `none` where the code is unassigned or reserved. -/
def Dot4Op.ofCode (c : BitVec 3) : Option Dot4Op :=
  match c.toNat with
  | 0 => some .i8
  | 1 => some .u8
  | 2 => some .e4m3
  | 3 => some .e5m2
  | _ => none

/-- Slot or field code (02_formats_opcode_map.md). -/
def LoadSize.code : LoadSize → BitVec 3
  | .u8 => 0
  | .s8 => 1
  | .u16 => 2
  | .s16 => 3
  | .b32 => 4
  | .b64 => 5
  | .b128 => 6

/-- The value of a code, `none` where the code is unassigned or reserved. -/
def LoadSize.ofCode (c : BitVec 3) : Option LoadSize :=
  match c.toNat with
  | 0 => some .u8
  | 1 => some .s8
  | 2 => some .u16
  | 3 => some .s16
  | 4 => some .b32
  | 5 => some .b64
  | 6 => some .b128
  | _ => none

/-- Slot or field code (02_formats_opcode_map.md). -/
def StoreSize.code : StoreSize → BitVec 3
  | .b8 => 0
  | .b16 => 2
  | .b32 => 4
  | .b64 => 5
  | .b128 => 6

/-- The value of a code, `none` where the code is unassigned or reserved. -/
def StoreSize.ofCode (c : BitVec 3) : Option StoreSize :=
  match c.toNat with
  | 0 => some .b8
  | 2 => some .b16
  | 4 => some .b32
  | 5 => some .b64
  | 6 => some .b128
  | _ => none

/-- Slot or field code (02_formats_opcode_map.md). -/
def FifoSize.code : FifoSize → BitVec 3
  | .b32 => 4
  | .b64 => 5
  | .b128 => 6

/-- The value of a code, `none` where the code is unassigned or reserved. -/
def FifoSize.ofCode (c : BitVec 3) : Option FifoSize :=
  match c.toNat with
  | 4 => some .b32
  | 5 => some .b64
  | 6 => some .b128
  | _ => none

/-- Slot or field code (02_formats_opcode_map.md). -/
def PrefLevel.code : PrefLevel → BitVec 3
  | .l1 => 0
  | .l2 => 1
  | .llc => 2

/-- The value of a code, `none` where the code is unassigned or reserved. -/
def PrefLevel.ofCode (c : BitVec 3) : Option PrefLevel :=
  match c.toNat with
  | 0 => some .l1
  | 1 => some .l2
  | 2 => some .llc
  | _ => none

/-- Slot or field code (02_formats_opcode_map.md). -/
def AtomA.code : AtomA → BitVec 3
  | .add => 0
  | .fadd => 1
  | .min => 2
  | .max => 3
  | .and => 4
  | .or => 5
  | .exch => 6
  | .cas => 7

/-- The value of a code, `none` where the code is unassigned or reserved. -/
def AtomA.ofCode (c : BitVec 3) : Option AtomA :=
  match c.toNat with
  | 0 => some .add
  | 1 => some .fadd
  | 2 => some .min
  | 3 => some .max
  | 4 => some .and
  | 5 => some .or
  | 6 => some .exch
  | 7 => some .cas
  | _ => none

/-- Slot or field code (02_formats_opcode_map.md). -/
def AtomB.code : AtomB → BitVec 3
  | .xor => 0
  | .umin => 1
  | .umax => 2
  | .add64 => 3
  | .exch64 => 4
  | .cas64 => 5
  | .min64 => 6
  | .max64 => 7

/-- The value of a code, `none` where the code is unassigned or reserved. -/
def AtomB.ofCode (c : BitVec 3) : Option AtomB :=
  match c.toNat with
  | 0 => some .xor
  | 1 => some .umin
  | 2 => some .umax
  | 3 => some .add64
  | 4 => some .exch64
  | 5 => some .cas64
  | 6 => some .min64
  | 7 => some .max64
  | _ => none

/-- Slot or field code (02_formats_opcode_map.md). -/
def Scope.code : Scope → BitVec 2
  | .blk => 0
  | .clu => 1
  | .dev => 2
  | .sys => 3

/-- The value of a code, `none` where the code is unassigned or reserved. -/
def Scope.ofCode (c : BitVec 2) : Option Scope :=
  match c.toNat with
  | 0 => some .blk
  | 1 => some .clu
  | 2 => some .dev
  | 3 => some .sys
  | _ => none

/-- Slot or field code (02_formats_opcode_map.md). -/
def FenceForm.code : FenceForm → BitVec 3
  | .rel => 0
  | .acq => 1
  | .ar => 2
  | .sc => 3

/-- The value of a code, `none` where the code is unassigned or reserved. -/
def FenceForm.ofCode (c : BitVec 3) : Option FenceForm :=
  match c.toNat with
  | 0 => some .rel
  | 1 => some .acq
  | 2 => some .ar
  | 3 => some .sc
  | _ => none

/-- Slot or field code (02_formats_opcode_map.md). -/
def FmtField.code : FmtField → BitVec 3
  | .rm => 0
  | .sat => 1
  | .narrow => 2
  | .afmt => 3
  | .bfmt => 4
  | .acc => 5
  | .out => 6
  | .all => 7

/-- The value of a code, `none` where the code is unassigned or reserved. -/
def FmtField.ofCode (c : BitVec 3) : Option FmtField :=
  match c.toNat with
  | 0 => some .rm
  | 1 => some .sat
  | 2 => some .narrow
  | 3 => some .afmt
  | 4 => some .bfmt
  | 5 => some .acc
  | 6 => some .out
  | 7 => some .all
  | _ => none

/-- Slot or field code (02_formats_opcode_map.md). -/
def Fusion.code : Fusion → BitVec 3
  | .q => 0
  | .h => 1
  | .v => 2
  | .all => 3

/-- The value of a code, `none` where the code is unassigned or reserved. -/
def Fusion.ofCode (c : BitVec 3) : Option Fusion :=
  match c.toNat with
  | 0 => some .q
  | 1 => some .h
  | 2 => some .v
  | 3 => some .all
  | _ => none

/-- The 7-bit field of a source: 127 names the literal word (R21). -/
def Src.field : Src → RegNum
  | .reg r => r
  | .lit _ => 127

/-- A source field and the word that follows the instruction. -/
def Src.ofField (r : RegNum) (lit : Word) : Src :=
  if r = 127 then .lit lit else .reg r

/-- The bit field of `w` whose lowest bit is `lo`. -/
def bits (w : Word) (lo n : Nat) : BitVec n := w.extractLsb' lo n

/-- VR and UR words (R55, R58). -/
def packR (u : Bool) (e : Bool) (op : BitVec 6) (f : BitVec 3) (d a b : RegNum) : Word :=
  BitVec.ofBool u ++ BitVec.ofBool e ++ op ++ f ++ d ++ a ++ b

/-- VI words (R56): MOVI. -/
def packI (e : Bool) (op : BitVec 6) (d : RegNum) (i : BitVec 17) : Word :=
  0#1 ++ BitVec.ofBool e ++ op ++ d ++ i

/-- VM words (R57). -/
def packM (e : Bool) (op : BitVec 6) (z : BitVec 3) (c : BitVec 2) (s : BitVec 5) (d a : RegNum) : Word :=
  0#1 ++ BitVec.ofBool e ++ op ++ z ++ c ++ s ++ d ++ a

/-- UI words (R59): SLI. -/
def packU (e : Bool) (op : BitVec 6) (d : BitVec 5) (i : BitVec 19) : Word :=
  1#1 ++ BitVec.ofBool e ++ op ++ d ++ i

/-- UB words (R60). -/
def packB (e : Bool) (op : BitVec 6) (c : BitVec 3) (j : BitVec 21) : Word :=
  1#1 ++ BitVec.ofBool e ++ op ++ c ++ j

/-- UX words (R61). -/
def packX (e : Bool) (op : BitVec 6) (x : BitVec 24) : Word :=
  1#1 ++ BitVec.ofBool e ++ op ++ x

/-- The low 7-bit form of a predicate field (R55). -/
def predField (p : PredNum) : RegNum := 0#4 ++ p

/-- The first word of an instruction, from the encoding tables of R67 to R70; a step that no word encodes gives 0. -/
def encodeWord : Instr → Word
  | .iadd e m d a b => packR false e 1 m.code d a.field b.field
  | .isub e m d a b => packR false e 2 m.code d a.field b.field
  | .iaddc e k d a b => packR false e 3 k d a.field b.field
  | .imul e d a b => packR false e 4 0 d a.field b.field
  | .imulh e u d a b => packR false e 4 (cond u 2 1) d a.field b.field
  | .imad e d a b => packR false e 5 0 d a.field b.field
  | .imin e u d a b => packR false e 6 (cond u 1 0) d a.field b.field
  | .imax e u d a b => packR false e 6 (cond u 3 2) d a.field b.field
  | .iabs e m d a => packR false e 7 (cond m 1 0) d a.field 0
  | .ineg e m d a => packR false e 8 (cond m 1 0) d a.field 0
  | .and e d a b => packR false e 9 0 d a.field b.field
  | .andn e d a b => packR false e 9 1 d a.field b.field
  | .or e d a b => packR false e 10 0 d a.field b.field
  | .xor e d a b => packR false e 11 0 d a.field b.field
  | .shl e d a b => packR false e 12 0 d a.field b.field
  | .shr e d a b => packR false e 12 1 d a.field b.field
  | .sar e d a b => packR false e 13 0 d a.field b.field
  | .rotl e d a b => packR false e 14 0 d a.field b.field
  | .bfx e m d a b => packR false e 15 (cond m 1 0) d a.field b.field
  | .bfi e d a b => packR false e 15 2 d a.field b.field
  | .popc e d a => packR false e 16 0 d a.field 0
  | .clz e d a => packR false e 17 0 d a.field 0
  | .brev e d a => packR false e 18 0 d a.field 0
  | .prmt e d a b => packR false e 19 0 d a.field b.field
  | .lea e k d a b => packR false e 20 k d a.field b.field
  | .mov e w d a => packR false e 21 (cond w 1 0) d a.field 0
  | .movi e d i => packI e 22 d i
  | .icmp e c d a b => packR false e 23 c.code (predField d) a.field b.field
  | .isel e k d a b => packR false e 24 k d a.field b.field
  | .pset e o d a b => packR false e 25 o.code (predField d) (predField a) (predField b)
  | .pmov e o d a => packR false e 26 o.code d a.field 0
  | .qswp e o d a => packR false e 27 o.code d a.field 0
  | .qbc e l d a => packR false e 27 (1#1 ++ l) d a.field 0
  | .shfl e o d a b => packR false e 28 o.code d a.field b.field
  | .vote e o d a => packR false e 29 o.code d (predField a) 0
  | .first e d a => packR false e 30 0 d a.field 0
  | .match e o d a => packR false e 31 o.code d a.field 0
  | .reda e m d a => packR false e 32 (cond m 1 0) d a.field 0
  | .redm e o d a => packR false e 33 o.code d a.field 0
  | .fadd e r d a b => packR false e 34 r.code d a.field b.field
  | .fsub e r d a b => packR false e 35 r.code d a.field b.field
  | .fmul e r d a b => packR false e 36 r.code d a.field b.field
  | .ffma e r d a b => packR false e 37 r.code d a.field b.field
  | .fmin e m d a b => packR false e 38 (cond m 1 0) d a.field b.field
  | .fmax e m d a b => packR false e 39 (cond m 1 0) d a.field b.field
  | .fcmp e c d a b => packR false e 40 c.code (predField d) a.field b.field
  | .fclass e d a => packR false e 41 0 d a.field 0
  | .frcp e d a => packR false e 42 0 d a.field 0
  | .frsq e d a => packR false e 42 1 d a.field 0
  | .fsqrt e d a => packR false e 42 2 d a.field 0
  | .fex2 e d a => packR false e 42 3 d a.field 0
  | .flg2 e d a => packR false e 42 4 d a.field 0
  | .fsin e d a => packR false e 42 5 d a.field 0
  | .fcos e d a => packR false e 42 6 d a.field 0
  | .ftanh e d a => packR false e 42 7 d a.field 0
  | .fdivs e d a b => packR false e 43 0 d a.field b.field
  | .hadd2 e d a b => packR false e 44 0 d a.field b.field
  | .hmul2 e d a b => packR false e 44 1 d a.field b.field
  | .hfma2 e d a b => packR false e 44 2 d a.field b.field
  | .hcmp2 e c d a b => packR false e 45 c.code (predField d) a.field b.field
  | .cvti e d a c => packR false e 46 0 d a.field (0#3 ++ c)
  | .cvtf e d a c => packR false e 46 1 d a.field (0#3 ++ c)
  | .cvtdx e d a c => packR false e 46 2 d a.field (0#3 ++ c)
  | .cvtxd e d a c => packR false e 46 3 d a.field (0#3 ++ c)
  | .dxexp e d a => packR false e 47 0 d a.field 0
  | .srnd e d a c => packR false e 48 0 d a.field (0#3 ++ c)
  | .dot4 e o d a b => packR false e 49 o.code d a.field b.field
  | .ldg e z c s d a => packM e 50 z.code c.code s d a.field
  | .stg e z c s d a => packM e 51 z.code c.code s d.field a.field
  | .lds e z c s d a => packM e 52 z.code c.code s d a.field
  | .sts e z c s d a => packM e 53 z.code c.code s d.field a.field
  | .atomgA e z c s d a => packM e 54 z.code c.code s d a.field
  | .atomgB e z c s d a => packM e 55 z.code c.code s d a.field
  | .atomsA e z c s d a => packM e 56 z.code c.code s d a.field
  | .atomsB e z c s d a => packM e 57 z.code c.code s d a.field
  | .pref e z s a => packM e 58 z.code 0 s 0 a.field
  | .fenq e z s d => packM e 59 z.code 0 s d.field 0
  | .fdeq e z s d => packM e 60 z.code 0 s d 0
  | .sadd e d a b => packR true e 0 0 d a.field b.field
  | .ssub e d a b => packR true e 0 1 d a.field b.field
  | .smul e d a b => packR true e 0 2 d a.field b.field
  | .sand e d a b => packR true e 0 3 d a.field b.field
  | .sor e d a b => packR true e 0 4 d a.field b.field
  | .sxor e d a b => packR true e 0 5 d a.field b.field
  | .sshl e d a b => packR true e 0 6 d a.field b.field
  | .sshr e d a b => packR true e 0 7 d a.field b.field
  | .scmp e c d a b => packR true e 1 c.code d a.field b.field
  | .smov e w d a => packR true e 2 (cond w 1 0) d a.field 0
  | .sli e d i => packU e 3 d i
  | .sld e w d a b => packR true e 4 (cond w 1 0) d a.field b.field
  | .sst e w d a b => packR true e 5 (cond w 1 0) d.field a.field b.field
  | .bra e c j => packB e 6 c j
  | .jmp e a => packR true e 7 0 0 a.field 0
  | .jz e c j => packB e 8 c j
  | .jnz e c j => packB e 9 c j
  | .call e j => packB e 10 0 j
  | .ret e a => packR true e 11 0 0 a.field 0
  | .rcv e j => packB e 12 0 j
  | .join e => packR true e 13 0 0 0 0
  | .exit e => packR true e 14 0 0 0 0
  | .bar e b => packX e 15 (b ++ 0#20)
  | .cbar e => packX e 16 0#24
  | .binit e d a b => packR true e 17 0 d.field a.field b.field
  | .barv e d a b => packR true e 18 0 d a.field b.field
  | .bwait e a b => packR true e 19 0 0 a.field b.field
  | .yield e c j => packB e 20 c j
  | .fence e f c => packX e 21 (f.code ++ c.code ++ 0#19)
  | .regreq e n => packX e 22 (n ++ 0#17)
  | .regrel e n => packX e 23 (n ++ 0#17)
  | .setfmt e o a => packR true e 24 o.code 0 a.field 0
  | .sigx e d a => packR true e 25 0 d a.field 0
  | .sigchk e a => packR true e 26 0 0 a.field 0
  | .mfsr e d i => packX e 27 (d ++ i ++ 0#9)
  | .mtsr e a i => packX e 28 (a.field ++ i ++ 0#9)
  | .trap e k => packX e 29 (k ++ 0#8)
  | .rte e => packX e 30 0#24
  | .bkpt e k => packX e 31 (k ++ 0#8)
  | .nop e => packX e 32 0#24
  | .sleep e a => packR true e 33 0 0 a.field 0
  | .launch e a b => packR true e 34 0 0 a.field b.field
  | .send e a b => packR true e 35 0 0 a.field b.field
  | .wait e w d a b => packR true e 36 (cond w 1 0) d.field a.field b.field
  | .salloc e m d a b => packR true e 37 (cond m 1 0) d a.field b.field
  | .sfree e m a => packR true e 38 (cond m 1 0) 0 a.field 0
  | .renew e a b => packR true e 39 0 0 a.field b.field
  | .sstat e d a => packR true e 40 0 d a.field 0
  | .poolcfg e d a b => packR true e 41 0 d a.field b.field
  | .kick e a => packR true e 42 0 0 a.field 0
  | .gang e a => packR true e 43 0 0 a.field 0
  | .tagbind e o d a => packR true e 44 o.code d a.field 0
  | .tagfree e a => packR true e 45 0 0 a.field 0
  | .mma e t a b => packX e 46 (t ++ a ++ b ++ 0#9)
  | .accz e t => packX e 47 (t ++ 0#19)
  | .accrd e t d w => packX e 48 (t ++ d ++ w ++ 0#6)
  | .accwr e t a w => packX e 49 (t ++ a ++ w ++ 0#6)
  | .accst e t q => packX e 50 (t ++ q ++ 0#14)
  | .mstat e t d x => packX e 51 (t ++ d ++ BitVec.ofBool x ++ 0#13)
  | .mfreeze e t => packX e 52 (t ++ 0#19)
  | .mthaw e t => packX e 53 (t ++ 0#19)
  | .tagkill e t => packX e 54 (t ++ 0#19)
  | .fork e c j => packB e 55 c j
  | .choose e => packX e 56 0#24
  | .vabort e => packX e 57 0#24
  | .vstat e d a => packR true e 58 0 d a.field 0
  | .vcommit e => packX e 59 0#24
  | .registerWrite _ _ _ _ => 0
  | .qtailDoorbell _ _ => 0
  | .qheadWrite _ _ => 0
  | .queueEnable _ => 0
  | .queueDisable _ => 0
  | .launchPacket _ => 0
  | .flumePacket _ => 0
  | .waitseqPacket _ => 0
  | .signalPacket _ => 0
  | .wrapPacket _ => 0
  | .nopPacket _ => 0
  | .packetStart _ _ => 0
  | .waitseqMet _ _ => 0
  | .signalStore _ _ => 0
  | .launchComplete _ => 0
  | .placementStep _ _ _ => 0
  | .clonePlacement _ _ _ => 0
  | .blockRestore _ _ _ => 0
  | .starvationIssue _ _ => 0
  | .registerDeadlock _ _ => 0
  | .regreqGrant _ => 0
  | .raftWindowClose _ _ => 0
  | .stageRelease _ _ => 0
  | .stageOverrun _ _ => 0
  | .sliceEnd _ => 0
  | .reclaimGraceExpiry _ => 0
  | .outstandingResultReturn _ _ _ => 0
  | .storeAcknowledge _ _ _ => 0
  | .faultResponse _ _ _ => 0
  | .prgResponse _ _ _ _ => 0
  | .waitWake _ _ => 0
  | .waitTimeout _ _ => 0
  | .sleepExpiry _ _ => 0
  | .fifoResume _ _ => 0
  | .temperatureSample _ _ => 0
  | .segmentExpiry _ => 0
  | .l2LineWriteback _ _ => 0
  | .l2LineDrop _ _ => 0
  | .copyPiecePerformed _ _ _ _ => 0
  | .tileFetchLatch _ _ => 0
  | .waveAdmission _ _ => 0
  | .waveExit _ _ => 0
  | .tagkillDrainComplete _ _ => 0
  | .accumulatorError _ _ _ _ _ => 0
  | .errorDetected _ _ _ _ => 0
  | .registerFileError _ _ => 0
  | .flitRetry _ => 0
  | .linkAccessTimeout _ => 0
  | .remoteAccess _ _ _ _ => 0
  | .echoReexecute _ _ _ => 0
  | .echoEntryTimeout _ => 0
  | .sectorReclaim _ => 0
  | .breakpointMatch _ _ _ => 0
  | .preempt _ _ => 0
  | .kill _ => 0
  | .stop _ _ => 0
  | .resume _ => 0
  | .step _ => 0
  | .debugon _ _ => 0
  | .debugoff _ => 0
  | .commandRingTail _ => 0
  | .ringHeadWrite _ _ _ => 0
  | .bind => 0
  | .retire => 0
  | .inval => 0
  | .migrate => 0
  | .commandCompletion _ => 0
  | .migrateProceed _ => 0
  | .migratePinned _ => 0
  | .atsInvalidation _ _ _ => 0
  | .quarterPartWrite _ _ => 0
  | .quarterLend _ _ => 0
  | .quarterReclaim _ => 0
  | .layoutChangeComplete _ => 0
  | .latchChange _ => 0
  | .rateControlPeriod _ _ => 0
  | .getVersion _ _ _ => 0
  | .getCapabilities _ _ _ => 0
  | .negotiateAlgorithms _ _ _ => 0
  | .getDigests _ _ _ => 0
  | .getCertificate _ _ _ => 0
  | .challenge _ _ _ => 0
  | .getMeasurements _ _ _ => 0
  | .keyExchange _ _ _ => 0
  | .finish _ _ _ => 0
  | .keyProvision _ _ _ _ => 0
  | .keyExport _ _ => 0
  | .keyLoad _ _ _ _ => 0
  | .keyClear _ => 0
  | .handoverExport _ _ _ _ _ => 0
  | .handoverCommit _ _ => 0
  | .handoverImport _ _ _ _ => 0
  | .handoverConfirm _ _ => 0
  | .supervisorImageLoad _ _ _ _ => 0
  | .powerOnReset => 0
  | .bootStageEnd _ => 0
  | .bootStageTimeout => 0
  | .powerRatioUpdate _ => 0
  | .unitLoss _ _ => 0
  | .illegalOp _ => 0
  | .gwctReached _ _ => 0
  | .priEnable _ => 0
  | .unsupportedRequest _ _ _ _ => 0
  | .badCommand => 0
  | .imageLoad _ _ _ _ => 0
  | .imageUnload _ => 0

/-- The literal word a source names. -/
def srcLit : Src → Option Word
  | .reg _ => none
  | .lit w => some w

/-- The literal word of an instruction: that of its first source that names lit (R62). -/
def literalOf : Instr → Option Word
  | .iadd _ _ _ a b => srcLit a <|> srcLit b
  | .isub _ _ _ a b => srcLit a <|> srcLit b
  | .iaddc _ _ _ a b => srcLit a <|> srcLit b
  | .imul _ _ a b => srcLit a <|> srcLit b
  | .imulh _ _ _ a b => srcLit a <|> srcLit b
  | .imad _ _ a b => srcLit a <|> srcLit b
  | .imin _ _ _ a b => srcLit a <|> srcLit b
  | .imax _ _ _ a b => srcLit a <|> srcLit b
  | .iabs _ _ _ a => srcLit a
  | .ineg _ _ _ a => srcLit a
  | .and _ _ a b => srcLit a <|> srcLit b
  | .andn _ _ a b => srcLit a <|> srcLit b
  | .or _ _ a b => srcLit a <|> srcLit b
  | .xor _ _ a b => srcLit a <|> srcLit b
  | .shl _ _ a b => srcLit a <|> srcLit b
  | .shr _ _ a b => srcLit a <|> srcLit b
  | .sar _ _ a b => srcLit a <|> srcLit b
  | .rotl _ _ a b => srcLit a <|> srcLit b
  | .bfx _ _ _ a b => srcLit a <|> srcLit b
  | .bfi _ _ a b => srcLit a <|> srcLit b
  | .popc _ _ a => srcLit a
  | .clz _ _ a => srcLit a
  | .brev _ _ a => srcLit a
  | .prmt _ _ a b => srcLit a <|> srcLit b
  | .lea _ _ _ a b => srcLit a <|> srcLit b
  | .mov _ _ _ a => srcLit a
  | .icmp _ _ _ a b => srcLit a <|> srcLit b
  | .isel _ _ _ a b => srcLit a <|> srcLit b
  | .pmov _ _ _ a => srcLit a
  | .qswp _ _ _ a => srcLit a
  | .qbc _ _ _ a => srcLit a
  | .shfl _ _ _ a b => srcLit a <|> srcLit b
  | .first _ _ a => srcLit a
  | .match _ _ _ a => srcLit a
  | .reda _ _ _ a => srcLit a
  | .redm _ _ _ a => srcLit a
  | .fadd _ _ _ a b => srcLit a <|> srcLit b
  | .fsub _ _ _ a b => srcLit a <|> srcLit b
  | .fmul _ _ _ a b => srcLit a <|> srcLit b
  | .ffma _ _ _ a b => srcLit a <|> srcLit b
  | .fmin _ _ _ a b => srcLit a <|> srcLit b
  | .fmax _ _ _ a b => srcLit a <|> srcLit b
  | .fcmp _ _ _ a b => srcLit a <|> srcLit b
  | .fclass _ _ a => srcLit a
  | .frcp _ _ a => srcLit a
  | .frsq _ _ a => srcLit a
  | .fsqrt _ _ a => srcLit a
  | .fex2 _ _ a => srcLit a
  | .flg2 _ _ a => srcLit a
  | .fsin _ _ a => srcLit a
  | .fcos _ _ a => srcLit a
  | .ftanh _ _ a => srcLit a
  | .fdivs _ _ a b => srcLit a <|> srcLit b
  | .hadd2 _ _ a b => srcLit a <|> srcLit b
  | .hmul2 _ _ a b => srcLit a <|> srcLit b
  | .hfma2 _ _ a b => srcLit a <|> srcLit b
  | .hcmp2 _ _ _ a b => srcLit a <|> srcLit b
  | .cvti _ _ a _ => srcLit a
  | .cvtf _ _ a _ => srcLit a
  | .cvtdx _ _ a _ => srcLit a
  | .cvtxd _ _ a _ => srcLit a
  | .dxexp _ _ a => srcLit a
  | .srnd _ _ a _ => srcLit a
  | .dot4 _ _ _ a b => srcLit a <|> srcLit b
  | .ldg _ _ _ _ _ a => srcLit a
  | .stg _ _ _ _ d a => srcLit d <|> srcLit a
  | .lds _ _ _ _ _ a => srcLit a
  | .sts _ _ _ _ d a => srcLit d <|> srcLit a
  | .atomgA _ _ _ _ _ a => srcLit a
  | .atomgB _ _ _ _ _ a => srcLit a
  | .atomsA _ _ _ _ _ a => srcLit a
  | .atomsB _ _ _ _ _ a => srcLit a
  | .pref _ _ _ a => srcLit a
  | .fenq _ _ _ d => srcLit d
  | .sadd _ _ a b => srcLit a <|> srcLit b
  | .ssub _ _ a b => srcLit a <|> srcLit b
  | .smul _ _ a b => srcLit a <|> srcLit b
  | .sand _ _ a b => srcLit a <|> srcLit b
  | .sor _ _ a b => srcLit a <|> srcLit b
  | .sxor _ _ a b => srcLit a <|> srcLit b
  | .sshl _ _ a b => srcLit a <|> srcLit b
  | .sshr _ _ a b => srcLit a <|> srcLit b
  | .scmp _ _ _ a b => srcLit a <|> srcLit b
  | .smov _ _ _ a => srcLit a
  | .sld _ _ _ a b => srcLit a <|> srcLit b
  | .sst _ _ d a b => srcLit d <|> srcLit a <|> srcLit b
  | .jmp _ a => srcLit a
  | .ret _ a => srcLit a
  | .binit _ d a b => srcLit d <|> srcLit a <|> srcLit b
  | .barv _ _ a b => srcLit a <|> srcLit b
  | .bwait _ a b => srcLit a <|> srcLit b
  | .setfmt _ _ a => srcLit a
  | .sigx _ _ a => srcLit a
  | .sigchk _ a => srcLit a
  | .mtsr _ a _ => srcLit a
  | .sleep _ a => srcLit a
  | .launch _ a b => srcLit a <|> srcLit b
  | .send _ a b => srcLit a <|> srcLit b
  | .wait _ _ d a b => srcLit d <|> srcLit a <|> srcLit b
  | .salloc _ _ _ a b => srcLit a <|> srcLit b
  | .sfree _ _ a => srcLit a
  | .renew _ a b => srcLit a <|> srcLit b
  | .sstat _ _ a => srcLit a
  | .poolcfg _ _ a b => srcLit a <|> srcLit b
  | .kick _ a => srcLit a
  | .gang _ a => srcLit a
  | .tagbind _ _ _ a => srcLit a
  | .tagfree _ a => srcLit a
  | .vstat _ _ a => srcLit a
  | _ => none

/-- Continue with a slot's meaning, or refuse an unassigned slot (R65). -/
def withSlot {α : Type} (o : Option α) (k : α → DecodeResult) : DecodeResult :=
  match o with
  | some a => k a
  | none => .error .illegalOp

/-- Continue with a reserved-checked UX field, or refuse it (R70). -/
def withField {α : Type} (o : Option α) (k : α → DecodeResult) : DecodeResult :=
  match o with
  | some a => k a
  | none => .error (.illegalOperand false)

/-- Refuse a word with a nonzero bit where the encoding has 0 (R54, R66). -/
def ifZero (z : Bool) (sup : Bool) (k : DecodeResult) : DecodeResult :=
  if z then k else .error (.illegalOperand sup)

/-- The special registers that R35 closes to user mode, for which an MFSR or MTSR raises PRIVILEGE first (R36, R64). -/
def supervisorIndex (i : BitVec 8) : Bool :=
  (decide (0x30 ≤ i.toNat) && decide (i.toNat ≤ 0x36)) || (decide (0x40 ≤ i.toNat) && decide (i.toNat ≤ 0x47))

/-- The lane map (R67, R68). -/
def decodeLane (w lit : Word) : DecodeResult :=
  let e := w.getLsbD 30
  let f := bits w 21 3
  let d := bits w 14 7
  let a := bits w 7 7
  let b := bits w 0 7
  let m := bits w 7 7
  let S := fun (r : RegNum) => Src.ofField r lit
  match (bits w 24 6).toNat with
  | 0x01 => withSlot (SatMode.ofCode f) fun m => .ok (.iadd e m d (S a) (S b))
  | 0x02 => withSlot (SatMode.ofCode f) fun m => .ok (.isub e m d (S a) (S b))
  | 0x03 => .ok (.iaddc e f d (S a) (S b))
  | 0x04 => match f.toNat with | 0 => .ok (.imul e d (S a) (S b)) | 1 => .ok (.imulh e false d (S a) (S b)) | 2 => .ok (.imulh e true d (S a) (S b)) | _ => .error .illegalOp
  | 0x05 => match f.toNat with | 0 => .ok (.imad e d (S a) (S b)) | _ => .error .illegalOp
  | 0x06 => match f.toNat with | 0 => .ok (.imin e false d (S a) (S b)) | 1 => .ok (.imin e true d (S a) (S b)) | 2 => .ok (.imax e false d (S a) (S b)) | 3 => .ok (.imax e true d (S a) (S b)) | _ => .error .illegalOp
  | 0x07 => match f.toNat with | 0 => ifZero (b == 0) false (.ok (.iabs e false d (S a))) | 1 => ifZero (b == 0) false (.ok (.iabs e true d (S a))) | _ => .error .illegalOp
  | 0x08 => match f.toNat with | 0 => ifZero (b == 0) false (.ok (.ineg e false d (S a))) | 1 => ifZero (b == 0) false (.ok (.ineg e true d (S a))) | _ => .error .illegalOp
  | 0x09 => match f.toNat with | 0 => .ok (.and e d (S a) (S b)) | 1 => .ok (.andn e d (S a) (S b)) | _ => .error .illegalOp
  | 0x0A => match f.toNat with | 0 => .ok (.or e d (S a) (S b)) | _ => .error .illegalOp
  | 0x0B => match f.toNat with | 0 => .ok (.xor e d (S a) (S b)) | _ => .error .illegalOp
  | 0x0C => match f.toNat with | 0 => .ok (.shl e d (S a) (S b)) | 1 => .ok (.shr e d (S a) (S b)) | _ => .error .illegalOp
  | 0x0D => match f.toNat with | 0 => .ok (.sar e d (S a) (S b)) | _ => .error .illegalOp
  | 0x0E => match f.toNat with | 0 => .ok (.rotl e d (S a) (S b)) | _ => .error .illegalOp
  | 0x0F => match f.toNat with | 0 => .ok (.bfx e false d (S a) (S b)) | 1 => .ok (.bfx e true d (S a) (S b)) | 2 => .ok (.bfi e d (S a) (S b)) | _ => .error .illegalOp
  | 0x10 => match f.toNat with | 0 => ifZero (b == 0) false (.ok (.popc e d (S a))) | _ => .error .illegalOp
  | 0x11 => match f.toNat with | 0 => ifZero (b == 0) false (.ok (.clz e d (S a))) | _ => .error .illegalOp
  | 0x12 => match f.toNat with | 0 => ifZero (b == 0) false (.ok (.brev e d (S a))) | _ => .error .illegalOp
  | 0x13 => match f.toNat with | 0 => .ok (.prmt e d (S a) (S b)) | _ => .error .illegalOp
  | 0x14 => .ok (.lea e f d (S a) (S b))
  | 0x15 => match f.toNat with | 0 => ifZero (b == 0) false (.ok (.mov e false d (S a))) | 1 => ifZero (b == 0) false (.ok (.mov e true d (S a))) | _ => .error .illegalOp
  | 0x16 => .ok (.movi e (bits w 17 7) (bits w 0 17))
  | 0x17 => withSlot (CmpOp.ofCode f) fun c => ifZero (bits w 17 4 == 0) false (.ok (.icmp e c (bits w 14 3) (S a) (S b)))
  | 0x18 => .ok (.isel e f d (S a) (S b))
  | 0x19 => withSlot (PsetOp.ofCode f) fun o => ifZero (bits w 17 4 == 0 && bits w 10 4 == 0 && bits w 3 4 == 0) false (.ok (.pset e o (bits w 14 3) (bits w 7 3) (bits w 0 3)))
  | 0x1A => withSlot (PmovOp.ofCode f) fun o => ifZero (b == 0) false (.ok (.pmov e o d (S a)))
  | 0x1B => match f.toNat with | 0 => ifZero (b == 0) false (.ok (.qswp e .h d (S a))) | 1 => ifZero (b == 0) false (.ok (.qswp e .v d (S a))) | 2 => ifZero (b == 0) false (.ok (.qswp e .d d (S a))) | 4 => ifZero (b == 0) false (.ok (.qbc e (bits w 21 2) d (S a))) | 5 => ifZero (b == 0) false (.ok (.qbc e (bits w 21 2) d (S a))) | 6 => ifZero (b == 0) false (.ok (.qbc e (bits w 21 2) d (S a))) | 7 => ifZero (b == 0) false (.ok (.qbc e (bits w 21 2) d (S a))) | _ => .error .illegalOp
  | 0x1C => withSlot (ShflOp.ofCode f) fun o => .ok (.shfl e o d (S a) (S b))
  | 0x1D => withSlot (VoteOp.ofCode f) fun o => ifZero (bits w 10 4 == 0 && b == 0) false (.ok (.vote e o d (bits w 7 3)))
  | 0x1E => match f.toNat with | 0 => ifZero (b == 0) false (.ok (.first e d (S a))) | _ => .error .illegalOp
  | 0x1F => withSlot (MatchOp.ofCode f) fun o => ifZero (b == 0) false (.ok (.match e o d (S a)))
  | 0x20 => match f.toNat with | 0 => ifZero (b == 0) false (.ok (.reda e false d (S a))) | 1 => ifZero (b == 0) false (.ok (.reda e true d (S a))) | _ => .error .illegalOp
  | 0x21 => withSlot (RedmOp.ofCode f) fun o => ifZero (b == 0) false (.ok (.redm e o d (S a)))
  | 0x22 => withSlot (FRnd.ofCode f) fun r => .ok (.fadd e r d (S a) (S b))
  | 0x23 => withSlot (FRnd.ofCode f) fun r => .ok (.fsub e r d (S a) (S b))
  | 0x24 => withSlot (FRnd.ofCode f) fun r => .ok (.fmul e r d (S a) (S b))
  | 0x25 => withSlot (FRnd.ofCode f) fun r => .ok (.ffma e r d (S a) (S b))
  | 0x26 => match f.toNat with | 0 => .ok (.fmin e false d (S a) (S b)) | 1 => .ok (.fmin e true d (S a) (S b)) | _ => .error .illegalOp
  | 0x27 => match f.toNat with | 0 => .ok (.fmax e false d (S a) (S b)) | 1 => .ok (.fmax e true d (S a) (S b)) | _ => .error .illegalOp
  | 0x28 => withSlot (FCmpOp.ofCode f) fun c => ifZero (bits w 17 4 == 0) false (.ok (.fcmp e c (bits w 14 3) (S a) (S b)))
  | 0x29 => match f.toNat with | 0 => ifZero (b == 0) false (.ok (.fclass e d (S a))) | _ => .error .illegalOp
  | 0x2A => match f.toNat with | 0 => ifZero (b == 0) false (.ok (.frcp e d (S a))) | 1 => ifZero (b == 0) false (.ok (.frsq e d (S a))) | 2 => ifZero (b == 0) false (.ok (.fsqrt e d (S a))) | 3 => ifZero (b == 0) false (.ok (.fex2 e d (S a))) | 4 => ifZero (b == 0) false (.ok (.flg2 e d (S a))) | 5 => ifZero (b == 0) false (.ok (.fsin e d (S a))) | 6 => ifZero (b == 0) false (.ok (.fcos e d (S a))) | 7 => ifZero (b == 0) false (.ok (.ftanh e d (S a))) | _ => .error .illegalOp
  | 0x2B => match f.toNat with | 0 => .ok (.fdivs e d (S a) (S b)) | _ => .error .illegalOp
  | 0x2C => match f.toNat with | 0 => .ok (.hadd2 e d (S a) (S b)) | 1 => .ok (.hmul2 e d (S a) (S b)) | 2 => .ok (.hfma2 e d (S a) (S b)) | _ => .error .illegalOp
  | 0x2D => withSlot (FCmpOp.ofCode f) fun c => ifZero (bits w 17 4 == 0) false (.ok (.hcmp2 e c (bits w 14 3) (S a) (S b)))
  | 0x2E => match f.toNat with | 0 => ifZero (bits w 4 3 == 0) false (.ok (.cvti e d (S a) (bits w 0 4))) | 1 => ifZero (bits w 4 3 == 0) false (.ok (.cvtf e d (S a) (bits w 0 4))) | 2 => ifZero (bits w 4 3 == 0) false (.ok (.cvtdx e d (S a) (bits w 0 4))) | 3 => ifZero (bits w 4 3 == 0) false (.ok (.cvtxd e d (S a) (bits w 0 4))) | _ => .error .illegalOp
  | 0x2F => match f.toNat with | 0 => ifZero (b == 0) false (.ok (.dxexp e d (S a))) | _ => .error .illegalOp
  | 0x30 => match f.toNat with | 0 => ifZero (bits w 4 3 == 0) false (.ok (.srnd e d (S a) (bits w 0 4))) | _ => .error .illegalOp
  | 0x31 => withSlot (Dot4Op.ofCode f) fun o => .ok (.dot4 e o d (S a) (S b))
  | 0x32 => withSlot (LoadSize.ofCode f) fun z => withSlot (Scope.ofCode (bits w 19 2)) fun c => .ok (.ldg e z c (bits w 14 5) m (S b))
  | 0x33 => withSlot (StoreSize.ofCode f) fun z => withSlot (Scope.ofCode (bits w 19 2)) fun c => .ok (.stg e z c (bits w 14 5) (S m) (S b))
  | 0x34 => withSlot (LoadSize.ofCode f) fun z => withSlot (Scope.ofCode (bits w 19 2)) fun c => .ok (.lds e z c (bits w 14 5) m (S b))
  | 0x35 => withSlot (StoreSize.ofCode f) fun z => withSlot (Scope.ofCode (bits w 19 2)) fun c => .ok (.sts e z c (bits w 14 5) (S m) (S b))
  | 0x36 => withSlot (AtomA.ofCode f) fun z => withSlot (Scope.ofCode (bits w 19 2)) fun c => .ok (.atomgA e z c (bits w 14 5) m (S b))
  | 0x37 => withSlot (AtomB.ofCode f) fun z => withSlot (Scope.ofCode (bits w 19 2)) fun c => .ok (.atomgB e z c (bits w 14 5) m (S b))
  | 0x38 => withSlot (AtomA.ofCode f) fun z => withSlot (Scope.ofCode (bits w 19 2)) fun c => .ok (.atomsA e z c (bits w 14 5) m (S b))
  | 0x39 => withSlot (AtomB.ofCode f) fun z => withSlot (Scope.ofCode (bits w 19 2)) fun c => .ok (.atomsB e z c (bits w 14 5) m (S b))
  | 0x3A => withSlot (PrefLevel.ofCode f) fun z => ifZero (bits w 19 2 == 0 && m == 0) false (.ok (.pref e z (bits w 14 5) (S b)))
  | 0x3B => withSlot (FifoSize.ofCode f) fun z => ifZero (bits w 19 2 == 0 && b == 0) false (.ok (.fenq e z (bits w 14 5) (S m)))
  | 0x3C => withSlot (FifoSize.ofCode f) fun z => ifZero (bits w 19 2 == 0 && b == 0) false (.ok (.fdeq e z (bits w 14 5) m))
  | _ => .error .illegalOp

/-- The uniform map (R69, R70). -/
def decodeUniform (w lit : Word) : DecodeResult :=
  let e := w.getLsbD 30
  let f := bits w 21 3
  let d := bits w 14 7
  let a := bits w 7 7
  let b := bits w 0 7
  let S := fun (r : RegNum) => Src.ofField r lit
  match (bits w 24 6).toNat with
  | 0x00 => match f.toNat with | 0 => .ok (.sadd e d (S a) (S b)) | 1 => .ok (.ssub e d (S a) (S b)) | 2 => .ok (.smul e d (S a) (S b)) | 3 => .ok (.sand e d (S a) (S b)) | 4 => .ok (.sor e d (S a) (S b)) | 5 => .ok (.sxor e d (S a) (S b)) | 6 => .ok (.sshl e d (S a) (S b)) | 7 => .ok (.sshr e d (S a) (S b)) | _ => .error .illegalOp
  | 0x01 => withSlot (CmpOp.ofCode f) fun c => .ok (.scmp e c d (S a) (S b))
  | 0x02 => match f.toNat with | 0 => ifZero (b == 0) false (.ok (.smov e false d (S a))) | 1 => ifZero (b == 0) false (.ok (.smov e true d (S a))) | _ => .error .illegalOp
  | 0x03 => .ok (.sli e (bits w 19 5) (bits w 0 19))
  | 0x04 => match f.toNat with | 0 => .ok (.sld e false d (S a) (S b)) | 1 => .ok (.sld e true d (S a) (S b)) | _ => .error .illegalOp
  | 0x05 => match f.toNat with | 0 => .ok (.sst e false (S d) (S a) (S b)) | 1 => .ok (.sst e true (S d) (S a) (S b)) | _ => .error .illegalOp
  | 0x06 => .ok (.bra e f (bits w 0 21))
  | 0x07 => match f.toNat with | 0 => ifZero (d == 0 && b == 0) false (.ok (.jmp e (S a))) | _ => .error .illegalOp
  | 0x08 => .ok (.jz e f (bits w 0 21))
  | 0x09 => .ok (.jnz e f (bits w 0 21))
  | 0x0A => ifZero (f == 0) false (.ok (.call e (bits w 0 21)))
  | 0x0B => match f.toNat with | 0 => ifZero (d == 0 && b == 0) false (.ok (.ret e (S a))) | _ => .error .illegalOp
  | 0x0C => ifZero (f == 0) false (.ok (.rcv e (bits w 0 21)))
  | 0x0D => match f.toNat with | 0 => ifZero (d == 0 && a == 0 && b == 0) false (.ok (.join e)) | _ => .error .illegalOp
  | 0x0E => match f.toNat with | 0 => ifZero (d == 0 && a == 0 && b == 0) false (.ok (.exit e)) | _ => .error .illegalOp
  | 0x0F => ifZero (bits w 0 20 == 0) false (.ok (.bar e (bits w 20 4)))
  | 0x10 => ifZero (bits w 0 24 == 0) false (.ok (.cbar e))
  | 0x11 => match f.toNat with | 0 => .ok (.binit e (S d) (S a) (S b)) | _ => .error .illegalOp
  | 0x12 => match f.toNat with | 0 => .ok (.barv e d (S a) (S b)) | _ => .error .illegalOp
  | 0x13 => match f.toNat with | 0 => ifZero (d == 0) false (.ok (.bwait e (S a) (S b))) | _ => .error .illegalOp
  | 0x14 => .ok (.yield e f (bits w 0 21))
  | 0x15 => ifZero (bits w 0 19 == 0) false (withField (FenceForm.ofCode f) fun f => withField (Scope.ofCode (bits w 19 2)) fun c => .ok (.fence e f c))
  | 0x16 => ifZero (bits w 0 17 == 0) false (.ok (.regreq e (bits w 17 7)))
  | 0x17 => ifZero (bits w 0 17 == 0) false (.ok (.regrel e (bits w 17 7)))
  | 0x18 => withSlot (FmtField.ofCode f) fun o => ifZero (d == 0 && b == 0) false (.ok (.setfmt e o (S a)))
  | 0x19 => match f.toNat with | 0 => ifZero (b == 0) false (.ok (.sigx e d (S a))) | _ => .error .illegalOp
  | 0x1A => match f.toNat with | 0 => ifZero (d == 0 && b == 0) false (.ok (.sigchk e (S a))) | _ => .error .illegalOp
  | 0x1B => ifZero (bits w 0 9 == 0) (supervisorIndex (bits w 9 8)) (.ok (.mfsr e (bits w 17 7) (bits w 9 8)))
  | 0x1C => ifZero (bits w 0 9 == 0) (supervisorIndex (bits w 9 8)) (.ok (.mtsr e (S (bits w 17 7)) (bits w 9 8)))
  | 0x1D => ifZero (bits w 0 8 == 0) false (.ok (.trap e (bits w 8 16)))
  | 0x1E => ifZero (bits w 0 24 == 0) true (.ok (.rte e))
  | 0x1F => ifZero (bits w 0 8 == 0) false (.ok (.bkpt e (bits w 8 16)))
  | 0x20 => ifZero (bits w 0 24 == 0) false (.ok (.nop e))
  | 0x21 => match f.toNat with | 0 => ifZero (d == 0 && b == 0) false (.ok (.sleep e (S a))) | _ => .error .illegalOp
  | 0x22 => match f.toNat with | 0 => ifZero (d == 0) false (.ok (.launch e (S a) (S b))) | _ => .error .illegalOp
  | 0x23 => match f.toNat with | 0 => ifZero (d == 0) false (.ok (.send e (S a) (S b))) | _ => .error .illegalOp
  | 0x24 => match f.toNat with | 0 => .ok (.wait e false (S d) (S a) (S b)) | 1 => .ok (.wait e true (S d) (S a) (S b)) | _ => .error .illegalOp
  | 0x25 => match f.toNat with | 0 => .ok (.salloc e false d (S a) (S b)) | 1 => .ok (.salloc e true d (S a) (S b)) | _ => .error .illegalOp
  | 0x26 => match f.toNat with | 0 => ifZero (d == 0 && b == 0) false (.ok (.sfree e false (S a))) | 1 => ifZero (d == 0 && b == 0) false (.ok (.sfree e true (S a))) | _ => .error .illegalOp
  | 0x27 => match f.toNat with | 0 => ifZero (d == 0) false (.ok (.renew e (S a) (S b))) | _ => .error .illegalOp
  | 0x28 => match f.toNat with | 0 => ifZero (b == 0) false (.ok (.sstat e d (S a))) | _ => .error .illegalOp
  | 0x29 => match f.toNat with | 0 => .ok (.poolcfg e d (S a) (S b)) | _ => .error .illegalOp
  | 0x2A => match f.toNat with | 0 => ifZero (d == 0 && b == 0) false (.ok (.kick e (S a))) | _ => .error .illegalOp
  | 0x2B => match f.toNat with | 0 => ifZero (d == 0 && b == 0) false (.ok (.gang e (S a))) | _ => .error .illegalOp
  | 0x2C => withSlot (Fusion.ofCode f) fun o => ifZero (b == 0) false (.ok (.tagbind e o d (S a)))
  | 0x2D => match f.toNat with | 0 => ifZero (d == 0 && b == 0) false (.ok (.tagfree e (S a))) | _ => .error .illegalOp
  | 0x2E => ifZero (bits w 0 9 == 0) false (.ok (.mma e (bits w 19 5) (bits w 14 5) (bits w 9 5)))
  | 0x2F => ifZero (bits w 0 19 == 0) false (.ok (.accz e (bits w 19 5)))
  | 0x30 => ifZero (bits w 0 6 == 0) false (.ok (.accrd e (bits w 19 5) (bits w 12 7) (bits w 6 6)))
  | 0x31 => ifZero (bits w 0 6 == 0) false (.ok (.accwr e (bits w 19 5) (bits w 12 7) (bits w 6 6)))
  | 0x32 => ifZero (bits w 0 14 == 0) false (.ok (.accst e (bits w 19 5) (bits w 14 5)))
  | 0x33 => ifZero (bits w 0 13 == 0) false (.ok (.mstat e (bits w 19 5) (bits w 14 5) (w.getLsbD 13)))
  | 0x34 => ifZero (bits w 0 19 == 0) false (.ok (.mfreeze e (bits w 19 5)))
  | 0x35 => ifZero (bits w 0 19 == 0) false (.ok (.mthaw e (bits w 19 5)))
  | 0x36 => ifZero (bits w 0 19 == 0) true (.ok (.tagkill e (bits w 19 5)))
  | 0x37 => .ok (.fork e f (bits w 0 21))
  | 0x38 => ifZero (bits w 0 24 == 0) false (.ok (.choose e))
  | 0x39 => ifZero (bits w 0 24 == 0) false (.ok (.vabort e))
  | 0x3A => match f.toNat with | 0 => ifZero (b == 0) false (.ok (.vstat e d (S a))) | _ => .error .illegalOp
  | 0x3B => ifZero (bits w 0 24 == 0) false (.ok (.vcommit e))
  | _ => .error .illegalOp

/-- The instruction of a word, `lit` being the word that follows it (R64 to R70). -/
def decodeWord (w lit : Word) : DecodeResult :=
  if w.getLsbD 31 then decodeUniform w lit else decodeLane w lit

/-- Whether the word is followed by its literal word: some source field names lit (R62). -/
def wordHasLiteral (w : Word) : Bool :=
  match decodeWord w 0 with
  | .ok i => (literalOf i).isSome
  | .error _ => false

/-- Four bytes, the first the least significant (R11). -/
def wordOfBytes (b0 b1 b2 b3 : Byte) : Word := b3 ++ b2 ++ b1 ++ b0

/-- The four bytes of a word, the least significant first (R11). -/
def bytesOfWord (w : Word) : List Byte :=
  [w.extractLsb' 0 8, w.extractLsb' 8 8, w.extractLsb' 16 8, w.extractLsb' 24 8]

/-- Decode the instruction at the head of a list of bytes, and give the bytes that follow it. -/
def decode : List Byte → Except DecodeError (Instr × List Byte)
  | b0 :: b1 :: b2 :: b3 :: rest =>
    let w := wordOfBytes b0 b1 b2 b3
    if wordHasLiteral w then
      match rest with
      | l0 :: l1 :: l2 :: l3 :: rest' =>
        (decodeWord w (wordOfBytes l0 l1 l2 l3)).map (fun i => (i, rest'))
      | _ => .error .truncated
    else
      (decodeWord w 0).map (fun i => (i, rest))
  | _ => .error .truncated

/-- The words of a well-formed word instruction: its first word, then its literal word if it has one. -/
def encode (i : Instr) : List Word :=
  encodeWord i :: (literalOf i).toList

/-- The bytes of an instruction in memory (R11). -/
def encodeBytes (i : Instr) : List Byte := (encode i).flatMap bytesOfWord

/-- The instruction read from a word numbered as the opcode table numbers it; its literal word, if it has one, is the
word's upper half, 0 when the table gives the row 32 bits. -/
def decodeTableWord (nbits w : Nat) : Option Instr :=
  let v := w % 2 ^ nbits
  match decode (bytesOfWord (BitVec.ofNat 32 v) ++ bytesOfWord (BitVec.ofNat 32 (v / 2 ^ 32))) with
  | .ok (i, _) => some i
  | .error _ => none

end Sys2Proof
end

