-- ==== Sys2Proof/Machine/Num.lean ====
section
/-! DEFINITION. The number formats, rounding, saturation, srhash and exception flags of 05_number_formats.md, in exact
arithmetic: a value is a dyadic number with a sticky mark, and is narrowed once at the end. -/

namespace Sys2Proof.Machine

/-- The exception flags in the bit order of R38: IX, UF, OF, DZ, IV. -/
abbrev Flags := BitVec 5

def fIX : Flags := 1
def fUF : Flags := 2
def fOF : Flags := 4
def fDZ : Flags := 8
def fIV : Flags := 16

/-- An exact value: a NaN (which raises IV where `iv`), an infinity, or (-1)^neg * n * 2^e, where `sticky` says that the
magnitude lies strictly between n and n + 1 units. -/
inductive Ext where
  | nan (iv : Bool)
  | inf (neg : Bool)
  | fin (neg : Bool) (n : Nat) (e : Int) (sticky : Bool)
deriving DecidableEq, Repr

/-- A scalar floating-point format (R102, R103): field widths, bias, and whether it has infinities. -/
structure FloatFmt where
  ebits : Nat
  mbits : Nat
  bias : Nat
  hasInf : Bool
deriving DecidableEq, Repr

/-- The float formats by code (R101, R102). -/
def fltFmt (code : Nat) : FloatFmt :=
  match code with
  | 0 => ⟨8, 23, 127, true⟩
  | 1 => ⟨8, 7, 127, true⟩
  | 2 => ⟨5, 10, 15, true⟩
  | 3 => ⟨4, 3, 7, false⟩
  | _ => ⟨5, 2, 15, true⟩

def FloatFmt.emin (f : FloatFmt) : Int := 1 - (f.bias : Int)

/-- Bits of an element of a scalar format. -/
def FloatFmt.width (f : FloatFmt) : Nat := 1 + f.ebits + f.mbits

/-- The bit pattern of +infinity. -/
def FloatFmt.infBits (f : FloatFmt) : Nat := (2 ^ f.ebits - 1) * 2 ^ f.mbits

/-- The canonical NaN (R103). -/
def FloatFmt.nanBits (f : FloatFmt) : Nat :=
  if f.hasInf then f.infBits + 2 ^ (f.mbits - 1) else 2 ^ (f.ebits + f.mbits) - 1

/-- The bit pattern of the largest finite value (R102). -/
def FloatFmt.maxBits (f : FloatFmt) : Nat := if f.hasInf then f.infBits - 1 else 2 ^ (f.ebits + f.mbits) - 2

/-- The value of a bit pattern (R102, R103). -/
def decodeFloat (f : FloatFmt) (w : Nat) : Ext :=
  let neg := (w / 2 ^ (f.ebits + f.mbits)) % 2 == 1
  let ex := (w / 2 ^ f.mbits) % 2 ^ f.ebits
  let fr := w % 2 ^ f.mbits
  if f.hasInf && ex == 2 ^ f.ebits - 1 then
    if fr == 0 then .inf neg else .nan (decide (fr < 2 ^ (f.mbits - 1)))
  else if !f.hasInf && w % 2 ^ (f.ebits + f.mbits) == 2 ^ (f.ebits + f.mbits) - 1 then .nan false
  else if ex == 0 then .fin neg fr (f.emin - f.mbits) false
  else .fin neg (2 ^ f.mbits + fr) ((ex : Int) - f.bias - f.mbits) false

/-- A value given by an integer. -/
def Ext.ofInt (i : Int) : Ext := .fin (decide (i < 0)) i.natAbs 0 false

def Ext.isNan : Ext → Bool
  | .nan _ => true
  | _ => false

def Ext.negate : Ext → Ext
  | .nan b => .nan b
  | .inf b => .inf (!b)
  | .fin b n e s => .fin (!b) n e s

/-! ## Rounding (R110 to R114) -/

/-- The rounding modes (R110). -/
inductive RMode where
  | rne | rz | rdn | rup | sr
deriving DecidableEq, Repr

/-- FMT.RM (R37); reserved codes are refused where FMT is written. -/
def RMode.ofRm (n : Nat) : RMode :=
  match n with
  | 0 => .rne
  | 1 => .rz
  | 2 => .rdn
  | 3 => .rup
  | _ => .sr

/-- `t = n * 2^e` in units of 2^u: whole part, remainder, and the width of the remainder. -/
def splitAt (n : Nat) (e u : Int) : Nat × Nat × Nat :=
  if u ≤ e then (n * 2 ^ (e - u).toNat, 0, 0)
  else
    let k := (u - e).toNat
    (n / 2 ^ k, n % 2 ^ k, k)

/-- The first 16 discarded bits of a rounding, left-aligned (R111). -/
def discarded (r : Nat × Nat × Nat) : Nat := r.2.1 * 65536 / 2 ^ r.2.2

/-- Whether the magnitude rounds up. `h` is the srhash value of the position. -/
def roundsUp (rm : RMode) (neg sticky : Bool) (h : Nat) (r : Nat × Nat × Nat) : Bool :=
  let inexact := r.2.1 != 0 || sticky
  match rm with
  | .rne =>
    if 2 * r.2.1 > 2 ^ r.2.2 then r.2.2 != 0
    else if 2 * r.2.1 == 2 ^ r.2.2 && r.2.2 != 0 then sticky || r.1 % 2 == 1
    else false
  | .rz => false
  | .rdn => inexact && neg
  | .rup => inexact && !neg
  | .sr => decide (h < discarded r)

/-- floor(log2 n) for n > 0. -/
def ilog (n : Nat) : Int := (Nat.log2 n : Int)

/-- The exponent of the ulp of a value in a float format (R111). -/
def ulpExp (f : FloatFmt) (n : Nat) (e : Int) : Int := max (e + ilog n) f.emin - f.mbits

/-- The bit pattern of `q * 2^u` for a rounded significand (without its sign). -/
def encodeMag (f : FloatFmt) (q : Nat) (u : Int) : Nat :=
  if q < 2 ^ f.mbits then q
  else if q == 2 ^ (f.mbits + 1) then (u + f.mbits + 1 + f.bias).toNat * 2 ^ f.mbits
  else (u + f.mbits + f.bias).toNat * 2 ^ f.mbits + (q - 2 ^ f.mbits)

def signBits (f : FloatFmt) (neg : Bool) : Nat := if neg then 2 ^ (f.ebits + f.mbits) else 0

/-- "Toward zero" of R114. -/
def towardZero (rm : RMode) (neg : Bool) : Bool :=
  match rm with
  | .rz => true
  | .rdn => !neg
  | .rup => neg
  | _ => false

/-- The overflow table of R114 for float destinations. -/
def overflowFloat (f : FloatFmt) (rm : RMode) (sat neg : Bool) : Nat × Flags :=
  if sat || towardZero rm neg then (signBits f neg + f.maxBits, fOF ||| fIX)
  else if f.hasInf then (signBits f neg + f.infBits, fOF ||| fIX)
  else (f.nanBits, fOF ||| fIX)

/-- `q * 2^u` exceeds the largest finite value. -/
def exceeds (f : FloatFmt) (q : Nat) (u : Int) : Bool :=
  if q = 0 then false else
  let r := encodeMag f q u
  decide (f.maxBits < r) || decide (((2 : Int) ^ f.ebits : Int) ≤ u + f.mbits + f.bias)

/-- The 16-bit field d of a value rounded to a float format (R111); 0 for an exact result. -/
def dField (f : FloatFmt) (v : Ext) : Nat :=
  match v with
  | .fin _ n e _ => if n = 0 then 0 else discarded (splitAt n e (ulpExp f n e))
  | _ => 0

/-- round() of R111 to a float format: the bit pattern and the flags. -/
def roundFloat (f : FloatFmt) (rm : RMode) (sat : Bool) (h : Nat) (v : Ext) : Nat × Flags :=
  match v with
  | .nan iv => (f.nanBits, if iv then fIV else 0)
  | .inf neg =>
    if f.hasInf && !sat then (signBits f neg + f.infBits, 0) else overflowFloat f rm sat neg
  | .fin neg n e sticky =>
    if n = 0 then (signBits f neg, 0)
    else
      let u := ulpExp f n e
      let r := splitAt n e u
      let q := r.1 + (roundsUp rm neg sticky h r).toNat
      let inexact := r.2.1 != 0 || sticky
      if exceeds f q u then overflowFloat f rm sat neg
      else
        -- tiny after rounding with unbounded exponent range (R116)
        let u' := e + ilog n - f.mbits
        let r' := splitAt n e u'
        let q' := r'.1 + (roundsUp rm neg sticky h r').toNat
        let tiny := decide (u' + ilog q' < f.emin)
        (signBits f neg + encodeMag f q u, (if inexact then fIX else 0) ||| (if tiny && inexact then fUF else 0))

/-- sat() to an integer range, with the flags of R106. -/
def roundInt (lo hi : Int) (rm : RMode) (h : Nat) (v : Ext) : Int × Flags :=
  match v with
  | .nan _ => (0, fIV)
  | .inf neg => (if neg then lo else hi, fIV)
  | .fin neg n e sticky =>
    let r := splitAt n e 0
    let q : Int := (r.1 + (roundsUp rm neg sticky h r).toNat : Nat)
    let i := if neg then -q else q
    if i < lo then (lo, fIV) else if hi < i then (hi, fIV)
    else (i, if r.2.1 != 0 || sticky then fIX else 0)

/-- The field d of a value rounded to an integer. -/
def dFieldInt (v : Ext) : Nat :=
  match v with
  | .fin _ n e _ => discarded (splitAt n e 0)
  | _ => 0

/-- srhash() of R113, on the fields d of the two neighbours. -/
def srhash (a b i : Nat) : Nat :=
  let x0 : BitVec 16 :=
    BitVec.ofNat 16 a ^^^ (BitVec.ofNat 16 b).rotateLeft 5 ^^^ BitVec.ofNat 16 (i * 0x9E37)
  let x1 := x0 ^^^ (x0 >>> 7)
  let x2 := x1 * 0xA3B1
  (x2 ^^^ (x2 >>> 9)).toNat

/-- The srhash value of position `i` of a row of 32 fields d. -/
def rowHash (d : Nat → Nat) (i : Nat) : Nat := srhash (d ((i + 31) % 32)) (d ((i + 1) % 32)) i

/-! ## Exact arithmetic (R104, R152) -/

/-- Exact product: 0 times infinity is a NaN that raises IV. -/
def mulExt (x y : Ext) : Ext :=
  match x, y with
  | .nan a, .nan b => .nan (a || b)
  | .nan a, _ => .nan a
  | _, .nan b => .nan b
  | .inf a, .inf b => .inf (a != b)
  | .inf a, .fin b n _ _ => if n = 0 then .nan true else .inf (a != b)
  | .fin a n _ _, .inf b => if n = 0 then .nan true else .inf (a != b)
  | .fin a n e _, .fin b m k _ => .fin (a != b) (n * m) (e + k) false

/-- The least exponent of the finite terms. -/
def minExp : List Ext → Option Int
  | [] => none
  | .fin _ _ e _ :: r => match minExp r with | some m => some (min e m) | none => some e
  | _ :: r => minExp r

/-- The terms as an integer at exponent `m`. -/
def totalAt (m : Int) : List Ext → Int
  | [] => 0
  | .fin neg n e _ :: r =>
    let t : Int := ((n * 2 ^ (e - m).toNat : Nat) : Int)
    (if neg then -t else t) + totalAt m r
  | _ :: r => totalAt m r

/-- All terms are zeros of one sign. -/
def zerosOfSign (neg : Bool) (l : List Ext) : Bool :=
  l.all (fun t => match t with | .fin b n _ s => n == 0 && !s && b == neg | _ => false)

/-- The exact sum of terms. Its zero has the sign of R152: that of the terms where all are zeros of one sign, else + except
under RDN. -/
def sumExt (rm : RMode) (l : List Ext) : Ext :=
  if l.any Ext.isNan then .nan (l.any (fun t => t == .nan true) || (l.contains (.inf true) && l.contains (.inf false)))
  else if l.contains (.inf true) && l.contains (.inf false) then .nan true
  else if l.contains (.inf true) then .inf true
  else if l.contains (.inf false) then .inf false
  else
    match minExp l with
    | none => .fin false 0 0 false
    | some m =>
      let t := totalAt m l
      if t = 0 then
        if zerosOfSign true l then .fin true 0 0 false
        else if zerosOfSign false l then .fin false 0 0 false
        else .fin (rm == .rdn) 0 0 false
      else .fin (decide (t < 0)) t.natAbs m false

/-- A value of FP32. -/
def fp32 (w : Word) : Ext := decodeFloat (fltFmt 0) w.toNat

/-- Round to FP32 with the SAT = 0 column (R114). -/
def toFp32 (rm : RMode) (h : Nat) (v : Ext) : Word × Flags :=
  let r := roundFloat (fltFmt 0) rm false h v
  (BitVec.ofNat 32 r.1, r.2)

/-- FP32 addition by RNE, as REDA.f, ATOM.fadd and the matrix engine use it. -/
def addRne (x y : Word) : Word × Flags := toFp32 .rne 0 (sumExt .rne [fp32 x, fp32 y])

/-- Order of two finite or infinite values, -0 below +0: is x below y? -/
def ltExt (x y : Ext) : Bool :=
  let key (v : Ext) (m : Int) : Int :=
    match v with
    | .fin neg n e _ => let t : Int := ((n * 2 ^ (e - m).toNat : Nat) : Int); if neg then -t else t
    | _ => 0
  match x, y with
  | .nan _, _ => false
  | _, .nan _ => false
  | .inf a, .inf b => a && !b
  | .inf a, _ => a
  | _, .inf b => !b
  | .fin a n e _, .fin b k g _ =>
    let m := min e g
    let kx := key (.fin a n e false) m
    let ky := key (.fin b k g false) m
    decide (kx < ky) || (kx == ky && a && !b)

/-- Numeric equality, with -0 = +0. -/
def eqExt (x y : Ext) : Bool :=
  match x, y with
  | .nan _, _ => false
  | _, .nan _ => false
  | .fin _ 0 _ _, .fin _ 0 _ _ => true
  | _, _ => !ltExt x y && !ltExt y x

/-- A quotient of finite nonzero values, to 64 bits and a sticky mark. -/
def divExt (a : Bool) (n : Nat) (e : Int) (b : Bool) (m : Nat) (k : Int) : Ext :=
  let sh := 64 + Nat.log2 m
  .fin (a != b) (n * 2 ^ sh / m) (e - k - sh) (n * 2 ^ sh % m != 0)

/-- Integer square root, bit by bit from bit `b`. -/
def isqrtFrom (n : Nat) : Nat → Nat → Nat
  | 0, r => if (r + 1) * (r + 1) ≤ n then r + 1 else r
  | b + 1, r =>
    let r' := r + 2 ^ (b + 1)
    isqrtFrom n b (if r' * r' ≤ n then r' else r)

def isqrt (n : Nat) : Nat := isqrtFrom n (Nat.log2 n / 2 + 1) 0

/-- Square root of a positive value, to more than 40 bits and a sticky mark. -/
def sqrtExt (n : Nat) (e : Int) : Ext :=
  let odd := e % 2 != 0
  let n1 := if odd then 2 * n else n
  let e1 := if odd then e - 1 else e
  let m := n1 * 2 ^ 128
  let r := isqrt m
  .fin false r ((e1 - 128) / 2) (r * r != m)

end Sys2Proof.Machine
end

