-- ==== Sys2Proof/Machine/Crypto.lean ====
section
/-! DEFINITION. Bytes and values, and the algorithms that the manual names by their standards (24_trust.md R398, R401, R406): AES-256 (FIPS 197), its
XTS mode (IEEE 1619), its GCM mode (SP 800-38D), and SHAKE256 (FIPS 202) (PRESUMED, log entry 85). -/

namespace Sys2Proof.Machine

/-! ## Bytes and values -/

/-- The value of bytes, the first the least significant (R11). -/
def leNat : List Byte → Nat
  | [] => 0
  | b :: r => b.toNat + 256 * leNat r

/-- The `n` bytes of some from an offset, as a value. -/
def field (bs : List Byte) (off n : Nat) : Nat := leNat ((bs.drop off).take n)

/-- The `n` bytes of a value, the least significant first (R11). -/
def leBytes (v : Nat) : Nat → List Byte
  | 0 => []
  | n + 1 => BitVec.ofNat 8 v :: leBytes (v / 256) n

/-- Bytes combined one by one, as far as the shorter goes. -/
def xorBytes (a b : List Byte) : List Byte := (a.zip b).map (fun x => x.1 ^^^ x.2)

/-- Block `i` of 16 bytes. -/
def block16 (bs : List Byte) (i : Nat) : List Byte := (bs.drop (16 * i)).take 16

/-! ## AES-256. A block is 16 bytes: row r of column c is byte 4 c + r. -/

/-- Twice a byte in the field of AES. -/
def gfDouble (a : Byte) : Byte := (a <<< 1) ^^^ (if a.msb then 0x1B else 0)

/-- The product of two bytes in the field of AES. -/
def gfMul (a b : Byte) : Byte :=
  ((List.range 8).foldl (fun st i => (if b.getLsbD i then st.1 ^^^ st.2 else st.1, gfDouble st.2)) ((0 : Byte), a)).1

/-- The inverse of a byte in the field of AES, 0 for 0: its 254th power. -/
def gfInv (a : Byte) : Byte := (List.range 6).foldl (fun x _ => let y := gfMul x a; gfMul y y) (gfMul a a)

/-- The S-box. -/
def subByte (a : Byte) : Byte :=
  let b := gfInv a
  b ^^^ b.rotateLeft 1 ^^^ b.rotateLeft 2 ^^^ b.rotateLeft 3 ^^^ b.rotateLeft 4 ^^^ 0x63

/-- The inverse of the S-box. -/
def unsubByte (a : Byte) : Byte := gfInv (a.rotateLeft 1 ^^^ a.rotateLeft 3 ^^^ a.rotateLeft 6 ^^^ 0x05)

/-- Row r of a block moves by r columns; `k` is 1, or 3 for the inverse. -/
def shiftRows (k : Nat) (b : List Byte) : List Byte := (List.range 16).map (fun i => b.getD ((i + 4 * k * (i % 4)) % 16) 0)

/-- Each column times a circulant, given by its first row. -/
def mixColumns (m : List Byte) (b : List Byte) : List Byte :=
  (List.range 16).map (fun i =>
    (List.range 4).foldl (fun x j => x ^^^ gfMul (m.getD j 0) (b.getD (i / 4 * 4 + (i % 4 + j) % 4) 0)) 0)

/-- The words of the key schedule from word 8 on, each appended to those before it. -/
def expandKey (key : List Byte) : List Byte :=
  (List.range 52).foldl (fun ws j =>
    let t := ws.drop (4 * (j + 7))
    let t1 :=
      if j % 8 = 0 then xorBytes ((t.drop 1 ++ t.take 1).map subByte) ((List.range (j / 8)).foldl (fun x _ => gfDouble x) 1 :: [0, 0, 0])
      else if j % 8 = 4 then t.map subByte
      else t
    ws ++ xorBytes ((ws.drop (4 * j)).take 4) t1) key

/-- AES-256 on one block. -/
def aesEncrypt (key blk : List Byte) : List Byte :=
  let w := expandKey key
  let last := (List.range 13).foldl (fun b r => xorBytes (mixColumns [2, 3, 1, 1] (shiftRows 1 (b.map subByte))) (block16 w (r + 1)))
    (xorBytes blk (block16 w 0))
  xorBytes (shiftRows 1 (last.map subByte)) (block16 w 14)

/-- The inverse of AES-256 on one block. -/
def aesDecrypt (key blk : List Byte) : List Byte :=
  let w := expandKey key
  let last := (List.range 13).foldl
    (fun b r => mixColumns [14, 11, 13, 9] (xorBytes ((shiftRows 3 b).map unsubByte) (block16 w (13 - r)))) (xorBytes blk (block16 w 14))
  xorBytes ((shiftRows 3 last).map unsubByte) (block16 w 0)

/-! ## XTS over one sector (R398) -/

/-- The next tweak. -/
def xtsDouble (t : Nat) : Nat := if 2 ^ 127 ≤ t then (2 * t % 2 ^ 128) ^^^ 0x87 else 2 * t

/-- The blocks of a data unit, each under its own tweak. -/
def xtsBlocks (f : List Byte → List Byte) (t n : Nat) (bs : List Byte) : List Byte :=
  ((List.range n).foldl (fun st i =>
    let tw := leBytes st.2 16
    (st.1 ++ xorBytes (f (xorBytes (block16 bs i) tw)) tw, xtsDouble st.2)) (([] : List Byte), t)).1

/-- The first tweak of a sector: PA[51:6], little-endian, under the second key. -/
def xtsTweak (key : List Byte) (sec : Nat) : Nat := leNat (aesEncrypt (key.drop 32) (leBytes (sec % 2 ^ 46) 16))

/-- A sector's ciphertext under a 64-byte key pair. -/
def xtsEncrypt (key : List Byte) (sec : Nat) (bs : List Byte) : List Byte := xtsBlocks (aesEncrypt (key.take 32)) (xtsTweak key sec) 4 bs

/-- What a sector's ciphertext decrypts to under a 64-byte key pair. -/
def xtsDecrypt (key : List Byte) (sec : Nat) (bs : List Byte) : List Byte := xtsBlocks (aesDecrypt (key.take 32)) (xtsTweak key sec) 4 bs

/-! ## GCM with a 12-byte nonce (R406) -/

/-- A value's bytes, the most significant first. -/
def beBytes (v n : Nat) : List Byte := (leBytes v n).reverse

/-- The product in the field of GCM, whose first bit is the most significant. -/
def ghashMul (x y : Nat) : Nat :=
  ((List.range 128).foldl (fun st i =>
    (if x.testBit (127 - i) then st.1 ^^^ st.2 else st.1, if st.2.testBit 0 then (st.2 / 2) ^^^ (0xE1 * 2 ^ 120) else st.2 / 2)) (0, y)).1

/-- Filled with zeros to whole blocks. -/
def padBlocks (bs : List Byte) : List Byte := bs ++ List.replicate ((16 - bs.length % 16) % 16) 0

/-- GHASH of associated data and ciphertext. -/
def ghash (h : Nat) (aad ct : List Byte) : Nat :=
  let bs := padBlocks aad ++ padBlocks ct ++ beBytes (8 * aad.length) 8 ++ beBytes (8 * ct.length) 8
  (List.range (bs.length / 16)).foldl (fun y i => ghashMul (y ^^^ leNat (block16 bs i).reverse) h) 0

/-- The key stream applied to bytes. -/
def gcmStream (key nonce bs : List Byte) : List Byte :=
  xorBytes bs ((List.range ((bs.length + 15) / 16)).flatMap (fun i => aesEncrypt key (nonce ++ beBytes (i + 2) 4)))

/-- The tag of associated data and ciphertext. -/
def gcmTag (key nonce aad ct : List Byte) : List Byte :=
  let h := leNat (aesEncrypt key (List.replicate 16 0)).reverse
  xorBytes (aesEncrypt key (nonce ++ beBytes 1 4)) (beBytes (ghash h aad ct) 16)

/-- Ciphertext, then tag. -/
def gcmSeal (key nonce aad plain : List Byte) : List Byte :=
  let ct := gcmStream key nonce plain
  ct ++ gcmTag key nonce aad ct

/-- The plaintext of a ciphertext and its tag; `none` where the tag fails. -/
def gcmOpen (key nonce aad sealed : List Byte) : Option (List Byte) :=
  let ct := sealed.take (sealed.length - 16)
  if sealed.drop (sealed.length - 16) == gcmTag key nonce aad ct then some (gcmStream key nonce ct) else none

/-! ## SHAKE256 (R401). Lane x + 5 y of the state. -/

/-- The round constants of Keccak-f[1600]. -/
def keccakRounds : List (BitVec 64) :=
  [0x1, 0x8082, 0x800000000000808A, 0x8000000080008000, 0x808B, 0x80000001, 0x8000000080008081, 0x8000000000008009] ++
  [0x8A, 0x88, 0x80008009, 0x8000000A, 0x8000808B, 0x800000000000008B, 0x8000000000008089, 0x8000000000008003] ++
  [0x8000000000008002, 0x8000000000000080, 0x800A, 0x800000008000000A, 0x8000000080008081, 0x8000000000008080, 0x80000001, 0x8000000080008008]

/-- How far each lane is rotated. -/
def keccakTurns : List Nat :=
  [0, 1, 62, 28, 27] ++ [36, 44, 6, 55, 20] ++ [3, 10, 43, 25, 39] ++ [41, 45, 15, 21, 8] ++ [18, 2, 61, 56, 14]

/-- One round of Keccak-f[1600]. -/
def keccakRound (a : List (BitVec 64)) (rc : BitVec 64) : List (BitVec 64) :=
  let lane (l : List (BitVec 64)) (x y : Nat) : BitVec 64 := l.getD (x % 5 + 5 * (y % 5)) 0
  let c := (List.range 5).map (fun x => lane a x 0 ^^^ lane a x 1 ^^^ lane a x 2 ^^^ lane a x 3 ^^^ lane a x 4)
  let t := (List.range 25).map (fun i => a.getD i 0 ^^^ lane c (i + 4) 0 ^^^ (lane c (i + 1) 0).rotateLeft 1)
  let b := (List.range 25).map (fun i =>
    let j := (i % 5 + 3 * (i / 5)) % 5 + 5 * (i % 5)
    (t.getD j 0).rotateLeft (keccakTurns.getD j 0))
  (List.range 25).map (fun i =>
    let v := b.getD i 0 ^^^ (~~~ (lane b (i % 5 + 1) (i / 5)) &&& lane b (i % 5 + 2) (i / 5))
    if i = 0 then v ^^^ rc else v)

/-- SHAKE256's rate, in bytes. -/
def shakeRate : Nat := 136

/-- A message with its padding, in whole blocks of the rate. -/
def shakePad (bs : List Byte) : List Byte :=
  let n := shakeRate - bs.length % shakeRate
  bs ++ (if n = 1 then [0x9F] else 0x1F :: List.replicate (n - 2) 0 ++ [0x80])

/-- A block of the rate is absorbed. -/
def shakeAbsorb (a : List (BitVec 64)) (blk : List Byte) : List (BitVec 64) :=
  keccakRounds.foldl keccakRound ((List.range 25).map (fun i => a.getD i 0 ^^^ BitVec.ofNat 64 (leNat ((blk.drop (8 * i)).take 8))))

/-- The first `n` bytes, at most 136, of SHAKE256. -/
def shake (bs : List Byte) (n : Nat) : List Byte :=
  let p := shakePad bs
  let a := (List.range (p.length / shakeRate)).foldl (fun a i => shakeAbsorb a ((p.drop (shakeRate * i)).take shakeRate)) (List.replicate 25 0)
  (a.flatMap (fun w => leBytes w.toNat 8)).take n

/-- The 64-byte digest of SHAKE256 (R401). -/
def shake256 (bs : List Byte) : BitVec 512 := BitVec.ofNat 512 (leNat (shake bs 64))

end Sys2Proof.Machine
end

