-- ==== Sys2Proof/Config.lean ====
section
/-! DEFINITION. What one device fixes and the manual leaves open: fused values, and the results of the cryptographic
algorithms the manual names but does not compute (24_trust.md). Each is an opaque constant: no proof can see its value. -/

namespace Sys2Proof.Config

/-- STEP, the silicon stepping fused into the device (R411) (DESIGN CHOICE, log entry 19). -/
opaque stepping : Byte

/-- SERIAL, the device serial number (R411) (DESIGN CHOICE, log entry 19). -/
opaque serial : DWord

/-- The 64-byte unique device secret in the fuses (R401) (DESIGN CHOICE, log entry 19). -/
opaque deviceSecret : BitVec 512

/-- The fused SHAKE256 digest of Clepin's root public key (R401) (DESIGN CHOICE, log entry 19). -/
opaque rootDigest : BitVec 512

/-- The fuse configuration and the security version, as MEAS3 measures them (R401) (DESIGN CHOICE, log entry 19). -/
opaque fuses : List Byte

/-- An image of the boot flash: public key, signature, body (R401). -/
structure BootImage where
  pubkey : List Byte
  signature : List Byte
  body : List Byte
deriving Inhabited

/-- The firmware image in the boot flash (R401) (DESIGN CHOICE, log entry 19). -/
opaque firmware : BootImage

/-- The base-die and memory-controller images, in site order (R401) (DESIGN CHOICE, log entry 19). -/
opaque subImages : List BootImage

/-- Falcon-1024's verification: public key, signature, message (R401) (DESIGN CHOICE, log entry 5). -/
opaque falconVerify : List Byte → List Byte → List Byte → Bool

/-- The device identity's key pair, public and private, from the device secret and MEAS0 (R401) (DESIGN CHOICE, log entry 19). -/
opaque identityPair : BitVec 512 → BitVec 512 → List Byte × List Byte

/-- A Falcon-1024 signature by a private key over a message (R402) (DESIGN CHOICE, log entry 5). -/
opaque falconSign : List Byte → List Byte → List Byte

/-- Whether a signature on a message verifies under another device's public identity, named by its digest (R409) (DESIGN CHOICE, log entry 5). -/
opaque identityVerify : BitVec 512 → List Byte → List Byte → Bool

/-- A nonce, or any value drawn at random by the device, as a function of how many were drawn before (R404, R406) (DESIGN CHOICE, log entry 5). -/
opaque nonce : Nat → BitVec 256

/-- ML-KEM-1024's ciphertext for an encapsulation key, as a function of how many values the device had drawn (R403, R409) (DESIGN CHOICE, log entry 5). -/
opaque kemCipher : List Byte → Nat → List Byte

/-- The secret that an encapsulation key and a ciphertext share: what encapsulation gives, and decapsulation recovers (R403, R409) (DESIGN CHOICE, log
entry 5). -/
opaque kemSecret : List Byte → List Byte → List Byte

/-- The device's own ML-KEM-1024 encapsulation key (R409) (DESIGN CHOICE, log entry 19). -/
opaque kemKey : List Byte

/-- Clepin's root certificate (R402) (DESIGN CHOICE, log entry 19). -/
opaque rootCert : List Byte

/-- The device identity certificate, of the identity's public key (R402) (DESIGN CHOICE, log entry 19). -/
opaque identityCert : List Byte → List Byte

/-- The alias certificate for a MEAS0 (R402) (DESIGN CHOICE, log entry 19). -/
opaque aliasCert : BitVec 512 → List Byte

/-- Which of the places that fit an allocation it takes, as a function of the model's own order (R180 leaves it open) (DESIGN CHOICE, log entry 5). -/
opaque allocChoice : Nat → Nat

/-- What QERRSEQ holds where the packet that halted a queue could not be read, as a function of the model's own order (R305 leaves it
open) (DESIGN CHOICE, log entry 5). -/
opaque unreadSeq : Nat → DWord

/-- What an access to a 64 KiB page whose 16 entries disagree does, as a function of the table's address and of the entry's index: `none`
raises TRANSLATION, `some n` goes on as entry n modulo 16 of the page says (R286 leaves it undefined, confined by R16 to the program's own
tables) (DESIGN CHOICE, log entry 10). -/
opaque undefinedPage : Nat → Nat → Option Nat

/-- Which of the lines or translations that a full cache holds makes room for a new one, as a function of the model's own order (R279, R280,
R288 leave it open) (DESIGN CHOICE, log entry 23). -/
opaque victim : Nat → Nat

/-- The hash that spreads the lines of a partition over its cache-mode pools (R280) (DESIGN CHOICE, log entry 23). -/
opaque l2Hash : Nat → Nat

/-- What number 127 supplies as the last word of a 128-bit register operand that begins at s28 (R18, R68 leave it open) (DESIGN CHOICE, log entry 5; DEDUCED, log entry 62). -/
opaque lastWord : Word

/-- The number that stands in a completion for a status of R292 and R296, which the manual names and does not number: 0 DONE, 1 ASID_LIVE,
2 BIND_BUSY, 3 BAD_CONTEXT, 4 ASID_IN_USE, 5 NOT_BOUND, 6 NOT_MAPPED, 7 BAD_SIZE, 8 BAD_FRAME, 9 BUSY, 10 PINNED, 11 BAD_COMMAND (DESIGN CHOICE, log entry 5; DEDUCED, log entry 59). -/
opaque commandStatus : Nat → Word

/-- Whether a requester's FINISH verifies against the session's transcript (R403). -/
opaque finishVerify : List Byte → List Byte → Bool

end Sys2Proof.Config
end

