-- ==== Sys2Proof/Machine/Store.lean ====
section
/-! DEFINITION. A sparse table from natural keys to words: a list of (key, value) pairs in one canonical form, keys
strictly rising and no value 0, which is what an unlisted key reads as. Memory, vector registers, banks and scratchpads
are all held in this form. -/

namespace Sys2Proof

/-- A sparse table; an unlisted key reads 0. -/
abbrev Store (n : Nat) := List (Nat × BitVec n)

/-- The value of a key (DESIGN CHOICE, log entry 2). -/
def sget {n : Nat} : Store n → Nat → BitVec n
  | [], _ => 0
  | (a, v) :: r, k => if a = k then v else sget r k

/-- The table without a key. -/
def sdel {n : Nat} (m : Store n) (k : Nat) : Store n := m.filter (fun c => c.1 != k)

/-- Insert a pair before the first larger key (DESIGN CHOICE, log entry 2). -/
def sput {n : Nat} : Store n → Nat → BitVec n → Store n
  | [], k, v => [(k, v)]
  | (a, w) :: r, k, v => if k < a then (k, v) :: (a, w) :: r else (a, w) :: sput r k v

/-- The table with a key set; setting 0 removes the entry. -/
def sset {n : Nat} (m : Store n) (k : Nat) (v : BitVec n) : Store n :=
  if v = 0 then sdel m k else sput (sdel m k) k v

/-- The canonical form: keys strictly rising, no value 0. -/
def swf {n : Nat} : Store n → Bool
  | [] => true
  | (a, v) :: r => v != 0 && r.all (fun c => decide (a < c.1)) && swf r

/-- Consecutive keys from `a`. -/
def sgetMany {n : Nat} (m : Store n) (a : Nat) : Nat → List (BitVec n)
  | 0 => []
  | c + 1 => sget m a :: sgetMany m (a + 1) c

/-- Set consecutive keys from `a`. -/
def ssetMany {n : Nat} (m : Store n) (a : Nat) : List (BitVec n) → Store n
  | [] => m
  | v :: r => ssetMany (sset m a v) (a + 1) r

/-- Remove every key in `[lo, lo + len)`: they read 0 again. -/
def sclear {n : Nat} (m : Store n) (lo len : Nat) : Store n :=
  m.filter (fun c => decide (c.1 < lo) || decide (lo + len ≤ c.1))

end Sys2Proof
end

