-- ==== Sys2Proof/Machine/State.lean ====
section
/-! DEFINITION. The state of the M4 as the manual gives it, as plain data: groups and their splits (01_machine_state.md),
blocks, launches and queues (15_scheduling.md), the memories and their copies (12_ordering.md, 13_memories_translation.md),
the matrix engine (10, 17), views (11, 21), and the registers the host and the management core see (19, 21, 23, 24, 25);
the reasons a step can stop; and the machine right after power-on reset. -/

namespace Sys2Proof.Machine

/-- Why the machine stops (DESIGN CHOICE, log entry 66). -/
inductive Fault where
  /-- Raised by `exec` of a word instruction when no split is issuing. Safe: `step` issues a word only for a split. -/
  | noIssuer
deriving DecidableEq, Repr

/-- Why an instruction has no meaning. -/
inductive Refusal where
  /-- Raised by an arm of `exec` whose instruction has no meaning yet. Safe: nothing is claimed of it. -/
  | notModelled (mnemonic : String)
deriving DecidableEq, Repr

/-! ## Splits and groups -/

/-- The states of a split (R30). -/
inductive SplitState where
  | ready | ebb | fault | wait | yield | bwait | bar | regreq | join | stop | super
deriving DecidableEq, Repr

/-- What a parked split waits for. `barrier` numbers: 0..15 BAR, 16 CBAR, 17 VCOMMIT. -/
inductive Park where
  | none
  | word (sector : Nat) (woken : Bool) (deadline : Option Nat)
  | sleep (until_ : Nat)
  | fifo (pool need : Nat) (enq : Bool)
  | object (addr : Nat)
  | barrier (n : Nat)
  | latch (word : Word)
  | fork (word : Word)
  | choose
deriving DecidableEq, Repr

/-- A reconvergence stack entry (R31). -/
structure StackEntry where
  id : BitVec 8
  jpc : Pc
  mask : LaneMask
  ppc : Pc
  pmask : LaneMask
  fmt : Word
  sig : Word
deriving DecidableEq, Repr

/-- The empty stack position. -/
def StackEntry.zero : StackEntry := ⟨0, 0, 0, 0, 0, 0, 0⟩

/-- Where a store goes: a physical address of global memory with its page's attribute (0 WB, 1 SC, 2 EXT) and size, or a byte of a
cluster's pools. -/
inductive Place where
  | global (pa : Nat) (va : Nat) (attr : Nat) (page : Nat)
  | pool (addr : Nat)
deriving DecidableEq, Repr

/-- A store of a split that is issued and not yet performed (R174, R261). -/
structure BufStore where
  seq : Nat
  /-- The split's earlier accesses that were not performed when the store issued. -/
  after : List Nat
  place : Place
  scope : Scope
  bytes : List Byte
  view : Nat
  /-- A pin held the store as it issued (R334). -/
  held : Bool := false
deriving DecidableEq, Repr

/-- Appends to an outlier list in progress (R119, R171): the elements still to append, in order, those that found the list full, and the slot
that is reserved for the first one left. -/
structure Appends where
  left : List Nat
  full : List Nat
  slot : Option Nat
deriving DecidableEq, Repr

/-- A split (R29), with what its parks and its buffered accesses keep. -/
structure Split where
  idx : Nat
  pc : Pc
  active : LaneMask
  fmt : Word
  sig : Word
  outst : RegSet
  st : SplitState
  depth : Nat
  stack : List StackEntry
  /-- Unfinished lanes of a memory instruction in FAULT (R175), and their addresses. -/
  fmask : LaneMask
  faddr : List (Nat × Nat)
  /-- The unfinished mask that a trap keeps, and the instruction it belongs to (R294). -/
  kept : LaneMask
  keptPc : Pc
  park : Park
  /-- PC, SIG and ebb bit with which a park ends; `pc` stays at the parking instruction (R343, R377). -/
  next : Pc
  nextSig : Word
  nextEbb : Bool
  /-- Largest GWCT kept (R174). -/
  gwct : Nat
  /-- CLOCK tick before which fetch is suspended (R174, R206). -/
  hold : Nat
  /-- Progress of an instruction that suspends its own fetch. -/
  phase : Nat
  appends : Option Appends
  buffer : List BufStore
  /-- The orders of the split's own earlier accesses that may not be performed yet; a split made by a divergence has those of
  the split it came from. -/
  past : List Nat
  /-- Stores that met an uncorrectable error, and their scopes (R176). -/
  storeErrs : List (Nat × Scope)
  /-- MEM_ABORT of an outstanding result: failed sector (R52). -/
  abort : Option Nat
  /-- The same of the user code's run, while the split runs the trap handler (R43, R52). -/
  keptAbort : Option Nat
  /-- ECHO to raise at the next issue slot: address and lanes (R376). -/
  echoTrap : Option (Pc × LaneMask)
  /-- Stopped by step 4 of R43. -/
  frozen : Bool
  /-- Stopped for a trap handler's own instruction stream (SUPER). -/
  stopReq : Bool
  /-- The control window's STEP is pending (R359). -/
  stepOne : Bool
  /-- The split enters STOP when its wait ends, in a handler too: a step ended with its park (R359). -/
  stepEnd : Bool
  /-- Raise STEP after one instruction (R213). -/
  trapStep : Bool
  /-- The STEP of an instruction that ended in a sibling's handler is raised when the handler has returned (R43, R213). -/
  stepDue : Bool
  /-- The tag, as the instruction names it, for which a bank instruction of the split waits (R237). -/
  tagWait : Option Nat
  /-- Order in which the split became ready (R318). -/
  order : Nat
  /-- The `order` under which the split was last seen as its group's lowest runnable one, and the cycles since, in units of 1/80 (R45). -/
  low : Nat × Nat
  /-- Copies filled before these marks do not serve the split's loads: at CLU and at DEV (R274). -/
  scClu : Nat
  scDev : Nat
deriving DecidableEq, Repr

/-- Where a lane's outstanding value goes. -/
inductive RegDest where
  | vec (r lane : Nat)
  | lanes (r : Nat) (m : LaneMask)
  | uni (i : Nat)
  | sup (i : Nat)
deriving DecidableEq, Repr

/-- One lane's part of an outstanding result: the values to write, or the load still to perform (R48, R173). A load reads
`n` bytes at `place` and writes them to `dests`, word by word; `sext` sign-extends a narrow load. -/
structure LaneResult where
  lane : Nat
  dests : List RegDest
  vals : List Word
  load : Option (Place × Nat)
  sext : Bool
  scope : Scope
  /-- Exception flags ORed into the lane's FFLAGS when the result is written (R150). -/
  flags : BitVec 5
deriving DecidableEq, Repr

/-- An outstanding result of a group: the instruction's order, issuing split, registers and lanes not yet written. -/
structure Pending where
  seq : Nat
  /-- The split's earlier accesses that were not performed when the result's instruction issued. -/
  after : List Nat
  sp : Nat
  view : Nat
  regs : RegSet
  parts : List LaneResult
deriving DecidableEq, Repr

/-- A group's registers and trap state (R18 to R25, R35). Vector register r of lane l has key 32 r + l. -/
structure Group where
  gid : Nat
  bid : Nat
  index : Nat
  v : Store 32
  s : Store 32
  k : Store 32
  p : Store 32
  fflags : Store 5
  count : Nat
  req : Nat
  splits : List Split
  exited : LaneMask
  nextId : BitVec 8
  fcsr : BitVec 5
  gang : DWord
  replays : Word
  trapCause : Word
  trapPc : DWord
  trapMask : Word
  trapAddr : DWord
  saveBase : DWord
  tvec : DWord
  mode : Bool
  pmode : Bool
  step : Bool
  sched : Nat
  pending : List Pending
  nextSeq : Nat
  ended : Bool
  /-- The group has issued the RTE of its save or restore routine (R346, R352). -/
  routineDone : Bool
  /-- A STOP has named the group while it was saved: its splits enter STOP once they are restored (R358). -/
  stopAsked : Bool
deriving DecidableEq, Repr

/-! ## Blocks, allocations, launches -/

/-- Where a block stands (R311, R343, R351); one that is `ending` has no groups, and a commit whose outbox is not all performed (R259, R308). -/
inductive BlockState where
  | waiting | running | stopping | saving | saved | restoring | ending | ended
deriving DecidableEq, Repr

/-- A scratchpad allocation: owner block, or owner cohort of a launch; its local address, size and lifetime; and its
physical segments in order (R180, R245). -/
structure Alloc where
  cohortOwned : Bool
  owner : Nat
  cluster : Nat
  base : Nat
  size : Nat
  life : Nat
  segs : List Nat
deriving DecidableEq, Repr

/-- A tag's contents as a checkpoint keeps them (R256). -/
structure TagImage where
  p : Nat
  fuse : Fusion
  afmt : BitVec 4
  bfmt : BitVec 4
  acc : BitVec 2
  frozen : Bool
  flags : BitVec 5
  bank : Store 32
deriving DecidableEq, Repr

/-- What a checkpoint, or a FORK's snapshot, restores (R246, R256). -/
structure Shadow where
  cluster : Nat
  core : Nat
  groups : List Group
  allocs : List Alloc
  tags : List TagImage
deriving DecidableEq, Repr

/-- A block of a launch, or a rival of one (R35, R246). -/
structure Block where
  bid : Nat
  lid : Nat
  index : Word
  x : Word
  y : Word
  z : Word
  cohort : Nat
  member : Nat
  st : BlockState
  cluster : Nat
  core : Nat
  rival : Nat
  view : Nat
  forkRec : Option Nat
  keep : Bool
  saveBase : Nat
  /-- A fresh copy made by FORK waits for placement (R247). -/
  clone : Bool
  /-- Groups evicted, or being evicted, for their registers (R28, R354). -/
  evict : List Nat
  debug : Bool
  stopBlk : Bool
  rollbacks : Nat
  entry : Pc
  shadow : Option Shadow
  /-- The current copy of the shadow in the save region; 2 before the first checkpoint (R370). -/
  shadowCopy : Nat
  /-- The other copy's VALID is still to be cleared (R370). -/
  staleCopy : Bool
  /-- Rolled back, and queued for a core of the cluster that holds its shadow's scratchpad (R257). -/
  rolled : Bool
  /-- An atomic block recorded complete (R259, R260). -/
  committed : Bool
  preempts : Nat
  /-- A pre-emption, with its KEEP, that waits for the block's restore to end (R340, R343). -/
  asked : Option Bool
  /-- An uncorrectable error of a register file that waits for a commit under way (R374). -/
  struck : Bool
deriving DecidableEq, Repr

/-- An argument, scratchpad or FIFO entry of a kernel descriptor (R93). -/
structure ArgEntry where
  reg : Nat
  wide : Bool
  off : Nat
  dflt : DWord
deriving DecidableEq, Repr

structure ScratchEntry where
  reg : Nat
  shared : Bool
  life : Nat
  bytes : Nat
deriving DecidableEq, Repr

structure FifoEntry where
  reg : Nat
  width : Nat
  life : Nat
  depth : Nat
deriving DecidableEq, Repr

/-- A registered kernel descriptor (R92, R99). -/
structure Kernel where
  addr : Nat
  tenancy : Nat
  image : Nat
  mode : BitVec 2
  entry : Pc
  regs : Nat
  groups : Nat
  cohort : Nat
  gang : Nat
  dimx : Nat
  dimy : Nat
  dimz : Nat
  fmtInit : Word
  paramSize : Nat
  args : List ArgEntry
  scratch : List ScratchEntry
  fifos : List FifoEntry
deriving DecidableEq, Repr

/-- A stage of a flume descriptor (R96). -/
structure FlumeStage where
  kernel : Nat
  deadline : Nat
  skip : Bool
  after : BitVec 16
deriving DecidableEq, Repr

structure Flume where
  addr : Nat
  tenancy : Nat
  image : Nat
  stages : List FlumeStage
deriving DecidableEq, Repr

/-- A loaded image (R99, R100). -/
structure Image where
  base : Nat
  asid : Nat
  size : Nat
deriving DecidableEq, Repr

/-- One child of a merged launch (R315). -/
structure Child where
  x : Nat
  y : Nat
  z : Nat
  event : Bool
  params : List Byte
  posted : Bool
deriving DecidableEq, Repr

/-- A launch: accepted and started work of a queue (R302, R309, R311). -/
structure Launch where
  lid : Nat
  q : Nat
  seq : DWord
  age : Nat
  kernel : Kernel
  dimx : Nat
  dimy : Nat
  dimz : Nat
  prio : Nat
  params : List Byte
  children : List Child
  event : Bool
  started : Bool
  nextBlock : Nat
  done : List Nat
  handTable : List Word
  /-- The local addresses of its cohorts' shared allocations, entry by entry (R94). -/
  shared : List (Nat × List Nat)
  prev : Option Nat
  complete : Bool
  unplaceable : Bool
  item : Option (Nat × Nat)
  killed : Bool
deriving DecidableEq, Repr

/-- The queue log's entries (R307): what a packet is, and how far it has come. -/
inductive LogKind where
  | launch (lid : Nat)
  | flume (item : Nat)
  | waitseq (q : Nat) (tseq : DWord)
  | signal (addr : Nat) (value : DWord)
  | trivial
deriving DecidableEq, Repr

structure LogEntry where
  q : Nat
  seq : DWord
  off : Nat
  order : Nat
  kind : LogKind
  fence : Bool
  event : Bool
  handoff : Bool
  htable : Nat
  started : Bool
  complete : Bool
  /-- The sites whose LLC holds a copy of the entry. -/
  sites : List Nat
deriving DecidableEq, Repr

/-- A flume item's stage (R316, R317). -/
structure StageRun where
  lid : Option Nat
  released : Bool
  start : Nat
  last : Nat
  overrun : Bool
  /-- What an overrun brings, its record and with SKIP the launch's end, is still to be done (R317). -/
  owed : Bool
  ended : Bool
  status : BitVec 16
  releasedBlocks : List Nat
deriving DecidableEq, Repr

structure Item where
  id : Nat
  q : Nat
  seq : DWord
  item : DWord
  flume : Flume
  statAddr : Nat
  prio : Nat
  params : List Byte
  stages : List StageRun
deriving DecidableEq, Repr

/-- A launch queue's registers (R299) and assignment (R298). -/
structure Queue where
  q : Nat
  assigned : Bool
  asid : Nat
  tenancy : Nat
  part : Nat
  fn : Nat
  base : DWord
  size : Word
  prio : BitVec 4
  tail : Word
  head : Word
  evBase : DWord
  evSize : Word
  evHead : Word
  enable : Bool
  halt : Bool
  cause : BitVec 6
  errOff : BitVec 24
  errSeq : DWord
  evTail : Word
  nextSeq : DWord
  lastLaunch : Option Nat
  raftCount : DWord
deriving DecidableEq, Repr

/-- An open raft window (R315). -/
structure RaftWindow where
  q : Nat
  kdesc : Nat
  kernel : Kernel
  prio : Nat
  psize : Nat
  first : Nat
  children : List Child
deriving DecidableEq, Repr

/-! ## Memory system -/

/-- A 64-byte sector held in an L1 (R278, R279): tag, bytes, which are valid and which dirty, narrowest and widest scope written, lease end,
write permission, the model's order of its fill and of the home's grant it rests on (R274), and the splits that wrote the dirty bytes
(R373). -/
structure L1Sector where
  cluster : Nat
  core : Nat
  asid : Nat
  /-- The tenancy of its owner (R398). -/
  tenancy : Nat
  view : Nat
  va : Nat
  pa : Nat
  data : BitVec 512
  valid : BitVec 64
  dirty : BitVec 64
  scope : Scope
  wide : Scope
  lease : Nat
  wperm : Bool
  seq : Nat
  grant : Nat
  writers : List (Nat × Nat)
deriving DecidableEq, Repr

/-- A 64-byte sector held in an L2 (R278, R281), in a cache-mode pool (R280); `age` is its line's. -/
structure L2Sector where
  cluster : Nat
  pool : Nat
  part : Nat
  tenancy : Nat
  view : Nat
  pa : Nat
  data : BitVec 512
  valid : BitVec 64
  dirty : BitVec 64
  scope : Scope
  lease : Nat
  age : Nat
  seq : Nat
  writers : List (Nat × Nat)
deriving DecidableEq, Repr

/-- A translation held by a cluster's TLB (R288). -/
structure TlbEntry where
  cluster : Nat
  asid : Nat
  va : Nat
  size : Nat
  pa : Nat
  attr : Nat
  w : Bool
  x : Bool
deriving DecidableEq, Repr

/-- A non-leaf entry held by a site's walk cache (R288). -/
structure WalkEntry where
  site : Nat
  asid : Nat
  level : Nat
  va : Nat
  frame : Nat
deriving DecidableEq, Repr

/-- A bound ASID (R290, R292). -/
structure Context where
  asid : Nat
  root : Nat
  tenancy : Nat
  pasid : Nat
  faultDst : Nat
  lease : Nat
  mcruise : Nat
  retiring : Bool
deriving DecidableEq, Repr

/-- A Page Request Message (R385). -/
structure PageRequest where
  fn : Nat
  pasid : Nat
  page : Nat
  read : Bool
  write : Bool
  execute : Bool
  last : Bool
deriving DecidableEq, Repr

/-- An outstanding replayable fault (R293), whether its record still waits for room in its ring, and the message of one that is sent, or waits
to be sent, as a page request (R385). -/
structure PageFault where
  asid : Nat
  va : Nat
  posted : Bool
  record : List Byte
  pri : Option PageRequest
deriving DecidableEq, Repr

/-- A translation command in progress (R291, R292, R296). -/
structure Command where
  op : Nat
  asid : Nat
  va : Nat
  arg : Nat
  ctag : DWord
  status : Nat
  /-- MIGRATE: the step of R277 reached, the old frame, the page size and the tick it began. -/
  step : Nat
  old : Nat
  size : Nat
  start : Nat
  ready : Bool
deriving DecidableEq, Repr

/-- A sector written in a view (R243, R364). -/
structure ViewSector where
  view : Nat
  /-- The tenancy of its owner (R398). -/
  tenancy : Nat
  pa : Nat
  va : Nat
  data : BitVec 512
  mask : BitVec 64
  scope : Scope
  spilled : Bool
  dead : Bool
  /-- An error found in it (R368). -/
  bad : Bool
deriving DecidableEq, Repr

/-- An outbox entry (R251). -/
inductive OutboxOp where
  | send (code payload : Word) (who : Word)
  | launch (addr : Nat) (len : Nat)
  | ext (pa va seq : Nat) (bytes : List Byte)
  | release
deriving DecidableEq, Repr

structure OutboxEntry where
  op : OutboxOp
  bid : Nat
  gid : Nat
deriving DecidableEq, Repr

/-- What a view belongs to (R242). -/
inductive ViewKind where
  | rival | interval | block
deriving DecidableEq, Repr

/-- A live view (R242, R251). -/
structure View where
  id : Nat
  parent : Nat
  depth : Nat
  kind : ViewKind
  outbox : List OutboxEntry
  /-- The commit's store pass is done (R368): the tick its release waits for. -/
  commit : Option Nat
deriving DecidableEq, Repr

/-- A fork record (R246). -/
structure ForkRecord where
  id : Nat
  n : Nat
  parent : Nat
  fail : Pc
  snapshot : Shadow
  parentRec : Option Nat
  parentRival : Nat
  base : Block
  /-- The views of the rivals that have not ended. -/
  views : List Nat
  claimed : Bool
  aborted : List Nat
deriving DecidableEq, Repr

/-- The modes of a pool (R188). -/
inductive PoolMode where
  | cache | scratch | fifo
deriving DecidableEq, Repr

/-- A pool that is not a plain scratchpad pool: its mode, its FIFO's fields and entries (R185, R188). -/
structure Pool where
  cluster : Nat
  pool : Nat
  mode : PoolMode
  width : Nat
  depth : Nat
  life : Nat
  holder : Option Nat
  entries : List (BitVec 128 × Nat)
deriving DecidableEq, Repr

/-- The memories and what lies on the way to them. -/
structure Memory where
  /-- Every byte of the physical address space (R283); an unlisted byte reads 0. -/
  mem : List Host.Cell
  /-- Scratchpad bytes: key cluster * 2^25 + physical pool address. -/
  scratch : Store 8
  segAge : List (Nat × Nat)
  allocs : List Alloc
  pools : List Pool
  l1 : List L1Sector
  l2 : List L2Sector
  /-- Latest lease end granted by the home LLC, by line (R263). -/
  llcLease : List (Nat × Nat)
  /-- Latest lease end that each L2 granted its cluster's L1s, by 2^64 times the cluster plus the line (R263). -/
  l2Grant : List (Nat × Nat)
  /-- Lines an engine owns, and the request that owns each (R273). -/
  owned : List (Nat × Nat)
  tlb : List TlbEntry
  walk : List WalkEntry
  contexts : List Context
  faults : List PageFault
  commands : List Command
  /-- Sectors with an uncorrectable error, and lost sectors (R372, R373). -/
  bad : List Nat
  lost : List Nat
  /-- Sectors the next access to which ends in an abort, its flit having failed for the ninth time, and the unit, 5 or 6 (R371). -/
  flits : List (Nat × Nat)
  /-- The unit that found the uncorrectable error of a sector, plus 2^58 times its view, where not DRAM (R379). -/
  failedIn : List (Nat × Nat)
  /-- The splits whose stores a sector's home holds: the sector, plus 2^58 times its view, group, split, and the store's scope (R373). -/
  writers : List (Nat × Nat × Nat × Scope)
  views : List View
  sectors : List ViewSector
  /-- View identifiers discarded and not yet returned (R366). -/
  heldIds : List Nat
  forks : List ForkRecord
  /-- Key slot under which a sector of DRAM was written, where not the reader's (R399). -/
  keyed : List (Nat × Nat)
deriving DecidableEq, Repr

/-! ## Matrix and request engines -/

/-- A tag's state (R218). -/
inductive TagState where
  | free | bound | frozen | killing
deriving DecidableEq, Repr

/-- A tile record (R220). -/
structure TileRec where
  base : Nat
  dxhdr : BitVec 16
  rows : Nat
  cols : Nat
  stride : Nat
  fmt : Nat
  isLocal : Bool
  outpair : Nat
deriving DecidableEq, Repr

/-- One wave: its k, its operands as raw elements, or the cause that made it void (R227, R328). -/
structure Wave where
  k : Nat
  last : Bool
  void : Option (BitVec 6)
  a : List Word
  b : List Word
deriving DecidableEq, Repr

/-- An accepted MMA (R225): its place in the order of acceptance, its records, issuing context, the next k to latch and to
admit, and the waves that are void: those that an INVALID response has made so before they are latched, and those latched void (R294, R335). -/
structure Mma where
  no : Nat
  a : TileRec
  b : TileRec
  asid : Nat
  view : Nat
  bid : Nat
  latchK : Nat
  admitK : Nat
  voided : List Nat
  /-- Pages with a replayable fault that its fetch has met (`true`), or only the cruise pass (R294, R295). -/
  met : List (Nat × Bool)
  /-- Pages that an INVALID response has failed before the fetch reached them (R295). -/
  failed : List Nat
  /-- 1 more than the first wave of the chunk whose fetch waits on a replayable fault, or has waited so as the tag's next; 0 for none (R337). -/
  opened : Nat
deriving DecidableEq, Repr

/-- What a pin holds: bytes of the pools by key, bytes of global memory by physical address, or by the virtual address of an operand whose page
does not translate yet. -/
inductive PinKind where
  | pool
  | line
  | page (asid : Nat)
deriving DecidableEq, Repr

/-- Bytes that a tile fetch unit pins for an MMA, by its place in the order, and the first and the last wave that need them (R226, R334). -/
structure Pin where
  kind : PinKind
  addr : Nat
  len : Nat
  mma : Nat
  first : Nat
  last : Nat
deriving DecidableEq, Repr

/-- A physical tag of a cluster (R217, R218). -/
structure Tag where
  cluster : Nat
  p : Nat
  st : TagState
  owner : Nat
  fuse : Fusion
  member : Bool
  afmt : BitVec 4
  bfmt : BitVec 4
  acc : BitVec 2
  weight : Nat
  queue : List Mma
  /-- Waves latched in the tile fetch unit and not admitted (R333). -/
  latched : List Wave
  /-- Waves in the array, oldest first (R324). -/
  inflight : List Wave
  /-- Waves of the open chunk that have left the region and await its close (R325, R326). -/
  chunk : List Wave
  flags : BitVec 5
  void : Bool
  vk : Word
  vcause : BitVec 6
  vcount : Nat
  deficit : Int
  bank : Store 32
  pins : List Pin
  thawing : Bool
deriving DecidableEq, Repr

/-- A copy request accepted by a cluster's request engine (R238, R240). -/
structure CopyReq where
  id : Nat
  cluster : Nat
  core : Nat
  bid : Nat
  asid : Nat
  view : Nat
  src : Nat
  dst : Nat
  rows : Nat
  sstride : Nat
  dstride : Nat
  rowBytes : Nat
  cruise : Nat
  slocal : Bool
  dlocal : Bool
  bar : Nat
  /-- Destination bytes performed: row, first byte, length. -/
  done : List (Nat × Nat × Nat)
  /-- Pages with a replayable fault that it has met, and the address at which its data waits for the page (R294, R295). -/
  met : List (Nat × Option Nat)
  /-- Pages that an INVALID response has failed and the data has not reached (R295). -/
  failed : List Nat
deriving DecidableEq, Repr

/-- An echo queue entry (R375). -/
structure EchoEntry where
  sched : Nat
  gid : Nat
  sp : Nat
  addr : Pc
  word : Word
  fmt : Word
  lanes : LaneMask
  /-- Lanes not yet re-executed. -/
  left : LaneMask
  /-- Each active lane's source values, result bits and flags, in lane order. -/
  sources : List Word
  results : List Word
  rflags : List (BitVec 5)
  /-- Cycles of the core since its issue, in units of 1/80. -/
  age : Nat
deriving DecidableEq, Repr

/-- A request on the Tlaem Link, with its retries (R387). -/
structure LinkReq where
  id : Nat
  gid : Nat
  sp : Nat
  seq : Nat
  lane : Nat
  isStore : Bool
  /-- The byte it reaches, physical and virtual. -/
  pa : Nat
  va : Nat
  start : Nat
  retries : Nat
deriving DecidableEq, Repr

/-! ## Registers of the host and of the management core -/

/-- A control window (R342). -/
structure Window where
  fn : Nat
  launch : DWord
  block : Word
  group : BitVec 5
  split : BitVec 2
  busy : Bool
  status : BitVec 3
  bpaddr : List Pc
  bpen : List Bool
  /-- The block a PREEMPT waits for. -/
  waiting : List Nat
  /-- The groups that a STOP waits for. -/
  stops : List Nat
deriving DecidableEq, Repr

/-- A ring in host memory (R382). -/
structure Ring where
  fn : Nat
  r : Nat
  base : DWord
  size : Word
  enable : Bool
  head : Word
  tail : Word
  lost : DWord
deriving DecidableEq, Repr

/-- A quarter's register (R390), and the change in progress. -/
structure Quarter where
  q : Nat
  part : BitVec 6
  lent : BitVec 6
  pend : Bool
  newPart : BitVec 6
  newLent : BitVec 6
  graceEnd : Option Nat
deriving DecidableEq, Repr

/-- A partition's register (R391), supervisor image (R340) and distributor (R311, R319). -/
structure Partition where
  p : Nat
  tens : List Byte
  slice : BitVec 6
  grace : BitVec 14
  tvec : Pc
  saveBase : Pc
  imageDigest : BitVec 512
  lastQueue : Nat
  serving : Nat
  counted : Nat
deriving DecidableEq, Repr

/-- A performance counter (R392). -/
structure Counter where
  fn : Nat
  i : Nat
  event : Byte
  en : Bool
  tensel : Byte
  all : Bool
  value : DWord
deriving DecidableEq, Repr

/-- A tenancy's rate register (R395), its layout sequence and slot (R400), and handover state (R409). -/
structure Tenancy where
  t : Nat
  cap : Byte
  floor : Byte
  weight : BitVec 4
  lseq : DWord
  slot : Option Nat
  hseq : DWord
  exported : Option (List Byte)
  imported : Option (List Byte)
  committed : Bool
  confirmed : Bool
deriving DecidableEq, Repr

/-- A source's present rate in units of 2^-24 of its peak, and whether a mark came in the period (R395). Sources 0..95 are the clusters,
96..99 the sites. -/
structure Rate where
  t : Nat
  source : Nat
  rate : Nat
  mark : Bool
deriving DecidableEq, Repr

/-- A core's tenancy latch (R396). -/
structure Latch where
  core : Nat
  latch : Byte
  next : Byte
  lpend : Bool
  /-- A slice ended while a change was in progress: the latch changes again (R319). -/
  again : Bool
deriving DecidableEq, Repr

/-- A key slot (R399, R400). -/
structure KeySlot where
  slot : Nat
  loaded : Bool
  owner : Byte
  key : BitVec 512
deriving DecidableEq, Repr

/-- The states of an SPDM responder (R403). -/
inductive SpdmState where
  | idle | versioned | caps | negotiated
deriving DecidableEq, Repr

/-- An SPDM session: its identifier, and the transcript that begins with its KEY_EXCHANGE (R403, R404). -/
structure Session where
  id : Nat
  transcript : List Byte
deriving DecidableEq, Repr

/-- A function's SPDM responder (R402, R403), and its last answer. -/
structure Responder where
  fn : Nat
  tenancy : Nat
  st : SpdmState
  transcript : List Byte
  /-- The session that KEY_EXCHANGE has begun and FINISH has not completed. -/
  opening : Option Session
  /-- The open sessions. -/
  sessions : List Session
  /-- A request is still being answered. -/
  busy : Bool
  answer : List Byte
deriving DecidableEq, Repr

/-- An island's register (R413). -/
structure Island where
  i : Nat
  on : Bool
  stopped : Bool
  ratio : BitVec 5
deriving DecidableEq, Repr

/-- The boot stages (R411). -/
inductive Stage where
  | reset | rom | firmware | training | ready | failed
deriving DecidableEq, Repr

/-- The front end, the distributor and the loader. -/
structure FrontEnd where
  queues : List Queue
  log : List LogEntry
  launches : List Launch
  items : List Item
  raft : List RaftWindow
  images : List Image
  kernels : List Kernel
  flumes : List Flume
  blocks : List Block
  groups : List Group
  echo : List EchoEntry
  /-- What the distributors evict for, until it is placed: a launch's next cohort, or a block of it (R45). -/
  roomFor : List (Nat × Option Nat)
  /-- The cores that have detected a register deadlock and have not granted its lowest request yet, each as 4 × cluster + core (R28). -/
  deadlocks : List Nat
deriving DecidableEq, Repr

/-- The engines of the clusters. -/
structure Engines where
  tags : List Tag
  copies : List CopyReq
  /-- Cycles for which a quadrant's port is still held by a two-cycle pack (R328). -/
  held : List (Nat × Nat)
  link : List LinkReq
  /-- Each core's kick register (R239), where not 0. -/
  kicks : List (Nat × Word)
deriving DecidableEq, Repr

/-- The host's and the management core's registers. -/
structure System where
  windows : List Window
  rings : List Ring
  frva : DWord
  ctxBase : DWord
  expEn : Bool
  expBase : DWord
  devId : Nat
  /-- Devices present in the link domain, other than this one, by DEVID (R386). -/
  domain : List Nat
  priOff : List Nat
  /-- Bus address of each function's BAR0, as PCIe configuration placed it (R381). -/
  bars : List (Nat × Nat)
  /-- Each function's address translation cache, oldest first: function, PASID, host page (R384). -/
  ats : List (Nat × Nat × Nat)
  /-- What the host's ATS denies, and what it answers with an abort: function, PASID, host page (R384). -/
  atsDenied : List (Nat × Nat × Nat)
  hostAbort : List (Nat × Nat × Nat)
  /-- The physical function's Outstanding Page Request Allocation (R385). -/
  prAlloc : Nat
  /-- Latest lease ends that other devices have answered, by line of their windows (R387). -/
  remoteLease : List (Nat × Nat)
  /-- Frames of 2 MiB that their devices refuse to a tenancy: tenancy, frame (R388). -/
  refused : List (Nat × Nat)
  quarters : List Quarter
  parts : List Partition
  counters : List Counter
  tenancies : List Tenancy
  rates : List Rate
  latches : List Latch
  slots : List KeySlot
  responders : List Responder
  islands : List Island
  sensors : List (BitVec 16)
  siteT : List Nat
  viewBase : List DWord
  viewSize : List (BitVec 14)
  meas : List (BitVec 512)
  stage : Stage
  failCode : Byte
  stageStart : Nat
  throt : Bool
  /-- The sites in thermal stop (R416). -/
  stops : List Nat
  pnow : BitVec 16
  plimit : BitVec 16
  rseq : DWord
  drawn : Nat
deriving DecidableEq, Repr

/-- What the host, the host driver or the management core sets by means whose registers the manual does not lay out: the context table's
base (R290), a queue's assignment (R298), the tenancy a function serves (R384, R402), a BAR's place (R381), the link domain (R386), how a
host page answers a function and PASID (R384: 0 as memory, 1 denied by ATS, 2 with an abort), a translation that ATS has cached, the
Outstanding Page Request Allocation (R385), the latest lease that another device has granted on a line of its window (R387), and whether
another device refuses a frame to a tenancy (R388) (DESIGN CHOICE, log entry 16; DESIGN CHOICE, log entry 72). -/
inductive Setting where
  | contextBase (v : Nat)
  | assignQueue (q asid tenancy part fn : Nat)
  | serve (fn tenancy : Nat)
  | bar (fn base : Nat)
  | device (id : Nat) (domain : List Nat)
  | hostPage (fn pasid page kind : Nat)
  | ats (fn pasid page : Nat)
  | prAllocation (n : Nat)
  | remoteLease (pa end_ : Nat)
  | remoteFrame (tenancy frame : Nat) (refused : Bool)
  | answering (fn : Nat) (busy : Bool)
deriving DecidableEq, Repr

/-- What the model's agenda can make happen next: a split issues, an event of the table occurs, a block's own transitions go on, time
passes, the host or another device stores bytes in its own memory, something is set, the hardware replaces a copy or a translation, or a shared structure counts traffic (DESIGN CHOICE, log entry 4; DESIGN CHOICE, log entry 22; DESIGN CHOICE, log entry 72). -/
inductive Action where
  | issue (gid sp : Nat)
  | event (i : Instr)
  | advance (bid : Nat)
  | tick (n : Nat)
  | setting (x : Setting)
  | hostStore (pa : Nat) (bytes : List Byte)
  | evictL1 (cluster core va : Nat)
  | evictL2 (cluster pa : Nat)
  | evictTlb (cluster va : Nat)
  | evictWalk (site va : Nat)
  | mark (tenancy source : Nat)
  | traffic (code tenancy n : Nat)
deriving DecidableEq, Repr

/-- The machine. -/
structure State where
  /-- CLOCK: device ticks since boot (R35). -/
  clock : Nat
  /-- The model's own order of events: fills, issues, fences, records. -/
  seq : Nat
  /-- The model's own handle counter. -/
  nextId : Nat
  /-- The split that issues: group handle and split index. -/
  cur : Option (Nat × Nat)
  /-- What happens next, in order. -/
  agenda : List Action
  fe : FrontEnd
  mm : Memory
  en : Engines
  sys : System
deriving DecidableEq, Repr

/-- The resident groups, under their name. -/
abbrev State.groups (s : State) : List Group := s.fe.groups

/-- The machine right after power-on reset (R410 to R412): STAGE RESET, every register at its reset value, no group
placed, nothing bound, memory with nothing listed (DESIGN CHOICE, log entry 1; DESIGN CHOICE, log entry 2; DESIGN CHOICE, log entry 3; DESIGN CHOICE, log entry 15; DESIGN CHOICE, log entry 16; DESIGN CHOICE, log entry 18; DESIGN CHOICE, log entry 20; PRESUMED, log entry 84). -/
def State.reset : State where
  clock := 0
  seq := 0
  nextId := 1
  cur := none
  agenda := []
  fe :=
    { queues := [], log := [], launches := [], items := [], raft := [], images := [], kernels := [], flumes := [],
      blocks := [], groups := [], echo := [], roomFor := [], deadlocks := [] }
  mm :=
    { mem := [], scratch := [], segAge := [], allocs := [], pools := [], l1 := [], l2 := [], llcLease := [], l2Grant := [],
      owned := [], tlb := [], walk := [], contexts := [], faults := [], commands := [], bad := [], lost := [], flits := [], failedIn := [], writers := [],
      views := [], sectors := [], heldIds := [], forks := [], keyed := [] }
  en := { tags := [], copies := [], held := [], link := [], kicks := [] }
  sys :=
    { windows := [], rings := [], frva := 0, ctxBase := 0, expEn := false, expBase := 0, devId := 0, domain := [],
      priOff := [], bars := [], ats := [], atsDenied := [], hostAbort := [], prAlloc := 0, remoteLease := [], refused := [], quarters := [], parts := [], counters := [], tenancies := [], rates := [], latches := [],
      slots := [], responders := [], islands := [], sensors := List.replicate 64 0xFFFF, siteT := List.replicate 4 1760,
      viewBase := List.replicate 4 0, viewSize := List.replicate 4 0, meas := List.replicate 4 0, stage := .reset,
      failCode := 0, stageStart := 0, throt := false, stops := [], pnow := 0, plimit := 3600, rseq := 0, drawn := 0 }

end Sys2Proof.Machine
end

