-- ==== Sys2Proof/Machine/Regs.lean ====
section
/-! DEFINITION. Reading and writing registers, and finding the records of the state: every register has one home here, and
a register the state does not list holds its reset value. -/

namespace Sys2Proof.Machine

/-- Change every record that `p` names. -/
def updWhere {α : Type} (p : α → Bool) (f : α → α) (l : List α) : List α :=
  l.map (fun x => if p x then f x else x)

/-- Change the record that `p` names, or add the changed default. -/
def updOrAdd {α : Type} (p : α → Bool) (dflt : α) (f : α → α) (l : List α) : List α :=
  if l.any p then updWhere p f l else l ++ [f dflt]

/-- Find a record, or the default that holds its reset values. -/
def findD {α : Type} (p : α → Bool) (dflt : α) (l : List α) : α := (l.find? p).getD dflt

/-- Fold a list of state changes. -/
def foldS {α : Type} (l : List α) (s : State) (f : State → α → State) : State := l.foldl f s

/-! ## Lanes -/

/-- Lane `l` of a mask. -/
def laneIn (m : LaneMask) (l : Nat) : Bool := m.getLsbD l

/-- The lanes of a mask, lowest first. -/
def lanesOf (m : LaneMask) : List Nat := (List.range 32).filter (laneIn m)

/-- The mask of a list of lanes. -/
def maskOf (l : List Nat) : LaneMask := l.foldl (fun m i => m ||| (1#32 <<< i)) 0

/-- The lowest lane of a mask (0 for the empty mask). -/
def lowest (m : LaneMask) : Nat := (lanesOf m).headD 0

/-! ## Groups and splits -/

def State.group? (s : State) (gid : Nat) : Option Group := s.fe.groups.find? (fun g => g.gid == gid)

def State.mapGroups (s : State) (f : Group → Group) : State := { s with fe := { s.fe with groups := s.fe.groups.map f } }

def State.mapGroup (s : State) (gid : Nat) (f : Group → Group) : State :=
  { s with fe := { s.fe with groups := updWhere (fun g => g.gid == gid) f s.fe.groups } }

def Group.split? (g : Group) (i : Nat) : Option Split := g.splits.find? (fun p => p.idx == i)

def Group.mapSplits (g : Group) (f : Split → Split) : Group := { g with splits := g.splits.map f }

def Group.mapSplit (g : Group) (i : Nat) (f : Split → Split) : Group :=
  { g with splits := updWhere (fun p => p.idx == i) f g.splits }

def State.mapSplit (s : State) (gid i : Nat) (f : Split → Split) : State :=
  s.mapGroup gid (fun g => g.mapSplit i f)

def State.split? (s : State) (gid i : Nat) : Option (Group × Split) :=
  match s.group? gid with
  | some g => (g.split? i).map (fun p => (g, p))
  | none => none

def State.block? (s : State) (bid : Nat) : Option Block := s.fe.blocks.find? (fun b => b.bid == bid)

def State.mapBlock (s : State) (bid : Nat) (f : Block → Block) : State :=
  { s with fe := { s.fe with blocks := updWhere (fun b => b.bid == bid) f s.fe.blocks } }

def State.launch? (s : State) (lid : Nat) : Option Launch := s.fe.launches.find? (fun l => l.lid == lid)

def State.mapLaunch (s : State) (lid : Nat) (f : Launch → Launch) : State :=
  { s with fe := { s.fe with launches := updWhere (fun l => l.lid == lid) f s.fe.launches } }

/-- The groups of a block. -/
def State.groupsOf (s : State) (bid : Nat) : List Group := s.fe.groups.filter (fun g => g.bid == bid)

/-- The lanes of a group that have not exited (R29). -/
def Group.live (g : Group) : LaneMask := ~~~ g.exited

/-- A group that holds a live lane. -/
def Group.alive (g : Group) : Bool := !g.ended && g.live != 0

/-- The split that issues (R45, R318): the one the agenda, or the scheduler, has chosen (DESIGN CHOICE, log entry 66). -/
def issuer (s : State) : Option (Group × Split) :=
  match s.cur with
  | some (gid, i) => s.split? gid i
  | none => none

/-! ## Register numbers (R18 to R25) -/

/-- The home of a uniform register number 96..125: the supervisor bank in supervisor mode for 118..125 (R25) (DEDUCED, log entry 12). -/
def uniHome (mode : Bool) (n : Nat) : RegDest :=
  if mode && 118 ≤ n then .sup (n - 118) else .uni (n - 96)

/-- The value of register number `n` in lane `l` (R18, R24). `zero` and an unnamed number read 0 (DEDUCED, log entry 8; DEDUCED, log entry 12). -/
def readReg (g : Group) (n l : Nat) : Word :=
  if n < 96 then sget g.v (32 * n + l)
  else if n < 126 then
    if g.mode && 118 ≤ n then sget g.k (n - 118) else sget g.s (n - 96)
  else 0

/-- The value of a source in lane `l`. -/
def srcVal (g : Group) (a : Src) (l : Nat) : Word :=
  match a with
  | .reg r => readReg g r.toNat l
  | .lit w => w

/-- The value of a 64-bit source in lane `l` (R23): a pair, 0 for `zero`, the literal sign-extended. -/
def srcVal64 (g : Group) (a : Src) (l : Nat) : DWord :=
  match a with
  | .reg r =>
    if r.toNat = 126 then 0
    else readReg g (r.toNat + 1) l ++ readReg g r.toNat l
  | .lit w => w.signExtend 64

/-- Write a vector register in one lane. -/
def Group.setV (g : Group) (r l : Nat) (w : Word) : Group := { g with v := sset g.v (32 * r + l) w }

/-- Write register number `n` in lane `l`: a vector register's lane, a uniform register, or nothing for `zero` (R18). -/
def writeReg (g : Group) (n l : Nat) (w : Word) : Group :=
  if n < 96 then { g with v := sset g.v (32 * n + l) w }
  else if n < 126 then
    if g.mode && 118 ≤ n then { g with k := sset g.k (n - 118) w } else { g with s := sset g.s (n - 96) w }
  else g

/-- Write register number `n` from a value for each lane of a mask. -/
def writeLanes (g : Group) (n : Nat) (m : LaneMask) (f : Nat → Word) : Group :=
  (lanesOf m).foldl (fun g l => writeReg g n l (f l)) g

/-- Write a value of an outstanding result. -/
def writeDest (g : Group) (d : RegDest) (w : Word) : Group :=
  match d with
  | .vec r l => { g with v := sset g.v (32 * r + l) w }
  | .lanes r m => { g with v := (lanesOf m).foldl (fun v l => sset v (32 * r + l) w) g.v }
  | .uni i => { g with s := sset g.s i w }
  | .sup i => { g with k := sset g.k i w }

/-- OR exception flags into a lane's FFLAGS (R149). -/
def orFlags (g : Group) (l : Nat) (f : BitVec 5) : Group := { g with fflags := sset g.fflags l (sget g.fflags l ||| f) }

/-- The lanes of predicate `i`: p7 is 1 in every lane (R22). -/
def readPred (g : Group) (i : Nat) : LaneMask := if i < 7 then sget g.p i else BitVec.allOnes 32

/-- Write the lanes `m` of predicate `i`; p7 discards (R22). -/
def writePred (g : Group) (i : Nat) (m val : LaneMask) : Group :=
  if i < 7 then { g with p := sset g.p i ((sget g.p i &&& ~~~ m) ||| (val &&& m)) } else g

/-- The numbers of the vector registers that exist: below the group's count (R19). -/
def regExists (g : Group) (n : Nat) : Bool := n ≥ 96 || n < g.count

/-- A source that may be read: its register exists (R19). -/
def srcOk (g : Group) (a : Src) : Bool :=
  match a with
  | .reg r => regExists g r.toNat
  | .lit _ => true

/-- A 64-bit source that may be read: an even pair that exists, zero or lit (R19, R23). -/
def src64Ok (g : Group) (a : Src) : Bool :=
  match a with
  | .reg r => r.toNat == 126 || (r.toNat % 2 == 0 && r.toNat < 126 && regExists g (r.toNat + 1))
  | .lit _ => true

/-- A lane instruction's destination: an existing vector register or zero (R19, R24, R62). -/
def laneDstOk (g : Group) (d : RegNum) : Bool := (d.toNat < 96 && regExists g d.toNat) || d.toNat == 126

/-- A lane instruction's 64-bit destination. -/
def laneDst64Ok (g : Group) (d : RegNum) : Bool :=
  (d.toNat < 96 && d.toNat % 2 == 0 && regExists g (d.toNat + 1)) || d.toNat == 126

/-- A uniform instruction's destination: any existing register, or zero (R19, R24, R62). -/
def uniDstOk (g : Group) (d : RegNum) : Bool := d.toNat != 127 && regExists g d.toNat

/-- A uniform instruction's 64-bit destination (R23). -/
def uniDst64Ok (g : Group) (d : RegNum) : Bool :=
  d.toNat == 126 || (d.toNat % 2 == 0 && d.toNat < 126 && regExists g (d.toNat + 1))

/-- Write a uniform instruction's result: every active lane of a vector register (R24). -/
def writeUni (g : Group) (p : Split) (d : RegNum) (w : Word) : Group :=
  if d.toNat < 96 then writeLanes g d.toNat p.active (fun _ => w) else writeReg g d.toNat 0 w

/-- Where a uniform instruction's outstanding word goes: every active lane of a vector register, a uniform register, or
nowhere for zero (R24, R25). -/
def uniDests (g : Group) (p : Split) (n : Nat) : List RegDest :=
  if n < 96 then [.lanes n p.active] else if n < 126 then [uniHome g.mode n] else []

/-- Write a uniform instruction's 64-bit result; zero discards it. -/
def writeUni64 (g : Group) (p : Split) (d : RegNum) (w : DWord) : Group :=
  if d.toNat == 126 then g
  else writeUni (writeUni g p d (w.setWidth 32)) p (d + 1) ((w >>> 32).setWidth 32)

/-- A uniform instruction's source: the lowest active lane of a vector register (R24). -/
def uniVal (g : Group) (p : Split) (a : Src) : Word := srcVal g a (lowest p.active)

def uniVal64 (g : Group) (p : Split) (a : Src) : DWord := srcVal64 g a (lowest p.active)

/-! ## Records and their reset values -/

/-- A queue at its reset values (R299) (DESIGN CHOICE, log entry 3). -/
def Queue.atReset (q : Nat) : Queue :=
  { q, assigned := false, asid := 0, tenancy := 0, part := 63, fn := 0, base := 0, size := 0, prio := 1, tail := 0,
    head := 0, evBase := 0, evSize := 0, evHead := 0, enable := false, halt := false, cause := 0, errOff := 0, errSeq := 0,
    evTail := 0, nextSeq := 0, lastLaunch := none, raftCount := 0x8000000000000000 }

def State.queue (s : State) (q : Nat) : Queue := findD (fun x => x.q == q) (Queue.atReset q) s.fe.queues

def State.mapQueue (s : State) (q : Nat) (f : Queue → Queue) : State :=
  { s with fe := { s.fe with queues := updOrAdd (fun x => x.q == q) (Queue.atReset q) f s.fe.queues } }

/-- A control window at its reset values (R342). -/
def Window.atReset (fn : Nat) : Window :=
  { fn, launch := 0, block := 0, group := 0, split := 0, busy := false, status := 0,
    bpaddr := List.replicate 4 0, bpen := List.replicate 4 false, waiting := [], stops := [] }

def State.window (s : State) (fn : Nat) : Window := findD (fun x => x.fn == fn) (Window.atReset fn) s.sys.windows

def State.mapWindow (s : State) (fn : Nat) (f : Window → Window) : State :=
  { s with sys := { s.sys with windows := updOrAdd (fun x => x.fn == fn) (Window.atReset fn) f s.sys.windows } }

/-- A ring at its reset values (R382) (DESIGN CHOICE, log entry 3). -/
def Ring.atReset (fn r : Nat) : Ring :=
  { fn, r, base := 0, size := 0, enable := false, head := 0, tail := 0, lost := 0 }

def State.ring (s : State) (fn r : Nat) : Ring := findD (fun x => x.fn == fn && x.r == r) (Ring.atReset fn r) s.sys.rings

def State.mapRing (s : State) (fn r : Nat) (f : Ring → Ring) : State :=
  { s with sys := { s.sys with rings := updOrAdd (fun x => x.fn == fn && x.r == r) (Ring.atReset fn r) f s.sys.rings } }

/-- A quarter at its reset values (R390). -/
def Quarter.atReset (q : Nat) : Quarter :=
  { q, part := 63, lent := 63, pend := false, newPart := 63, newLent := 63, graceEnd := none }

def State.quarter (s : State) (q : Nat) : Quarter := findD (fun x => x.q == q) (Quarter.atReset q) s.sys.quarters

def State.mapQuarter (s : State) (q : Nat) (f : Quarter → Quarter) : State :=
  { s with sys := { s.sys with quarters := updOrAdd (fun x => x.q == q) (Quarter.atReset q) f s.sys.quarters } }

/-- A partition at its reset values (R391) (DESIGN CHOICE, log entry 17). -/
def Partition.atReset (p : Nat) : Partition :=
  { p, tens := List.replicate 8 0xFF, slice := 24, grace := 200, tvec := 0, saveBase := 0, imageDigest := 0, lastQueue := 0,
    serving := 0, counted := 0 }

def State.partition (s : State) (p : Nat) : Partition := findD (fun x => x.p == p) (Partition.atReset p) s.sys.parts

def State.mapPartition (s : State) (p : Nat) (f : Partition → Partition) : State :=
  { s with sys := { s.sys with parts := updOrAdd (fun x => x.p == p) (Partition.atReset p) f s.sys.parts } }

/-- A counter at its reset values (R392). -/
def Counter.atReset (fn i : Nat) : Counter :=
  { fn, i, event := 0, en := false, tensel := 0, all := false, value := 0 }

def State.mapCounter (s : State) (fn i : Nat) (f : Counter → Counter) : State :=
  { s with sys :=
    { s.sys with counters := updOrAdd (fun x => x.fn == fn && x.i == i) (Counter.atReset fn i) f s.sys.counters } }

/-- A tenancy at its reset values (R395, R400, R409) (DESIGN CHOICE, log entry 21). -/
def Tenancy.atReset (t : Nat) : Tenancy :=
  { t, cap := 255, floor := 3, weight := 1, lseq := 0, slot := none, hseq := 0, exported := none, imported := none,
    committed := false, confirmed := false }

def State.tenancy (s : State) (t : Nat) : Tenancy := findD (fun x => x.t == t) (Tenancy.atReset t) s.sys.tenancies

def State.mapTenancy (s : State) (t : Nat) (f : Tenancy → Tenancy) : State :=
  { s with sys := { s.sys with tenancies := updOrAdd (fun x => x.t == t) (Tenancy.atReset t) f s.sys.tenancies } }

/-- A latch at its reset values (R396). -/
def Latch.atReset (core : Nat) : Latch := { core, latch := 0xFF, next := 0xFF, lpend := false, again := false }

def State.latch (s : State) (c : Nat) : Latch := findD (fun x => x.core == c) (Latch.atReset c) s.sys.latches

def State.mapLatch (s : State) (c : Nat) (f : Latch → Latch) : State :=
  { s with sys := { s.sys with latches := updOrAdd (fun x => x.core == c) (Latch.atReset c) f s.sys.latches } }

/-- A key slot at its reset values (R400). -/
def KeySlot.atReset (slot : Nat) : KeySlot := { slot, loaded := false, owner := 0xFF, key := 0 }

def State.slot (s : State) (n : Nat) : KeySlot := findD (fun x => x.slot == n) (KeySlot.atReset n) s.sys.slots

def State.mapSlot (s : State) (n : Nat) (f : KeySlot → KeySlot) : State :=
  { s with sys := { s.sys with slots := updOrAdd (fun x => x.slot == n) (KeySlot.atReset n) f s.sys.slots } }

/-- A responder at its reset values (R403). -/
def Responder.atReset (fn : Nat) : Responder :=
  { fn, tenancy := 255, st := .idle, transcript := [], opening := none, sessions := [], busy := false, answer := [] }

def State.responder (s : State) (fn : Nat) : Responder := findD (fun x => x.fn == fn) (Responder.atReset fn) s.sys.responders

def State.mapResponder (s : State) (fn : Nat) (f : Responder → Responder) : State :=
  { s with sys := { s.sys with responders := updOrAdd (fun x => x.fn == fn) (Responder.atReset fn) f s.sys.responders } }

/-- An island at its reset values (R413). -/
def Island.atReset (i : Nat) : Island := { i, on := false, stopped := false, ratio := 0 }

def State.island (s : State) (i : Nat) : Island := findD (fun x => x.i == i) (Island.atReset i) s.sys.islands

def State.mapIsland (s : State) (i : Nat) (f : Island → Island) : State :=
  { s with sys := { s.sys with islands := updOrAdd (fun x => x.i == i) (Island.atReset i) f s.sys.islands } }

/-- The core island, or the matrix island, of a cluster is in thermal stop (R413, R416) (DEDUCED, log entry 68). -/
def coreStopped (s : State) (cluster : Nat) : Bool := (s.island (2 * cluster)).stopped

def matrixStopped (s : State) (cluster : Nat) : Bool := (s.island (2 * cluster + 1)).stopped

/-- A split at an entry address, with every lane active (R26) (DESIGN CHOICE, log entry 3). -/
def freshSplit (pc : Pc) (fmt : Word) (order : Nat) : Split :=
  { idx := 0, pc, active := BitVec.allOnes 32, fmt, sig := 0, outst := 0, st := .ready, depth := 0,
    stack := List.replicate 16 StackEntry.zero, fmask := 0, faddr := [], kept := 0, keptPc := 0, park := .none, next := 0,
    nextSig := 0, nextEbb := false, gwct := 0, hold := 0, phase := 0, appends := none, buffer := [], past := [], storeErrs := [], abort := none, keptAbort := none,
    echoTrap := none, frozen := false, stopReq := false, stepOne := false, stepEnd := false, trapStep := false, stepDue := false, tagWait := none, order, low := (0, 0),
    scClu := 0, scDev := 0 }

/-- A tag at its reset values (R235). -/
def Tag.atReset (cluster p : Nat) : Tag :=
  { cluster, p, st := .free, owner := 0, fuse := .q, member := false, afmt := 0, bfmt := 0, acc := 0, weight := 0, queue := [],
    latched := [], inflight := [], chunk := [], flags := 0, void := false, vk := 0, vcause := 0, vcount := 0, deficit := 0,
    bank := [], pins := [], thawing := false }

def State.tag (s : State) (cluster p : Nat) : Tag :=
  findD (fun x => x.cluster == cluster && x.p == p) (Tag.atReset cluster p) s.en.tags

def State.mapTag (s : State) (cluster p : Nat) (f : Tag → Tag) : State :=
  { s with en :=
    { s.en with tags := updOrAdd (fun x => x.cluster == cluster && x.p == p) (Tag.atReset cluster p) f s.en.tags } }

/-- A pool at its mode after reset: a scratchpad pool with no allocation (DESIGN CHOICE, log entry 14). -/
def Pool.atReset (cluster pool : Nat) : Pool :=
  { cluster, pool, mode := .scratch, width := 4, depth := 16, life := 1, holder := none, entries := [] }

def State.pool (s : State) (cluster p : Nat) : Pool :=
  findD (fun x => x.cluster == cluster && x.pool == p) (Pool.atReset cluster p) s.mm.pools

def State.mapPool (s : State) (cluster p : Nat) (f : Pool → Pool) : State :=
  { s with mm :=
    { s.mm with pools := updOrAdd (fun x => x.cluster == cluster && x.pool == p) (Pool.atReset cluster p) f s.mm.pools } }

/-! ## Where things are -/

/-- The launch of a block, and the block of a group. -/
def State.blockOf (s : State) (g : Group) : Option Block := s.block? g.bid

/-- What an access needs to know of the party that makes it: cluster, core, ASID, tenancy, view, partition, block, the split that stores, and the marks
before which a copy does not serve its loads (R274). -/
structure Party where
  cluster : Nat
  core : Nat
  asid : Nat
  tenancy : Nat
  view : Nat
  part : Nat
  bid : Nat
  writer : Option (Nat × Nat) := none
  markClu : Nat := 0
  markDev : Nat := 0
  /-- 3 for the tile fetch unit, 4 for the request engine: the ACTION of its aborts (R379). -/
  engine : Nat := 0
deriving DecidableEq, Repr

/-- The site of a cluster, 24 to a site (R2); 96 + i stands for the front end of site i. -/
def siteOf (cluster : Nat) : Nat := if cluster < 96 then cluster / 24 else cluster - 96

/-- A block's launch's queue. -/
def State.queueOfBlock (s : State) (b : Block) : Queue :=
  match s.launch? b.lid with
  | some l => s.queue l.q
  | none => Queue.atReset 512

/-- The party of a block. -/
def State.partyOf (s : State) (b : Block) : Party :=
  let q := s.queueOfBlock b
  { cluster := b.cluster, core := b.core, asid := q.asid, tenancy := q.tenancy, view := b.view, part := q.part, bid := b.bid }

/-- The party of a group; a group with no block is a party of no ASID. -/
def State.party (s : State) (g : Group) : Party :=
  match s.block? g.bid with
  | some b => s.partyOf b
  | none => { cluster := 0, core := 0, asid := 4096, tenancy := 255, view := 0, part := 63, bid := 0 }

/-- The partition a quarter serves: its borrower while it is lent (R320, R390). -/
def Quarter.serves (q : Quarter) : Nat := if q.lent == 63 then q.part.toNat else q.lent.toNat

/-- The launch mode of a block's kernel (R92): 0 normal, 1 resilient, 2 atomic. -/
def State.modeOf (s : State) (b : Block) : BitVec 2 :=
  match s.launch? b.lid with
  | some l => l.kernel.mode
  | none => 0

/-! ## Counters (R392, R393) -/

/-- Count `n` events of a code for a tenancy: a function's counter takes the events of the tenancy it serves (its
responder's), the PF's those of TENSEL, or all (DESIGN CHOICE, log entry 22). -/
def State.count (s : State) (code : Byte) (tenancy n : Nat) : State :=
  { s with sys :=
    { s.sys with counters := s.sys.counters.map (fun c =>
        if c.en && c.event == code &&
            (if c.fn == 0 then c.all || c.tensel.toNat == tenancy else (s.responder c.fn).tenancy == tenancy) then
          { c with value := c.value + BitVec.ofNat 64 n }
        else c) } }

end Sys2Proof.Machine
end

