-- ==== Sys2Proof/Machine/Registers.lean ====
section
/-! DEFINITION. What a read of a function's BAR0 returns: the registers as 15_scheduling.md R299, 19 R342, 21 R367, 23 R381 to R395, 24 R396,
R400 and 25 R410 to R413 lay them out. A reserved bit, a reserved offset and a register that only writes read 0. -/

namespace Sys2Proof.Machine

/-- A value of fields: each its lowest bit and its value. -/
def bits (l : List (Nat × Nat)) : DWord := BitVec.ofNat 64 (l.foldl (fun a x => a + 2 ^ x.1 * x.2) 0)

/-- A boolean field. -/
def bit (b : Bool) : Nat := b.toNat

def Stage.code : Stage → Nat
  | .reset => 0
  | .rom => 1
  | .firmware => 2
  | .training => 3
  | .ready => 4
  | .failed => 5

/-- The pattern that stands for a register before boot is complete (R410). -/
def busyPattern : DWord := 0xFFFFFFFFFFFFFFF0

/-- The identity and status registers (R411). -/
def readIdentity (s : State) (off : Nat) : DWord :=
  match off with
  | 0x00 => bits [(0, 0x4D340384), (32, Config.stepping.toNat)]
  | 0x08 => Config.serial
  | 0x10 => bits [(0, s.sys.stage.code), (3, s.sys.failCode.toNat), (11, bit s.sys.throt), (12, bit !s.sys.stops.isEmpty)]
  | 0x18 => bits [(0, s.sys.pnow.toNat), (16, s.sys.plimit.toNat)]
  | _ => 0

/-- An island's register (R413). -/
def readIsland (s : State) (i : Nat) : DWord :=
  let x := s.island i
  bits [(0, bit x.on), (1, bit x.stopped), (2, x.ratio.toNat)]

/-- A queue's window (R299). -/
def readQueue (s : State) (q off : Nat) : DWord :=
  let x := s.queue q
  match off with
  | 0x00 => x.base
  | 0x08 => bits [(0, x.size.toNat), (32, x.prio.toNat)]
  | 0x10 => bits [(0, x.tail.toNat)]
  | 0x18 => bits [(0, x.head.toNat)]
  | 0x20 => x.evBase
  | 0x28 => bits [(0, x.evSize.toNat), (32, x.evHead.toNat)]
  | 0x30 => bits [(0, bit x.enable), (1, bit x.halt), (2, x.cause.toNat), (8, x.errOff.toNat)]
  | 0x38 => x.errSeq
  | 0x40 => bits [(0, x.evTail.toNat)]
  | 0x48 => x.nextSeq
  | _ => 0

/-- A ring's register block (R382). -/
def readRing (s : State) (fn r off : Nat) : DWord :=
  let x := s.ring fn r
  match off with
  | 0x00 => x.base
  | 0x08 => bits [(0, x.size.toNat), (32, bit x.enable)]
  | 0x10 => bits [(0, x.head.toNat)]
  | 0x18 => bits [(0, x.tail.toNat)]
  | 0x20 => x.lost
  | _ => 0

/-- The control window (R342). COP, KEEP and STOPBLK only write. BUSY is 1 also while a step has not ended (R359). -/
def readWindow (s : State) (fn off : Nat) : DWord :=
  let w := s.window fn
  let stepping := s.fe.groups.any (fun g => g.splits.any (fun q => q.stepOne) && (((s.block? g.bid).map (fun b => (s.queueOfBlock b).fn)).getD 512 == fn))
  match off with
  | 0x00 => w.launch
  | 0x08 => bits [(0, w.block.toNat), (32, w.group.toNat), (37, w.split.toNat)]
  | 0x18 => bits [(0, bit (w.busy || stepping)), (1, w.status.toNat)]
  | _ =>
    let n := (off - 0x20) / 8
    if 0x20 ≤ off ∧ off < 0x40 then bits [(0, (w.bpaddr.getD n 0).toNat), (63, bit (w.bpen.getD n false))] else 0

/-- A counter (R392). -/
def readCounter (s : State) (fn i off : Nat) : DWord :=
  let c := findD (fun (x : Counter) => x.fn == fn && x.i == i) (Counter.atReset fn i) s.sys.counters
  match off with
  | 0x0 => bits [(0, c.event.toNat), (8, bit c.en), (9, c.tensel.toNat), (17, bit c.all)]
  | _ => c.value

/-- Four sensors of a site (R392). -/
def readTemp (s : State) (n : Nat) : DWord := bits ((List.range 4).map (fun k => (16 * k, (s.sys.sensors.getD (4 * n + k) 0xFFFF).toNat)))

/-- A spill area (R367). -/
def readSpill (s : State) (site off : Nat) : DWord :=
  match off with
  | 0x0 => s.sys.viewBase.getD site 0
  | _ =>
    bits [(0, (s.sys.viewSize.getD site 0).toNat),
          (32, (s.mm.sectors.filter (fun x => 64 * x.pa / 0x1800000000 == site)).length)]

def readQuarter (s : State) (q : Nat) : DWord :=
  let x := s.quarter q
  bits [(0, x.part.toNat), (6, x.lent.toNat), (12, bit x.pend)]

def readPartition (s : State) (p off : Nat) : DWord :=
  let x := s.partition p
  match off with
  | 0x0 => bits ((List.range 8).map (fun k => (8 * k, (x.tens.getD k 0xFF).toNat)))
  | _ => bits [(0, x.slice.toNat), (6, x.grace.toNat)]

def readRate (s : State) (t : Nat) : DWord :=
  let x := s.tenancy t
  bits [(0, x.cap.toNat), (8, x.floor.toNat), (16, x.weight.toNat)]

def readLatch (s : State) (c : Nat) : DWord :=
  let x := s.latch c
  bits [(0, x.latch.toNat), (8, x.next.toNat), (16, bit x.lpend)]

def readSlot (s : State) (n : Nat) : DWord :=
  let x := s.slot n
  bits [(0, bit x.loaded), (1, x.owner.toNat)]

/-- A function sees a queue's window: the physical function every one, a virtual function its own (R298, R381). -/
def seesQueue (s : State) (fn q : Nat) : Bool := decide (q < 512) && (fn == 0 || (s.queue q).fn == fn)

/-- The 8 bytes of BAR0 at an offset that is a multiple of 8, once boot is complete (DEDUCED, log entry 54). -/
def readBar (s : State) (fn off : Nat) : DWord :=
  let pf := fn == 0
  let at_ (base : Nat) : Nat := off - base
  if off < 0x20 then readIdentity s off
  else if 0x1000 ≤ off ∧ off < 0x1800 then if pf then readIsland s (at_ 0x1000 / 8) else 0
  else if 0x10000 ≤ off ∧ off < 0x20000 then
    let q := at_ 0x10000 / 128
    if seesQueue s fn q then readQueue s q (off % 128) else 0
  else if 0x20000 ≤ off ∧ off < 0x20100 then
    let r := at_ 0x20000 / 64
    if pf || r == 3 then readRing s fn r (off % 64) else 0
  else if off = 0x20100 then if pf then s.sys.frva else 0
  else if 0x40000 ≤ off ∧ off < 0x40040 then readWindow s fn (at_ 0x40000)
  else if 0x50000 ≤ off ∧ off < 0x50100 then readCounter s fn (at_ 0x50000 / 16) (off % 16)
  else if 0x50800 ≤ off ∧ off < 0x50880 then if pf then readTemp s (at_ 0x50800 / 8) else 0
  else if !pf then 0
  else if 0x60000 ≤ off ∧ off < 0x60040 then readSpill s (at_ 0x60000 / 16) (off % 16)
  else if 0x70000 ≤ off ∧ off < 0x70C00 then readQuarter s (at_ 0x70000 / 8)
  else if 0x71000 ≤ off ∧ off < 0x713F0 then readPartition s (at_ 0x71000 / 16) (off % 16)
  else if 0x72000 ≤ off ∧ off < 0x727F8 then readRate s (at_ 0x72000 / 8)
  else if 0x73000 ≤ off ∧ off < 0x73C00 then readLatch s (at_ 0x73000 / 8)
  else if off = 0x74000 then bits [(0, bit s.sys.expEn)] + s.sys.expBase
  else if 0x75000 ≤ off ∧ off < 0x75200 then readSlot s (at_ 0x75000 / 8)
  else if 0x76000 ≤ off ∧ off < 0x767F8 then (s.tenancy (at_ 0x76000 / 8)).lseq
  else 0

/-- An access to BAR0 is of 4 or 8 bytes and naturally aligned (R381) (DEDUCED, log entry 54). -/
def barAligned (off n : Nat) : Bool := (n == 4 || n == 8) && off % n == 0

/-- A read of a function's BAR0 of 4 or 8 bytes: until boot is complete every offset but the first 0x20 reads the pattern (R410). -/
def readRegister (s : State) (fn off n : Nat) : List Byte :=
  let v := if s.sys.stage != .ready && decide (0x20 ≤ off) then busyPattern else readBar s fn (off / 8 * 8)
  (List.range n).map (fun i => BitVec.ofNat 8 (v.toNat / 256 ^ (off % 8 + i)))

/-- The function and the offset that a host physical address reaches, where it lies in a BAR of the device's own (R381). -/
def barAt (s : State) (pa : Nat) : Option (Nat × Nat) :=
  (s.sys.bars.find? (fun x => decide (2 ^ 51 + x.2 ≤ pa) && decide (pa < 2 ^ 51 + x.2 + 0x80000))).map (fun x => (x.1, pa - 2 ^ 51 - x.2))

end Sys2Proof.Machine
end

