-- ==== Sys2Proof/Machine/Memory.lean ====
section
/-! DEFINITION. Global memory at its home: bytes, physical addresses, DRAM under tenancy keys, view lookup, and who asks
(11, 12, 13, 21, 23, 24). -/

namespace Sys2Proof.Machine

/-! ## Sectors -/

/-- Bytes `off .. off + n - 1` of a sector. -/
def sectorBytes (d : BitVec 512) (off n : Nat) : List Byte :=
  (List.range n).map (fun i => (d >>> (8 * (off + i))).setWidth 8)

/-- Replace the bytes of a sector from `off`. -/
def putSector (d : BitVec 512) (off : Nat) (bs : List Byte) : BitVec 512 :=
  let m : BitVec 512 := ((1#512 <<< (8 * bs.length)) - 1) <<< (8 * off)
  (d &&& ~~~ m) ||| (BitVec.ofNat 512 (leNat bs) <<< (8 * off))

/-- The mask of `n` bytes from `off`. -/
def byteMask (off n : Nat) : BitVec 64 := ((1#65 <<< n) - 1).setWidth 64 <<< off

/-- The bytes of `new` where the mask has a 1, of `old` elsewhere. -/
def mergeSector (old new : BitVec 512) (m : BitVec 64) : BitVec 512 :=
  (List.range 64).foldl (fun d i =>
    if m.getLsbD i then putSector d i (sectorBytes new i 1) else d) old

/-! ## Physical addresses (R283) -/

def dramEnd : Nat := 0x6000000000

def isDram (pa : Nat) : Bool := pa < dramEnd

def isRemote (pa : Nat) : Bool := 2 ^ 48 ≤ pa && pa < 2 ^ 49

def isHost (pa : Nat) : Bool := 2 ^ 51 ≤ pa && pa < 2 ^ 52

/-- The window of this device's own DEVID is its own DRAM (R386). -/
def localOf (s : State) (pa : Nat) : Nat :=
  if isRemote pa && (pa - 2 ^ 48) / 2 ^ 42 == s.sys.devId then (pa - 2 ^ 48) % 2 ^ 42 else pa

/-- The home site of a DRAM address. -/
def homeSite (pa : Nat) : Nat := pa / 0x1800000000

/-! ## Keys (R399) -/

/-- The tenancy number the device's own structures are kept under (DESIGN CHOICE, log entry 70). -/
def deviceTenancy : Nat := 256

/-- The key under which a tenancy's DRAM accesses run; `none` where it maps to no loaded slot (DESIGN CHOICE, log entry 70). -/
def keyOf (s : State) (t : Nat) : Option Nat :=
  if t = deviceTenancy then some (s.slot 0).key.toNat
  else
    match (s.tenancy t).slot with
    | some n => if (s.slot n).loaded then some (s.slot n).key.toNat else none
    | none => none

/-- The key a sector was written under, where it is known. -/
def sectorKey (s : State) (sec : Nat) : Option Nat := (s.mm.keyed.find? (fun x => x.1 == sec)).map (·.2)

/-- What DRAM holds of a sector that was written under a key: ciphertext (R398). `mm.mem` keeps the plaintext, beside the key in `mm.keyed`. -/
def dramCipher (s : State) (key sec : Nat) : List Byte := xtsEncrypt (leBytes key 64) sec (sgetMany s.mm.mem (64 * sec) 64)

/-- A DRAM byte read under a key: plain where the sector was written under it, else what its ciphertext decrypts to (R398, R399) (DESIGN CHOICE,
log entry 2; PRESUMED, log entry 85). -/
def dramByte (s : State) (key pa : Nat) : Byte :=
  match sectorKey s (pa / 64) with
  | some k => if k = key then sget s.mm.mem pa else (xtsDecrypt (leBytes key 64) (pa / 64) (dramCipher s k (pa / 64))).getD (pa % 64) 0
  | none => sget s.mm.mem pa

def State.setMem (s : State) (m : List Host.Cell) : State := { s with mm := { s.mm with mem := m } }

/-- A sector of DRAM reads no data: an uncorrectable error, or lost (R372, R373). -/
def sectorFails (s : State) (pa : Nat) : Bool := s.mm.bad.contains (pa / 64) || s.mm.lost.contains (pa / 64)

/-- The next access to the sector ends in an abort: its flit has failed for the ninth time (R371). -/
def flitFails (s : State) (pa : Nat) : Bool := s.mm.flits.any (fun x => x.1 == pa / 64)

/-- Where the bytes of the pools stand among the sectors with errors: after the physical address space (R176). -/
def poolErrors : Nat := 2 ^ 52

/-- The sectors that `n` bytes from `pa` touch. -/
def sectorsOf (pa n : Nat) : List Nat := (List.range ((pa % 64 + n + 63) / 64)).map (fun i => pa / 64 + i)

/-- A read of `n` bytes of the pools meets an uncorrectable error (R176, R371). -/
def poolFails (s : State) (key n : Nat) : Bool := (sectorsOf (poolErrors + key) n).any (fun x => s.mm.bad.contains x)

/-! ## Views (R243, R276) -/

def State.view? (s : State) (v : Nat) : Option View := s.mm.views.find? (fun x => x.id == v)

def State.fork? (s : State) (id : Nat) : Option ForkRecord := s.mm.forks.find? (fun f => f.id == id)

def State.parentView (s : State) (v : Nat) : Nat := ((s.view? v).map (·.parent)).getD 0

/-- The view sector of a view for a physical sector. -/
def State.viewSector? (s : State) (v sec : Nat) : Option ViewSector :=
  s.mm.sectors.find? (fun x => x.view == v && x.pa == sec && !x.dead)

/-- The views from `v` up to, and without, view 0; views are at most 4 deep (R242). -/
def viewChain (s : State) : Nat → Nat → List Nat
  | 0, _ => []
  | f + 1, v => if v = 0 then [] else v :: viewChain s f (s.parentView v)

/-- The view sector that gives a byte to a read in view `v`: the first of the chain that has written it, or that has failed (R276, R373). -/
def viewHolder (s : State) (v pa : Nat) : Option ViewSector :=
  (viewChain s 5 v).findSome? (fun u => (s.viewSector? u (pa / 64)).filter (fun x => x.bad || x.mask.getLsbD (pa % 64)))

/-- The byte a read in view `v` returns where some view of the chain has written it (R276). -/
def viewByte (s : State) (v pa : Nat) : Option Byte := (viewHolder s v pa).bind (fun x => (sectorBytes x.data (pa % 64) 1).head?)

/-- A read of a byte in view `v` meets an uncorrectable error: in the view sector that gives it, else in its committed sector (R368, R372). -/
def byteFails (s : State) (v pa : Nat) : Bool :=
  match viewHolder s v pa with
  | some x => x.bad
  | none => sectorFails s pa

/-- A byte at the home site as a party of a view and tenancy reads it. -/
def homeByte (s : State) (key v pa : Nat) : Byte := (viewByte s v pa).getD (dramByte s key pa)

/-- `n` bytes at the home site; `none` is an abort completion: no key, a failed sector, or a flit that failed (R371, R372, R399). -/
def homeRead (s : State) (t v pa n : Nat) : Option (List Byte) :=
  match keyOf s t with
  | none => none
  | some key =>
    if (List.range n).any (fun i => byteFails s v (pa + i)) || (sectorsOf pa n).any (fun x => flitFails s (64 * x)) then none
    else some ((List.range n).map (fun i => homeByte s key v (pa + i)))

/-- Wake every WAIT that watches a sector and reads it through view `v` (R186) (DEDUCED, log entry 74). -/
def wakeSector (s : State) (v sec : Nat) : State :=
  s.mapGroups (fun g => g.mapSplits (fun p =>
    match p.park with
    | .word x _ dl =>
      if x == sec && (v == 0 || (viewChain s 5 (s.party g).view).contains v) then { p with park := .word x true dl } else p
    | _ => p))

/-- A write to a register of a function's BAR0 wakes the WAITs that watch its sector (R186, R381). -/
def wakeBar (s : State) (fn off : Nat) : State :=
  match s.sys.bars.find? (fun x => x.1 == fn) with
  | some x => wakeSector s 0 ((2 ^ 51 + x.2 + off) / 64)
  | none => s

/-- Write bytes of committed DRAM under a tenancy's key: a sector kept under another key is encrypted again as it reads under this one, outside the
written bytes (R398, R399). A store that covers a lost sector makes it readable (R373). -/
def dramWrite (s : State) (t pa : Nat) (bs : List Byte) : State :=
  match keyOf s t with
  | none => s
  | some key =>
    let secs := sectorsOf pa bs.length
    let mixed := secs.filter (fun x => match sectorKey s x with | some k => k != key | none => false)
    let m0 := mixed.foldl (fun m x => ssetMany m (64 * x) ((List.range 64).map (fun i => dramByte s key (64 * x + i)))) s.mm.mem
    let m1 := ssetMany m0 pa bs
    let covered := secs.filter (fun x => pa ≤ 64 * x && 64 * x + 64 ≤ pa + bs.length)
    let s1 : State :=
      { s with mm :=
        { s.mm with
          mem := m1
          keyed := (s.mm.keyed.filter (fun x => !secs.contains x.1)) ++ secs.map (fun x => (x, key))
          lost := s.mm.lost.filter (fun x => !covered.contains x) } }
    secs.foldl (fun s x => wakeSector s 0 x) s1

/-- Write bytes into a view's sector, recording the widest scope (R243); a write of the whole sector makes a failed one readable (R373). -/
def viewWrite (s : State) (tenancy v va pa : Nat) (bs : List Byte) (sc : Scope) : State :=
  let sec := pa / 64
  let off := pa % 64
  let wider (a b : Scope) : Scope := if a.code.toNat ≤ b.code.toNat then b else a
  let upd (x : ViewSector) : ViewSector :=
    { x with data := putSector x.data off bs, mask := x.mask ||| byteMask off bs.length, scope := wider x.scope sc,
             bad := x.bad && decide (bs.length < 64) }
  let p (x : ViewSector) : Bool := x.view == v && x.pa == sec && !x.dead
  let fresh : ViewSector :=
    { view := v, tenancy, pa := sec, va := va / 64, data := 0, mask := 0, scope := sc, spilled := false, dead := false, bad := false }
  wakeSector { s with mm := { s.mm with sectors := updOrAdd p fresh upd s.mm.sectors } } v sec

/-- The key under which the writers of a view's sector are listed. -/
def writersKey (v sec : Nat) : Nat := sec + 2 ^ 58 * v

/-- The splits whose stores a view's sector holds, each with its scope (R373). -/
def writersOf (s : State) (v sec : Nat) : List (Nat × Nat × Scope) := (s.mm.writers.filter (fun x => x.1 == writersKey v sec)).map (·.2)

/-- The home of a sector holds bytes that splits stored at a scope; a write of the whole sector leaves no other's (R373). -/
def noteWriters (s : State) (v sec : Nat) (whole : Bool) (sc : Scope) (ws : List (Nat × Nat)) : State :=
  if ws.isEmpty then s
  else
    { s with mm :=
      { s.mm with
        writers := s.mm.writers.filter (fun x => x.1 != writersKey v sec || (!whole && !ws.contains (x.2.1, x.2.2.1))) ++
          ws.map (fun w => (writersKey v sec, w.1, w.2, sc)) } }

/-- Write bytes at the home site in a view, or in committed memory for view 0 (DEDUCED, log entry 9). -/
def homeWrite (s : State) (t v va pa : Nat) (bs : List Byte) (sc : Scope) : State :=
  if v = 0 then dramWrite s t pa bs else viewWrite s t v va pa bs sc

/-! ## Small tables, contexts and requesters -/

def lookupD (l : List (Nat × Nat)) (k : Nat) : Nat := ((l.find? (fun x => x.1 == k)).map (·.2)).getD 0

def setKey (l : List (Nat × Nat)) (k v : Nat) : List (Nat × Nat) := (l.filter (fun x => x.1 != k)) ++ [(k, v)]

/-- Two byte ranges overlap. -/
def overlaps (a n b m : Nat) : Bool := decide (a < b + m) && decide (b < a + n)

/-- The 512-byte line of a physical address. -/
def lineOf (pa : Nat) : Nat := pa / 512

def State.context? (s : State) (asid : Nat) : Option Context := s.mm.contexts.find? (fun c => c.asid == asid && !c.retiring)

/-- A sector of a view has failed, as a unit finds (R368, R373, R379). -/
def markBad (s : State) (v sec unit : Nat) : State :=
  { s with mm :=
    { s.mm with
      sectors := s.mm.sectors.map (fun x => if x.view == v && x.pa == sec && !x.dead then { x with bad := true } else x)
      failedIn := setKey s.mm.failedIn (writersKey v sec) unit } }

/-- The writers of a view's sector go to its parent's, with their bytes (R368, R373). -/
def moveWriters (s : State) (v parent sec : Nat) (whole : Bool) : State :=
  let ws := writersOf s v sec
  let stays (x : Nat × Nat × Nat × Scope) : Bool :=
    x.1 != writersKey v sec && (x.1 != writersKey parent sec || (!whole && !ws.any (fun w => w.1 == x.2.1 && w.2.1 == x.2.2.1)))
  { s with mm := { s.mm with writers := s.mm.writers.filter stays ++ ws.map (fun w => (writersKey parent sec, w)) } }

/-- An element of a list that a choice of the model's picks. -/
def chosen {α : Type} (s : State) (l : List α) : Option α := l[Config.victim s.seq % l.length]?

/-- The function that serves a tenancy; the physical function where none does (R384). -/
def functionOf (s : State) (t : Nat) : Nat := ((s.sys.responders.find? (fun r => r.fn != 0 && r.tenancy == t)).map (·.fn)).getD 0

/-- The requester of a host access: the function that serves the party's tenancy, and its context's PASID, for a page (R384). -/
def hostKey (s : State) (P : Party) (pa : Nat) : Nat × Nat × Nat :=
  (functionOf s P.tenancy, ((s.mm.contexts.find? (fun c => c.asid == P.asid)).map (·.pasid)).getD 0, (pa - 2 ^ 51) / 4096)

end Sys2Proof.Machine
end

