-- ==== Sys2Proof/Machine/Records.lean ====
section
/-! DEFINITION. Rings in host memory, error records, and abort completions (21_views_containment_hardware.md R372, R379; 23 R382, R387,
R393; 24 R399). -/

namespace Sys2Proof.Machine

/-! ## Rings (R382) -/

/-- The entry size of a ring. -/
def ringEntry (r : Nat) : Nat := if r = 0 then 32 else if r = 1 then 16 else if r = 2 then 32 else 64

/-- A ring has room for an entry. -/
def ringHasRoom (x : Ring) : Bool :=
  x.enable && x.size != 0 && (x.tail.toNat + ringEntry x.r) % x.size.toNat != x.head.toNat

/-- Write an entry at a ring's tail in host memory and advance it (R382). -/
def ringPush (s : State) (fn r : Nat) (bs : List Byte) : State :=
  let x := s.ring fn r
  let s1 := s.setMem (ssetMany s.mm.mem (2 ^ 51 + x.base.toNat + x.tail.toNat) bs)
  s1.mapRing fn r (fun y => { y with tail := BitVec.ofNat 32 ((y.tail.toNat + ringEntry r) % y.size.toNat) })

/-! ## Records (R379) -/

/-- What an error record says (R379): absent fields are 0, or their own mark of absence. -/
structure ErrInfo where
  unit : Nat
  sev : Nat
  action : Nat
  cause : Nat
  tenancy : Option Nat
  va : Option (Nat × Nat)
  cluster : Nat
  core : Nat
  slot : Nat
  pa : Nat
  launch : DWord
  block : Nat
deriving DecidableEq, Repr

/-- The 64 bytes of a record (DESIGN CHOICE, log entry 20). -/
def errorBytes (s : State) (x : ErrInfo) : List Byte :=
  let v := x.va.getD (0, 0)
  leBytes s.clock 8 ++
  leBytes (x.unit + 2 ^ 4 * x.sev + 2 ^ 6 * x.action + 2 ^ 10 * x.cause + 2 ^ 16 * x.tenancy.getD 0 + 2 ^ 24 * x.tenancy.isSome.toNat +
    2 ^ 25 * x.va.isSome.toNat) 4 ++
  leBytes (siteOf x.cluster + 2 ^ 2 * x.cluster + 2 ^ 9 * x.core + 2 ^ 11 * x.slot) 4 ++
  leBytes (x.pa / 64 * 64) 8 ++ leBytes (v.1 / 64 * 64) 8 ++ leBytes v.2 4 ++ leBytes 1 4 ++ leBytes x.launch.toNat 8 ++
  leBytes x.block 4 ++ leBytes 0 4 ++ leBytes s.sys.rseq.toNat 8

/-- The functions whose tenancy is `t`, and the physical function (R379). -/
def errorFns (s : State) (t : Option Nat) : List Nat :=
  0 :: (match t with
    | some n => ((s.sys.responders.filter (fun r => r.fn != 0 && r.tenancy == n)).map (·.fn))
    | none => [])

/-- Write a record into a function's error ring; a full ring drops it and counts the loss (R382). -/
def pushError (s : State) (fn : Nat) (bs : List Byte) : State :=
  let r := s.ring fn 3
  if !r.enable then s
  else if ringHasRoom r then ringPush s fn 3 bs
  else s.mapRing fn 3 (fun y => { y with lost := y.lost + 1 })

/-- Count a record: an attributed one for its tenancy, any other only where every tenancy is counted (R393). -/
def countRecord (s : State) (code : Byte) (t : Option Nat) : State :=
  match t with
  | some n => s.count code n 1
  | none =>
    { s with sys := { s.sys with counters := s.sys.counters.map (fun c =>
        if c.en && c.event == code && c.fn == 0 && c.all then { c with value := c.value + 1 } else c) } }

/-- Write an error record (R379). -/
def writeError (s : State) (x : ErrInfo) : State :=
  let s1 := (errorFns s x.tenancy).foldl (fun st fn => pushError st fn (errorBytes s x)) s
  let s2 := countRecord s1 (if x.sev = 0 then 0x40 else 0x41) x.tenancy
  { s2 with sys := { s2.sys with rseq := s2.sys.rseq + 1 } }

/-- The action with which an abort completion reaches a party: its queue halts, its block rolls back or is requeued, or it traps (R257,
R260, R372, R399). -/
def abortAction (s : State) (P : Party) : Nat :=
  match s.block? P.bid with
  | none => 5
  | some b =>
    if P.engine = 3 then 3
    else if s.modeOf b == 1 && b.shadow.isSome && b.rollbacks < 3 then 2
    else if s.modeOf b == 2 && !b.committed then 8
    else if P.engine = 4 then 4 else 1

/-- The cluster that a record names for a party: a front end's is the first of its queue's home site (DESIGN CHOICE, log entry 90). -/
def clusterOf (P : Party) : Nat := if P.cluster < 96 then P.cluster else 24 * (P.cluster - 96)

/-- A record about a party's block. -/
def partyError (s : State) (P : Party) (unit action cause pa : Nat) (va : Option (Nat × Nat)) : State :=
  let b? := s.block? P.bid
  writeError s
    { unit, sev := 1, action, cause, tenancy := some P.tenancy, va, cluster := clusterOf P, core := P.core, slot := 0, pa,
      launch := ((b?.bind (fun b => s.launch? b.lid)).map (·.seq)).getD 0, block := (b?.map (·.index.toNat)).getD 0xFFFFFFFF }

/-- The unit at which an access to a sector in view `v` failed: a flit's, the LLC for a lost sector, else the one that found the error (R371 to
R373, R379). -/
def failedUnit (s : State) (v pa : Nat) : Nat :=
  match s.mm.flits.find? (fun x => x.1 == pa / 64) with
  | some x => x.2
  | none =>
    match (viewChain s 5 v).find? (fun u => (s.viewSector? u (pa / 64)).any (·.bad)) with
    | some u => lookupD s.mm.failedIn (writersKey u (pa / 64))
    | none => if s.mm.lost.contains (pa / 64) then 1 else lookupD s.mm.failedIn (pa / 64)

/-- The access whose flit failed has ended: the next one to the sector stands for itself (R371). -/
def clearFlit (s : State) (pa : Nat) : State := { s with mm := { s.mm with flits := s.mm.flits.filter (fun x => x.1 != pa / 64) } }

/-- An abort completion reaches a party, with the virtual address and ASID where they are known: counted, with a record unless it came from
the host (R384, R387, R392, R399). -/
def abortAs (s : State) (P : Party) (pa : Nat) (va : Option (Nat × Nat)) (action : Nat) : State :=
  let s1 := clearFlit (s.count 0x42 P.tenancy 1) pa
  if isHost pa then s1
  else
    let far := isRemote (localOf s pa)
    let keyless := !far && (keyOf s P.tenancy).isNone
    partyError s1 P (if far then 8 else if keyless then 0 else failedUnit s P.view pa) (if keyless then 1 else action) 0x11 (if far then 0 else pa) va

/-- An abort completion of an access at a virtual address. -/
def abortTo (s : State) (P : Party) (pa va action : Nat) : State := abortAs s P pa (some (va, P.asid % 4096)) action

/-- An abort completion of a pool's bytes reaches a party (R176, R371). -/
def poolAbort (s : State) (P : Party) : State :=
  let s1 := s.count 0x42 P.tenancy 1
  partyError s1 P 2 (abortAction s1 P) 0x11 0 none

/-- The record of a block's error. -/
def blockError (s : State) (b : Block) (unit sev action cause pa : Nat) : State :=
  let P := s.partyOf b
  writeError s
    { unit, sev, action, cause, tenancy := some P.tenancy, va := none, cluster := b.cluster, core := b.core, slot := 0, pa,
      launch := ((s.launch? b.lid).map (·.seq)).getD 0, block := b.index.toNat }

end Sys2Proof.Machine
end

