-- ==== Sys2Proof/Machine/Translate.lean ====
section
/-! DEFINITION. Translation of global addresses (13_memories_translation.md R285 to R289), replayable faults and their
records (R293, R385). -/

namespace Sys2Proof.Machine

/-- What an access does: a load, a store or atomic, or an instruction fetch. -/
inductive AccessKind where
  | load | store | fetch
deriving DecidableEq, Repr

/-- A leaf translation: physical address, attribute (0 WB, 1 SC, 2 EXT), write and fetch permission, and the page's size. -/
structure Leaf where
  pa : Nat
  attr : Nat
  w : Bool
  x : Bool
  size : Nat
deriving DecidableEq, Repr

/-- The findings of R287, and `stall`: the page is moving and its translation must wait (R296). -/
inductive Trans where
  | ok (l : Leaf)
  | access | translation | replay | abort | stall
deriving DecidableEq, Repr

/-- Field of a page-table entry. -/
def pteBits (e : DWord) (lo n : Nat) : Nat := (e.toNat / 2 ^ lo) % 2 ^ n

/-- The attributes that R283 allows for a frame. -/
def attrAllowed (pa attr : Nat) : Bool :=
  if isDram pa then attr == 0 || attr == 1 else (isRemote pa || isHost pa) && attr == 2

/-- Bytes mapped by a leaf at a level. -/
def pageSize (level : Nat) : Nat := 2 ^ (12 + 9 * level)

/-- The bits in which the 16 entries of a 64 KiB page must agree: V, LEAF, ATTR, W, X and C64 (R286). -/
def pageBits (e : DWord) : Nat := pteBits e 0 7

/-- The leaf of a 64 KiB page: `entries` are its 16 entries, of which `idx` is the accessed one and `frame` its table. Where the entries
disagree, the accessed 4 KiB is translated by one of them, or not at all (R286) (DESIGN CHOICE, log entry 10). -/
def pageOf16 (entries : List DWord) (frame idx va : Nat) : Trans × Nat :=
  let e := entries.getD (idx % 16) 0
  let pa := pteBits e 12 40 * 4096
  let base := pa - 4096 * (idx % 16)
  let same := entries.mapIdx (fun i y => pteBits y 12 40 * 4096 == base + 4096 * i && pageBits y == pageBits e)
  if same.all id then (.ok ⟨base + va % 65536, pteBits e 2 2, e.getLsbD 4, e.getLsbD 5, 65536⟩, 65536)
  else
    match Config.undefinedPage frame idx with
    | none => (.translation, 0)
    | some n =>
      let y := entries.getD (n % 16) 0
      let f := pteBits y 12 40 * 4096
      let ok := y.getLsbD 0 && y.getLsbD 1 && pteBits y 8 4 == 0 && pteBits y 52 12 == 0 && pteBits y 2 2 != 3 && attrAllowed f (pteBits y 2 2)
      if ok then (.ok ⟨f + va % 4096, pteBits y 2 2, y.getLsbD 4, y.getLsbD 5, 4096⟩, 4096) else (.translation, 0)

/-- The entries of a walk: reads, findings and non-leaf entries to keep (R285, R286). `rd` reads an eight-byte entry at a
physical address, `none` on an abort completion, whose address is given then (DEDUCED, log entry 83). -/
def walkFrom (rd : Nat → Option DWord) (va faultDst : Nat) (priOn : Bool) : Nat → Nat → Trans × Nat × List (Nat × Nat)
  | level, frame =>
    let idx := (va / 2 ^ (12 + 9 * level)) % 512
    match rd (frame + 8 * idx) with
    | none => (.abort, frame + 8 * idx, [])
    | some e =>
      let leaf := e.getLsbD 1
      let pa := pteBits e 12 40 * 4096
      let attr := pteBits e 2 2
      if !e.getLsbD 0 then
        if e.getLsbD 7 && faultDst != 2 && (faultDst != 0 || priOn) then (.replay, 0, []) else (.translation, 0, [])
      else if pteBits e 8 4 != 0 || pteBits e 52 12 != 0 then (.translation, 0, [])
      else
        match level with
        | 0 =>
          if !leaf || attr == 3 || !attrAllowed pa attr then (.translation, 0, [])
          else if e.getLsbD 6 then
            let b := idx / 16 * 16
            let base := pa - 4096 * (idx % 16)
            if pa < 4096 * (idx % 16) || base % 65536 != 0 then (.translation, 0, [])
            else
              let at_ (i : Nat) : Nat := frame + 8 * (b + i)
              match (List.range 16).find? (fun i => (rd (at_ i)).isNone) with
              | some i => (.abort, at_ i, [])
              | none =>
                let r := pageOf16 ((List.range 16).map (fun i => (rd (at_ i)).getD 0)) frame idx va
                (r.1, r.2, [])
          else (.ok ⟨pa + va % 4096, attr, e.getLsbD 4, e.getLsbD 5, 4096⟩, 4096, [])
        | level' + 1 =>
          if leaf then
            if level' = 2 || attr == 3 || e.getLsbD 6 || pa % pageSize (level' + 1) != 0 || !attrAllowed pa attr then
              (.translation, 0, [])
            else (.ok ⟨pa + va % pageSize (level' + 1), attr, e.getLsbD 4, e.getLsbD 5, pageSize (level' + 1)⟩, pageSize (level' + 1), [])
          else if attr != 0 || e.getLsbD 4 || e.getLsbD 5 || e.getLsbD 6 || !isDram pa then (.translation, 0, [])
          else
            let r := walkFrom rd va faultDst priOn level' pa
            (r.1, r.2.1, (level' + 1, pa) :: r.2.2)

/-- The host's ATS denies a translation to the page, and the function's cache holds none (R384) (DESIGN CHOICE, log entry 18). -/
def hostDenied (s : State) (P : Party) (l : Leaf) : Bool :=
  isHost l.pa && s.sys.atsDenied.contains (hostKey s P l.pa) && !s.sys.ats.contains (hostKey s P l.pa)

/-- The permission check of a well-formed leaf (R287, R384). -/
def checkLeaf (s : State) (P : Party) (k : AccessKind) (l : Leaf) : Trans :=
  if hostDenied s P l then .access
  else match k with
  | .load => .ok l
  | .store => if l.w then .ok l else .access
  | .fetch => if l.x && l.attr == 0 then .ok l else .access

/-- A page is moving: it covers the address and its MIGRATE is between steps 1 and 5 (R277, R296) (DEDUCED, log entry 60). -/
def pageMoving (s : State) (asid va : Nat) : Bool :=
  s.mm.commands.any (fun c => c.op == 4 && c.asid == asid && 1 ≤ c.step && c.step < 5 && c.va ≤ va && va < c.va + c.size)

/-- The walk-cache entry that lets a walk start lowest: (level, frame). -/
def walkStart (s : State) (site asid va root : Nat) : Nat × Nat :=
  let hit (level : Nat) : Option Nat :=
    (s.mm.walk.find? (fun x => x.site == site && x.asid == asid && x.level == level && x.va == va / pageSize level)).map (·.frame)
  match hit 1 with
  | some f => (0, f)
  | none =>
    match hit 2 with
    | some f => (1, f)
    | none =>
      match hit 3 with
      | some f => (2, f)
      | none => (3, root)

/-- PRI is on for the function that serves a tenancy (R385). -/
def priOn (s : State) (t : Nat) : Bool := !s.sys.priOff.contains (functionOf s t)

/-- Add an entry to a structure that holds `cap` of those that `mine` names: one of them makes room (R288) (DESIGN CHOICE, log entry 23). -/
def addCapped {α : Type} [BEq α] (s : State) (cap : Nat) (mine : α → Bool) (l : List α) (x : α) : List α :=
  let held := l.filter mine
  if held.length < cap then l ++ [x]
  else
    match chosen s held with
    | some y => l.erase y ++ [x]
    | none => l ++ [x]

/-- Entries of a cluster's TLB, and of a site's walk cache (R288). -/
def tlbSize : Nat := 4096
def walkSize : Nat := 2048

/-- Translate an address for a party (R285 to R288): from the cluster's TLB, or by a walk that fills it. The range test of
R57 is the caller's (DESIGN CHOICE, log entry 23). -/
def translate (s : State) (P : Party) (va : Nat) (k : AccessKind) : State × Trans :=
  match s.mm.tlb.find? (fun x => x.cluster == P.cluster && x.asid == P.asid && x.va ≤ va && va < x.va + x.size) with
  | some x => (s, checkLeaf s P k ⟨x.pa + (va - x.va), x.attr, x.w, x.x, x.size⟩)
  | none =>
    match s.context? P.asid with
    | none => (s, .translation)
    | some c =>
      if pageMoving s P.asid va then (s, .stall)
      else
        let rd (pa : Nat) : Option DWord := (homeRead s c.tenancy 0 pa 8).map (fun bs => BitVec.ofNat 64 (leNat bs))
        let st := walkStart s (siteOf P.cluster) P.asid va c.root
        let r := walkFrom rd va c.faultDst (priOn s c.tenancy) st.1 st.2
        let site := siteOf P.cluster
        let s1 : State :=
          { s with mm :=
            { s.mm with walk := r.2.2.foldl (fun l y => addCapped s walkSize (fun x => x.site == site) l
                { site, asid := P.asid, level := y.1, va := va / pageSize y.1, frame := y.2 }) s.mm.walk } }
        match r.1 with
        | .ok l =>
          let size := r.2.1
          let base := va / size * size
          let e : TlbEntry :=
            { cluster := P.cluster, asid := P.asid, va := base, size, pa := l.pa - va % size, attr := l.attr, w := l.w, x := l.x }
          ({ s1 with mm := { s1.mm with tlb := addCapped s tlbSize (fun x => x.cluster == P.cluster) s1.mm.tlb e } }, checkLeaf s P k l)
        | .abort => (abortTo s1 P r.2.1 va (abortAction s1 P), .abort)
        | t => (s1, t)

/-- The access raises ACCESS by R57: an address of more than 48 bits. -/
def addrInRange (va : Nat) : Bool := va < 2 ^ 48

/-! ## Replayable faults (R293) -/

/-- The record of a replayable fault (R293). -/
def faultRecord (s : State) (va asid : Nat) (wr fetch cruise : Bool) (source cluster core group : Nat) (launch : DWord) :
    List Byte :=
  leBytes va 8 ++
  leBytes (asid + 2 ^ 12 * wr.toNat + 2 ^ 13 * fetch.toNat + 2 ^ 14 * cruise.toNat + 2 ^ 15 * source) 4 ++
  leBytes (cluster + 2 ^ 7 * core + 2 ^ 9 * group) 4 ++
  leBytes launch.toNat 8 ++ leBytes s.clock 8

/-- The page requests that are out (R385). -/
def requestsOut (s : State) : Nat := (s.mm.faults.filter (fun f => f.pri.isSome && f.posted)).length

/-- Post a device-fault-queue record, or send a page request; what finds the ring full, or the allocation used up, waits in hardware (R293,
R385). -/
def postFault (s : State) (f : PageFault) : State :=
  if f.pri.isSome then { s with mm := { s.mm with faults := s.mm.faults ++ [{ f with posted := decide (requestsOut s < s.sys.prAlloc) }] } }
  else if ringHasRoom (s.ring 0 2) then
    let s1 := ringPush s 0 2 f.record
    { s1 with mm := { s1.mm with faults := s1.mm.faults ++ [{ f with posted := true }] } }
  else { s with mm := { s.mm with faults := s.mm.faults ++ [{ f with posted := false }] } }

/-- Send the page requests that wait, in order, while the allocation allows (R385). -/
def sendRequests : Nat → State → State
  | 0, s => s
  | n + 1, s =>
    if s.sys.prAlloc ≤ requestsOut s then s
    else
      match s.mm.faults.findIdx? (fun f => f.pri.isSome && !f.posted) with
      | none => s
      | some i => sendRequests n { s with mm := { s.mm with faults := s.mm.faults.modify i (fun f => { f with posted := true }) } }

/-- The message of a fault that goes to the host as a page request: Read and Write from WR, Execute from FETCH, Last set (R385). -/
def pageRequest (s : State) (P : Party) (page : Nat) (wr fetch : Bool) : Option PageRequest :=
  match s.context? P.asid with
  | some c =>
    if c.faultDst = 0 then
      some { fn := functionOf s P.tenancy, pasid := c.pasid, page, read := !wr, write := wr, execute := fetch, last := true }
    else none
  | none => none

/-- Deliver a replayable fault by its context's FAULTDST, once for a page while it is outstanding (R293, R385). -/
def deliverFault (s : State) (P : Party) (va : Nat) (wr fetch cruise : Bool) (source group : Nat) (launch : DWord) : State :=
  let page := va / 4096 * 4096
  if s.mm.faults.any (fun f => f.asid == P.asid && f.va == page) then s
  else
    let eng := source != 0
    postFault s
      { asid := P.asid, va := page, posted := false, pri := pageRequest s P page wr fetch
        record := faultRecord s va P.asid wr fetch cruise source (clusterOf P) P.core (if eng then 0 else group) launch }

/-- An outstanding fault covers the page of an address. -/
def faultPending (s : State) (asid va : Nat) : Bool := s.mm.faults.any (fun f => f.asid == asid && f.va == va / 4096 * 4096)

end Sys2Proof.Machine
end

