-- ==== Sys2Proof/Machine/Cache.lean ====
section
/-! DEFINITION. Global memory as a party of the machine reaches it: pins and owned lines, the leased copies of the L1s and L2s and
their cleaning, EXT targets, and the performing of loads, stores and atomics (08, 10, 12, 13, 21, 23). -/

namespace Sys2Proof.Machine

/-! ## Leases (R263, R264) -/

/-- The latest lease end that a cluster's L2 has granted on a line (R263). -/
def l2GrantOf (s : State) (cluster pa : Nat) : Nat := lookupD s.mm.l2Grant (cluster * 2 ^ 64 + lineOf pa)

/-- An L2 grants a lease on a line to an L1 (R263). -/
def noteGrant (s : State) (cluster pa t : Nat) : State :=
  { s with mm := { s.mm with l2Grant := setKey s.mm.l2Grant (cluster * 2 ^ 64 + lineOf pa) (max t (l2GrantOf s cluster pa)) } }

/-- The groups that wrote bytes now cleaned keep the lease end that the clean returns, for their next release (R264, R267). -/
def creditWriters (s : State) (ws : List (Nat × Nat)) (t : Nat) : State :=
  ws.foldl (fun s w => s.mapGroup w.1 (fun g => g.mapSplits (fun q => { q with gwct := max q.gwct t }))) s

/-- The completion time of a store performed now on a line (R264) (DEDUCED, log entry 24). -/
def leaseGwct (s : State) (pa : Nat) : Nat := max s.clock (lookupD s.mm.llcLease (lineOf pa))

/-- The lease length of an ASID (R290). -/
def leaseLen (s : State) (asid : Nat) : Nat := ((s.context? asid).map (·.lease)).getD 0

/-- The cache-mode pools of a partition in a cluster: its L2 there (R280). -/
def cachePools (s : State) (cluster part : Nat) : List Nat :=
  (s.mm.pools.filter (fun x => x.cluster == cluster && x.mode == .cache && (s.quarter (4 * cluster + x.pool / 16)).serves == part)).map (·.pool)

/-- The cluster has an L2 for a partition: a cache-mode pool in one of its quarters (R280). -/
def hasL2 (s : State) (cluster part : Nat) : Bool := !(cachePools s cluster part).isEmpty

def State.setL1 (s : State) (l : List L1Sector) : State := { s with mm := { s.mm with l1 := l } }

def State.setL2 (s : State) (l : List L2Sector) : State := { s with mm := { s.mm with l2 := l } }

/-- Two lists of writing splits as one. -/
def joinWriters (a b : List (Nat × Nat)) : List (Nat × Nat) := a ++ b.filter (fun x => !a.contains x)

/-- The tag of an L1 sector (R278). -/
def l1Is (P : Party) (va : Nat) (x : L1Sector) : Bool :=
  x.cluster == P.cluster && x.core == P.core && x.asid == P.asid && x.view == P.view && x.va == va / 64

/-- The tag of an L2 sector (R278). -/
def l2Is (P : Party) (pa : Nat) (x : L2Sector) : Bool :=
  x.cluster == P.cluster && x.part == P.part && x.tenancy == P.tenancy && x.view == P.view && x.pa == pa / 64

/-- The runs of dirty bytes of a sector, as (offset, bytes). -/
def dirtyBytes (data : BitVec 512) (dirty : BitVec 64) : List (Nat × Byte) :=
  (List.range 64).filterMap (fun i => if dirty.getLsbD i then ((sectorBytes data i 1).head?.map (fun b => (i, b))) else none)

/-- Write the dirty bytes of a sector at its home, a whole sector at once (R279, R373). -/
def writeDirty (s : State) (t v va pa : Nat) (data : BitVec 512) (dirty : BitVec 64) (sc : Scope) : State :=
  if dirty == BitVec.allOnes 64 then homeWrite s t v (64 * va) (64 * pa) (sectorBytes data 0 64) sc
  else (dirtyBytes data dirty).foldl (fun s x => homeWrite s t v (64 * va + x.1) (64 * pa + x.1) [x.2] sc) s

/-- A clean of dirty bytes to their home ends in an abort completion: a flit that failed, no key, or a failed sector that the bytes do not cover
(R176, R371, R373, R399). -/
def cleanFails (s : State) (t v sec : Nat) (dirty : BitVec 64) : Bool :=
  flitFails s (64 * sec) ||
    (if v = 0 then (keyOf s t).isNone || (sectorFails s (64 * sec) && dirty != BitVec.allOnes 64)
     else (s.viewSector? v sec).any (·.bad) && dirty != BitVec.allOnes 64)

/-- The splits that wrote bytes which are lost meet MEM_ABORT at a covering FENCE (R176, R373) (DEDUCED, log entry 51). -/
def failWriters (s : State) (sec : Nat) (ws : List (Nat × Nat × Scope)) : State :=
  ws.foldl (fun s w =>
    match s.group? w.1 with
    | none => s
    | some g =>
      let i := if (g.split? w.2.1).isSome then w.2.1 else ((g.splits.head?).map (·.idx)).getD 0
      s.mapSplit w.1 i (fun q => { q with storeErrs := q.storeErrs ++ [(64 * sec, w.2.2)] })) s

/-- The write-back of a sector has ended in an abort completion: its record, about the block that wrote the bytes, and what the writers meet.
A view's sector has failed with it. `va` is the sector's virtual address and ASID where they are known (R176, R371, R379, R399). -/
def failClean (s : State) (P : Party) (sec : Nat) (va : Option (Nat × Nat)) (sc : Scope) (ws : List (Nat × Nat)) : State :=
  let bid := ((ws.findSome? (fun w => s.group? w.1)).map (·.bid)).getD 0
  let s1 := abortAs s { P with bid } (64 * sec) va 1
  failWriters (if P.view = 0 then s1 else markBad s1 P.view sec 1) sec (ws.map (fun w => (w.1, w.2, sc)))

/-- Write a sector's dirty bytes, stored at a scope by some splits, at their home, or end in an abort completion. -/
def writeHome (s : State) (P : Party) (va : Option (Nat × Nat)) (sec : Nat) (data : BitVec 512) (dirty : BitVec 64) (rec sc : Scope)
    (ws : List (Nat × Nat)) : State :=
  if cleanFails s P.tenancy P.view sec dirty then failClean s P sec va sc ws
  else
    noteWriters (writeDirty s P.tenancy P.view ((va.getD (0, 0)).1 / 64) sec data dirty rec) P.view sec (dirty == BitVec.allOnes 64) sc ws

/-- Clean an L2 sector to its home and mark it clean; returns the lease end of its line, which its writers keep. -/
def cleanL2 (s : State) (x : L2Sector) : State × Nat :=
  let P : Party := { cluster := x.cluster, core := 0, asid := 0, tenancy := x.tenancy, view := x.view, part := x.part, bid := 0 }
  let s0 := writeHome s P none x.pa x.data x.dirty x.scope x.scope x.writers
  let s1 := creditWriters s0 x.writers (leaseGwct s (64 * x.pa))
  ({ s1 with mm := { s1.mm with l2 := s1.mm.l2.map (fun y => if y == x then { y with dirty := 0, valid := if cleanFails s x.tenancy x.view x.pa x.dirty then 0 else y.valid, writers := [] } else y) } },
    leaseGwct s (64 * x.pa))

/-- An L2 line: the sectors of one tag in one 512-byte line (R278). -/
def sameL2Line (P : Party) (pa : Nat) (x : L2Sector) : Bool :=
  x.cluster == P.cluster && x.part == P.part && x.tenancy == P.tenancy && x.view == P.view && x.pa / 8 == lineOf pa

/-- The age of the L2 line of an address: 0 where no sector of it is held (R281). -/
def lineAge (s : State) (P : Party) (pa : Nat) : Nat := ((s.mm.l2.find? (sameL2Line P pa)).map (·.age)).getD 0

/-- The pool of a line: where it is held, else the one that the hash names (R280). -/
def l2PoolOf (s : State) (P : Party) (pa : Nat) : Nat :=
  match s.mm.l2.find? (sameL2Line P pa) with
  | some x => x.pool
  | none =>
    match cachePools s P.cluster P.part with
    | [p] => p
    | ps => ps.getD (Config.l2Hash (lineOf pa) % ps.length) 0

/-- Where an operand's address lies now, where its page translates. -/
def leafNow (s : State) (cluster asid va : Nat) : Option Nat :=
  let tenancy := ((s.context? asid).map (·.tenancy)).getD 255
  match translate s { cluster, core := 0, asid, tenancy, view := 0, part := 0, bid := 0 } va .load with
  | (_, .ok l) => some l.pa
  | _ => none

/-- A pin of a cluster's tile fetch unit holds some of the bytes of a place. -/
def pinHolds (s : State) (cluster : Nat) (pl : Place) (n : Nat) (x : Pin) : Bool :=
  match x.kind, pl with
  | .pool, .pool key => overlaps key n x.addr x.len
  | .line, .global pa _ _ _ => overlaps pa n x.addr x.len
  | .page asid, .global pa _ _ _ => (match leafNow s cluster asid x.addr with | some y => overlaps pa n y x.len | none => false)
  | _, _ => false

/-- A byte range of global memory (by physical address) or of the pools (by scratch key) is pinned by a tile fetch unit (R226). -/
def pinned (s : State) (pl : Place) (n : Nat) : Bool := s.en.tags.any (fun t => t.pins.any (pinHolds s t.cluster pl n))

/-- An engine owns the line (R273). -/
def lineOwned (s : State) (pa : Nat) : Bool := s.mm.owned.any (fun x => x.1 == lineOf pa)

/-- A clean of a sector must wait: it holds pinned bytes, or an engine owns its line (R226, R273). -/
def cleanHeld (s : State) (pa : Nat) : Bool := pinned s (.global (64 * pa) 0 0 4096) 64 || lineOwned s (64 * pa)

/-- Lines an L1 holds (R278). -/
def l1Lines : Nat := 256

/-- Lines a pool in cache mode holds: 384 KiB (R278). -/
def poolLines : Nat := 768

/-- Make room for an address's line in its L2 pool: a full pool gives up a line whose clean nothing holds. False: there is no room (R278, R279)
(DESIGN CHOICE, log entry 23). -/
def makeRoomL2 (s : State) (P : Party) (pa : Nat) : State × Bool :=
  if s.mm.l2.any (sameL2Line P pa) then (s, true)
  else
    let pool := l2PoolOf s P pa
    let mine := s.mm.l2.filter (fun x => x.cluster == P.cluster && x.pool == pool)
    let tag (x : L2Sector) : Nat × Nat × Nat × Nat := (x.part, x.tenancy, x.view, x.pa / 8)
    let lines := (mine.map tag).eraseDups
    if lines.length < poolLines then (s, true)
    else
      match chosen s (lines.filter (fun y => mine.all (fun x => tag x != y || x.dirty == 0 || !cleanHeld s x.pa))) with
      | none => (s, false)
      | some y =>
        let s1 := (mine.filter (fun x => tag x == y && x.dirty != 0)).foldl (fun s x => (cleanL2 s x).1) s
        (s1.setL2 (s1.mm.l2.filter (fun x => !(x.cluster == P.cluster && x.pool == pool && tag x == y))), true)

/-- Clean an L1 sector to the L2, or to its home when `home`, in a view, or where the L2 has no room or is not there; returns the latest
lease end its level knows, which the writers keep (R206, R264, R279). A view's sector takes the widest scope (R243). -/
def cleanL1 (s : State) (P : Party) (x : L1Sector) (home : Bool) : State × Nat :=
  let clean (s : State) (t : Nat) : State :=
    creditWriters (s.setL1 (s.mm.l1.map (fun y =>
      if y == x then { y with dirty := 0, scope := .sys, wide := .blk, writers := [] } else y))) x.writers t
  let dropSector (s : State) : State := s.setL1 (s.mm.l1.filter (fun y => y != x))
  let P' := { P with view := x.view }
  if x.dirty == 0 then (s, 0)
  else
    let r := if home || !hasL2 s P.cluster P.part || x.view != 0 then (s, false) else makeRoomL2 s P' (64 * x.pa)
    if r.2 then
      let upd (y : L2Sector) : L2Sector :=
        { y with data := mergeSector y.data x.data x.dirty, valid := y.valid ||| x.dirty, dirty := y.dirty ||| x.dirty, writers := joinWriters y.writers x.writers,
                 scope := if y.dirty == 0 || x.scope.code.toNat < y.scope.code.toNat then x.scope else y.scope }
      let fresh : L2Sector :=
        { cluster := P.cluster, pool := l2PoolOf r.1 P' (64 * x.pa), part := P.part, tenancy := P.tenancy, view := x.view, pa := x.pa, data := 0,
          valid := 0, dirty := 0, scope := x.scope, lease := 0, age := lineAge r.1 P' (64 * x.pa), seq := s.seq, writers := [] }
      let s1 := r.1.setL2 (updOrAdd (l2Is P' (64 * x.pa)) fresh upd r.1.mm.l2)
      let lease := max s.clock (l2GrantOf s P.cluster (64 * x.pa))
      (clean s1 lease, lease)
    else
      let s1 := writeHome s P' (some (64 * x.va, x.asid)) x.pa x.data x.dirty (if x.view = 0 then x.scope else x.wide) x.scope x.writers
      let s2 := s1.setL2 (s1.mm.l2.map (fun y =>
        if l2Is P' (64 * x.pa) y then { y with data := mergeSector y.data x.data x.dirty, dirty := y.dirty &&& ~~~ x.dirty } else y))
      if cleanFails s P.tenancy x.view x.pa x.dirty then (dropSector s1, 0)
      else (clean s2 (leaseGwct s (64 * x.pa)), leaseGwct s (64 * x.pa))

/-- The line of an L1 sector (R278). -/
def l1Tag (x : L1Sector) : Nat × Nat × Nat := (x.asid, x.view, x.va / 8)

/-- Clean L1 sectors of a cluster, to the L2 or to their home, and drop them. -/
def dropL1Of (s : State) (P : Party) (p : L1Sector → Bool) (home : Bool) : State :=
  let s1 := (s.mm.l1.filter p).foldl (fun s x => (cleanL1 s { P with core := x.core, asid := x.asid, view := x.view } x home).1) s
  s1.setL1 (s1.mm.l1.filter (fun x => !p x))

/-- Clean and drop L1 sectors of a cluster (R279, R289). -/
def dropL1 (s : State) (P : Party) (p : L1Sector → Bool) : State := dropL1Of s P p false

/-- Another alias of an address's line in the cluster's L1s (R289). -/
def isAlias (P : Party) (va pa : Nat) (x : L1Sector) : Bool :=
  x.cluster == P.cluster && x.pa / 8 == lineOf pa && !(x.asid == P.asid && x.va / 8 == va / 512)

/-- Make room for an address's line in the core's L1: every other alias of the line in the cluster's L1s is cleaned and dropped first (R289),
and a full L1 gives up a line whose clean nothing holds (R278, R279). False: there is no room, or the other alias cannot be cleaned yet
(DESIGN CHOICE, log entry 23). -/
def makeRoomL1 (s : State) (P : Party) (va pa : Nat) : State × Bool :=
  if (s.mm.l1.filter (isAlias P va pa)).any (fun x => x.dirty != 0 && cleanHeld s x.pa) then (s, false)
  else
    let s1 := if s.mm.l1.any (isAlias P va pa) then dropL1 s P (isAlias P va pa) else s
    let mine := s1.mm.l1.filter (fun x => x.cluster == P.cluster && x.core == P.core)
    let lines := (mine.map l1Tag).eraseDups
    if lines.contains (P.asid, P.view, va / 512) || decide (lines.length < l1Lines) then (s1, true)
    else
      match chosen s1 (lines.filter (fun y => mine.all (fun x => l1Tag x != y || x.dirty == 0 || !cleanHeld s1 x.pa))) with
      | none => (s1, false)
      | some y => (dropL1 s1 P (fun x => x.cluster == P.cluster && x.core == P.core && l1Tag x == y), true)

/-- Whether the copy serves a read of `n` bytes now (R263, R274). -/
def serves (clock lease seq mark : Nat) (valid : BitVec 64) (off n : Nat) : Bool :=
  decide (clock < lease) && decide (mark ≤ seq) && (valid &&& byteMask off n == byteMask off n)

/-- No lease is granted on a line that an engine owns, or whose page is moving (R273, R277, R296). -/
def noLease (s : State) (pa : Nat) : Bool :=
  lineOwned s pa || s.mm.commands.any (fun c => c.op == 4 && 1 ≤ c.step && c.step < 5 && c.old ≤ pa && pa < c.old + c.size)

/-- A copy of a sector: its bytes, the end of its lease, and the model's order of the home's grant. -/
structure Copy where
  data : BitVec 512
  lease : Nat
  grant : Nat
deriving DecidableEq, Repr

/-- `n` bytes at their home as a party finds them: in a view, bytes that no view of the chain has written are committed ones, the cluster's own
dirty L2 bytes among them (R263, R276, R366). -/
def homeSees (s : State) (P : Party) (pa n : Nat) : Option (List Byte) :=
  (homeRead s P.tenancy P.view pa n).map (fun bs =>
    if P.view = 0 then bs
    else
      bs.mapIdx (fun i b =>
        match s.mm.l2.find? (l2Is { P with view := 0 } (pa + i)) with
        | some x =>
          if x.dirty.getLsbD ((pa + i) % 64) && (viewHolder s P.view (pa + i)).isNone then (sectorBytes x.data ((pa + i) % 64) 1).headD b else b
        | none => b))

/-- The bytes of a sector as a party's L2 fills from its home. -/
def homeSector (s : State) (P : Party) (pa : Nat) : Option (BitVec 512) :=
  (homeSees s P (64 * (pa / 64)) 64).map (fun bs => BitVec.ofNat 512 (leNat bs))

/-- Fetch a sector from the L2, or from its home into the L2 where there is one with room. Nothing on an abort completion (R263, R280)
(DESIGN CHOICE, log entry 23). -/
def fillL2 (s : State) (P : Party) (pa mark : Nat) : State × Option Copy :=
  let old := s.mm.l2.find? (l2Is P pa)
  match old.filter (fun x => serves s.clock x.lease x.seq mark x.valid 0 64) with
  | some x => (s, some ⟨x.data, x.lease, x.seq⟩)
  | none =>
    match homeSector s P pa with
    | none => (s, none)
    | some d0 =>
      let d := match old with | some x => mergeSector d0 x.data x.dirty | none => d0
      let lease := if noLease s pa then 0 else s.clock + leaseLen s P.asid
      let r := if !hasL2 s P.cluster P.part || noLease s pa then (s, false) else makeRoomL2 s P pa
      let fresh : L2Sector :=
        { cluster := P.cluster, pool := l2PoolOf r.1 P pa, part := P.part, tenancy := P.tenancy, view := P.view, pa := pa / 64, data := d,
          valid := BitVec.allOnes 64, dirty := 0, scope := .sys, lease, age := lineAge r.1 P pa, seq := s.seq, writers := [] }
      let s1 := if r.2 then
          r.1.setL2 (updOrAdd (l2Is P pa) fresh (fun y => { y with data := d, valid := BitVec.allOnes 64, lease, seq := s.seq }) r.1.mm.l2)
        else r.1
      let s2 := if noLease s pa then s1 else
        { s1 with mm := { s1.mm with llcLease := setKey s1.mm.llcLease (lineOf pa) (max lease (lookupD s.mm.llcLease (lineOf pa))) } }
      (if hasL2 s P.cluster P.part then s2.count 2 P.tenancy 1 else s2, some ⟨d, lease, s.seq⟩)

/-- The L1 sector that serves a load: its copy is held, its lease runs, and it was granted after the split's marks (R263, R274). -/
def l1Hit (s : State) (P : Party) (markClu markDev va n : Nat) : Option L1Sector :=
  (s.mm.l1.find? (l1Is P va)).filter (fun x => serves s.clock x.lease x.seq markClu x.valid (va % 64) n && decide (markDev ≤ x.grant))

/-- The write permission that a fill records, taken from the leaf entry (R279). -/
def leafW (s : State) (P : Party) (va : Nat) : Bool :=
  s.mm.tlb.any (fun x => x.cluster == P.cluster && x.asid == P.asid && x.va ≤ va && va < x.va + x.size && x.w)

/-- A core's own L1 copy of a sector, under whatever alias (R289). -/
def l1Own (P : Party) (pa : Nat) (x : L1Sector) : Bool := x.cluster == P.cluster && x.core == P.core && x.view == P.view && x.pa == pa / 64

/-- A load from a WB page: served from a leased copy, or from a fill, whose lease ends neither later than the lease of the copy it comes from
nor than CLOCK + L (R174, R263) (DESIGN CHOICE, log entry 23). -/
def loadWB (s : State) (P : Party) (markClu markDev va pa n : Nat) : State × Option (List Byte) :=
  let off := pa % 64
  match l1Hit s P markClu markDev va n with
  | some x => (s, some (sectorBytes x.data off n))
  | none =>
    let room := makeRoomL1 s P va pa
    match fillL2 room.1 P pa markDev with
    | (s1, none) => (s1, none)
    | (s1, some c) =>
      let d := (room.1.mm.l1.filter (l1Own P pa)).foldl (fun d x => mergeSector d x.data x.dirty) c.data
      if !room.2 then (s1, some (sectorBytes d off n))
      else
        let lease := min c.lease (s.clock + leaseLen s P.asid)
        let fresh : L1Sector :=
          { cluster := P.cluster, core := P.core, asid := P.asid, tenancy := P.tenancy, view := P.view, va := va / 64, pa := pa / 64, data := d,
            valid := BitVec.allOnes 64, dirty := 0, scope := .sys, wide := .blk, lease, wperm := leafW s P va, seq := s.seq, grant := c.grant, writers := [] }
        let s2 := s1.setL1 (updOrAdd (l1Is P va) fresh
          (fun y => { y with data := d, valid := BitVec.allOnes 64, lease, wperm := leafW s P va, seq := s.seq, grant := c.grant }) s1.mm.l1)
        (if hasL2 s P.cluster P.part then noteGrant s2 P.cluster pa lease else s2, some (sectorBytes d off n))

/-- Update the cached copies of a core and its cluster with a store written through (R174, R263, R289, R366). -/
def updateCopies (s : State) (P : Party) (pa : Nat) (bs : List Byte) : State :=
  let off := pa % 64
  let m := byteMask off bs.length
  let s1 := s.setL1 (s.mm.l1.map (fun x =>
    if l1Own P pa x then { x with data := putSector x.data off bs, dirty := x.dirty &&& ~~~ m } else x))
  s1.setL2 (s1.mm.l2.map (fun x =>
    if l2Is P pa x then { x with data := putSector x.data off bs, dirty := x.dirty &&& ~~~ m } else x))

/-- The same with a commit's bytes, which a mask names (R248, R268, R276). -/
def mergeCopies (s : State) (P : Party) (pa : Nat) (d : BitVec 512) (m : BitVec 64) : State :=
  let s1 := s.setL1 (s.mm.l1.map (fun x => if l1Own P pa x then { x with data := mergeSector x.data d m, dirty := x.dirty &&& ~~~ m } else x))
  s1.setL2 (s1.mm.l2.map (fun x => if l2Is P pa x then { x with data := mergeSector x.data d m, dirty := x.dirty &&& ~~~ m } else x))

/-- Clean and drop the core's L1 copies of a sector, and the cluster's L2 copy when `l2`: the place of an atomic or of a
WAIT's read holds the newest value of the party's own stores (R173, R177, R186, R289) (DESIGN CHOICE, log entry 23). -/
def dropCopies (s : State) (P : Party) (pa : Nat) (l2 : Bool) : State :=
  let s1 := dropL1Of s P (l1Own P pa) l2
  if l2 then
    let s2 := match s1.mm.l2.find? (l2Is P pa) with
      | some x => (cleanL2 s1 x).1
      | none => s1
    s2.setL2 (s2.mm.l2.filter (fun x => !l2Is P pa x))
  else s1

/-- The party's own copies of a sector hold dirty bytes whose clean must wait (R226, R273). -/
def dirtyHeld (s : State) (P : Party) (pa : Nat) : Bool :=
  cleanHeld s (pa / 64) && (s.mm.l1.any (fun x => l1Own P pa x && x.dirty != 0) || s.mm.l2.any (fun x => l2Is P pa x && x.dirty != 0))

/-- Before an access that is performed at a sector's home: the party's own copies of it, under whatever alias, give way (R173, R268, R289). -/
def settleCopies (s : State) (P : Party) (pa : Nat) : State :=
  let a := localOf s pa
  if isDram a && !dirtyHeld s P a then dropCopies s P a true else s

/-! ## EXT targets (R283, R384, R386, R388) -/

/-- Another device of the domain serves the access: the address lies in its DRAM, and it exports the frame to the tenancy (R387, R388). -/
def remoteOk (s : State) (t pa : Nat) : Bool :=
  s.sys.domain.contains ((pa - 2 ^ 48) / 2 ^ 42) && !s.sys.refused.contains (t, pa / 2 ^ 21)

/-- The target of an EXT access of `n` bytes answers: host memory that does not abort, a register of a BAR of the device's own by an
access it takes, or DRAM of a device of the domain that exports it (R381, R384, R386, R388). -/
def extOk (s : State) (P : Party) (pa n : Nat) : Bool :=
  (isHost pa && !s.sys.hostAbort.contains (hostKey s P pa) &&
      (match barAt s pa with
       | some x => barAligned x.2 n
       | none => true)) ||
    (isRemote pa && (pa - 2 ^ 48) % 2 ^ 42 < dramEnd &&
      ((pa - 2 ^ 48) / 2 ^ 42 == s.sys.devId || remoteOk s P.tenancy pa))

/-- Read an EXT target; the device's own window reads its own home (R386), and its own BAR its registers (R381). -/
def extRead (s : State) (P : Party) (pa n : Nat) : Option (List Byte) :=
  if !extOk s P pa n || (sectorsOf pa n).any (fun x => flitFails s (64 * x)) then none
  else if isDram (localOf s pa) then homeRead s P.tenancy 0 (localOf s pa) n
  else
    match barAt s pa with
    | some x => some (readRegister s x.1 x.2 n)
    | none => some (sgetMany s.mm.mem pa n)

/-- Write an EXT target. A host address inside a function's BAR0 is served as a host write (R381): it is put on the agenda.
Waiters on the sector are woken. -/
def extWrite (s : State) (t pa : Nat) (bs : List Byte) : State :=
  if isDram (localOf s pa) then dramWrite s t (localOf s pa) bs
  else
    match barAt s pa with
    | some x => { s with agenda := .event (.registerWrite x.1 x.2 (bs.length == 8) (BitVec.ofNat 64 (leNat bs))) :: s.agenda }
    | none => wakeSector (s.setMem (ssetMany s.mm.mem pa bs)) 0 (pa / 64)

/-- The completion time an EXT store returns: the target's lease end plus the clocks' difference for a remote device, the
present for host memory (R264, R386, R387). -/
def extGwct (s : State) (pa : Nat) : Nat :=
  if isDram (localOf s pa) then leaseGwct s (localOf s pa)
  else if isRemote pa then max s.clock (lookupD s.sys.remoteLease (lineOf pa)) + 32 else s.clock

/-! ## Performing one access -/

/-- Perform a load at its place (R174) (DEDUCED, log entry 7; DEDUCED, log entry 9). -/
def performLoad (s : State) (P : Party) (markClu markDev va pa attr n : Nat) : State × Option (List Byte) :=
  if attr = 2 then let s1 := settleCopies s P pa; (s1, extRead s1 P pa n)
  else if attr = 1 then let s1 := settleCopies s P pa; (s1, homeSees s1 P pa n)
  else loadWB s P markClu markDev va pa n

/-- An EXT store; one to the device's own window updates the party's copies (R263, R386). -/
def extStore (s : State) (P : Party) (pa : Nat) (bs : List Byte) : State :=
  let s1 := extWrite s P.tenancy pa bs
  if isDram (localOf s pa) then updateCopies s1 P (localOf s pa) bs else s1

/-- Perform a store at its place, and give the completion time it returns (R174, R264). A store at BLK or CLU scope for whose line the L1 has no
room is performed at its home (DEDUCED, log entry 9; DEDUCED, log entry 24). -/
def performStore (s : State) (P : Party) (va pa attr : Nat) (sc : Scope) (bs : List Byte) : State × Nat :=
  if attr = 2 then (extStore s P pa bs, extGwct s pa)
  else
    let r := if attr = 1 || sc = .dev || sc = .sys then (s, false) else makeRoomL1 s P va pa
    if !r.2 then
      let s1 := noteWriters (homeWrite r.1 P.tenancy P.view va pa bs sc) P.view (pa / 64) (bs.length == 64) sc P.writer.toList
      (updateCopies s1 P pa bs, leaseGwct r.1 pa)
    else
      let off := pa % 64
      let m := byteMask off bs.length
      let narrower (a b : Scope) : Scope := if a.code.toNat ≤ b.code.toNat then a else b
      let wider (a b : Scope) : Scope := if a.code.toNat ≤ b.code.toNat then b else a
      let fresh : L1Sector :=
        { cluster := P.cluster, core := P.core, asid := P.asid, tenancy := P.tenancy, view := P.view, va := va / 64, pa := pa / 64, data := 0, valid := 0,
          dirty := 0, scope := .sys, wide := .blk, lease := 0, wperm := true, seq := s.seq, grant := s.seq, writers := [] }
      (r.1.setL1 (updOrAdd (l1Is P va) fresh (fun x =>
          { x with data := putSector x.data off bs, valid := x.valid ||| m, dirty := x.dirty ||| m,
                   scope := narrower x.scope sc, wide := wider x.wide sc, wperm := true, writers := joinWriters x.writers P.writer.toList }) r.1.mm.l1), 0)

/-- Perform an atomic at the place its scope gives: read, combine, write, as one step (R177, R244, R280). Gives the old
bytes, or nothing on an abort completion. -/
def performAtomic (s : State) (P : Party) (va pa attr n : Nat) (sc : Scope) (op : List Byte → List Byte) :
    State × Option (List Byte) × Nat :=
  if attr = 2 then
    let s1 := settleCopies s P pa
    match extRead s1 P pa n with
    | none => (s1, none, 0)
    | some old => (extStore s1 P pa (op old), some old, extGwct s1 pa)
  else if attr = 1 || sc = .dev || sc = .sys || (sc = .clu && !hasL2 s P.cluster P.part) || (sc = .clu && P.view != 0) then
    let s1 := settleCopies s P pa
    match homeSees s1 P pa n with
    | none => (s1, none, 0)
    | some old => (noteWriters (homeWrite s1 P.tenancy P.view va pa (op old) sc) P.view (pa / 64) false sc P.writer.toList, some old, leaseGwct s1 pa)
  else if sc = .clu then
    let s1 := dropCopies s P pa false
    match fillL2 s1 P pa 0 with
    | (s2, none) => (s2, none, 0)
    | (s2, some c) =>
      let off := pa % 64
      let old := sectorBytes c.data off n
      if s2.mm.l2.any (l2Is P pa) then
        (s2.setL2 (s2.mm.l2.map (fun x =>
          if l2Is P pa x then
            { x with data := putSector x.data off (op old), dirty := x.dirty ||| byteMask off n, scope := .clu, writers := joinWriters x.writers P.writer.toList }
          else x)), some old, max s.clock (l2GrantOf s2 P.cluster pa))
      else (homeWrite s2 P.tenancy P.view va pa (op old) sc, some old, leaseGwct s2 pa)
  else
    match loadWB s P 0 0 va pa n with
    | (s1, none) => (s1, none, 0)
    | (s1, some old) => let r := performStore s1 P va pa attr sc (op old); (r.1, some old, r.2)

end Sys2Proof.Machine
end

