-- ==== Sys2Proof/Machine/Blocks.lean ====
section
/-! DEFINITION. What a block holds, and giving it back: scratchpad segments, FIFOs, tags, copy requests, views
(19_traps_preemption_debug.md R355, R356; 11_views.md R250, R257, R260; 10 R222, R237). -/

namespace Sys2Proof.Machine

/-! ## Segments (R180 to R182, R245). Segment id = cluster * 65536 + pool * 768 + offset / 512. -/

def segId (cluster pool off : Nat) : Nat := cluster * 65536 + pool * 768 + off / 512

/-- First scratch key of a segment. -/
def segKey (seg : Nat) : Nat := (seg / 65536) * 2 ^ 25 + (seg % 65536 / 768) * 2 ^ 19 + (seg % 65536 % 768) * 512

/-- The allocations whose segments must be kept: live ones, and those of shadows and snapshots. -/
def keptAllocs (s : State) : List Alloc :=
  s.mm.allocs ++ s.fe.blocks.flatMap (fun b => (b.shadow.map (·.allocs)).getD []) ++ s.mm.forks.flatMap (fun f => f.snapshot.allocs)

/-- The owner of a rival's own map of a cohort-owned allocation (R245). -/
def rivalOwner (bid : Nat) : Nat := 2 ^ 64 + bid

/-- Bytes of a pool that allocations use (R180). -/
def poolBytes : Nat := 393216

/-- The owner under which a block's cohort holds allocations. -/
def cohortKey (b : Block) : Nat := b.lid * 2 ^ 32 + b.cohort

/-- The owner of a rival's own map of a cohort-owned allocation (R245). -/
def rivalKey (b : Block) : Nat := rivalOwner b.bid

/-- The allocation is in a block's map: its own, or its cohort's. -/
def mine (b : Block) (a : Alloc) : Bool :=
  a.cluster == b.cluster &&
    (if a.cohortOwned then a.owner == cohortKey b || a.owner == rivalKey b else a.owner == b.bid)

/-- The local address of byte `j` of an allocation (R180). -/
def allocAddr (a : Alloc) (j : Nat) : Nat :=
  if a.size ≤ poolBytes then a.base + j else a.base + (j / poolBytes) * 2 ^ 19 + j % poolBytes

/-- The byte of an allocation at a local address. -/
def allocByte (a : Alloc) (la : Nat) : Option Nat :=
  if la < a.base then none
  else if a.size ≤ poolBytes then (if la < a.base + a.size then some (la - a.base) else none)
  else
    let off := la % 2 ^ 19
    let j := (la - a.base) / 2 ^ 19 * poolBytes + off
    if off < poolBytes && j < a.size then some j else none

/-- The allocation of a block, and the byte of it, at a local address; none where R178 gives SCRATCH_BOUNDS. -/
def locate (s : State) (b : Block) (la : Nat) : Option (Alloc × Nat) :=
  if 2 ^ 25 ≤ la then none
  else (s.mm.allocs.filter (mine b)).findSome? (fun a => (allocByte a la).map (fun j => (a, j)))

/-- The physical segment of byte `j`. -/
def segOf (a : Alloc) (j : Nat) : Nat := a.segs.getD (j / 512) 0

/-- The scratch key of byte `j`. -/
def byteKey (a : Alloc) (j : Nat) : Nat := segKey (segOf a j) + j % 512

/-- The scratch key of a local address. -/
def keyAt (s : State) (b : Block) (la : Nat) : Option Nat := (locate s b la).map (fun x => byteKey x.1 x.2)

/-- How many allocation entries map a segment. -/
def segUses (s : State) (seg : Nat) : Nat := ((keptAllocs s).filter (fun a => a.segs.contains seg)).length

/-- Free every segment that no allocation maps any more; its words read 0 for the next owner (R181). -/
def gcSegs (s : State) : State :=
  let kept := (keptAllocs s).flatMap (·.segs)
  let gone := s.mm.segAge.filter (fun x => !kept.contains x.1)
  { s with mm :=
    { s.mm with
      segAge := s.mm.segAge.filter (fun x => kept.contains x.1)
      bad := s.mm.bad.filter (fun y => !gone.any (fun x => decide (poolErrors + segKey x.1 ≤ 64 * y) && decide (64 * y < poolErrors + segKey x.1 + 512)))
      scratch := gone.foldl (fun m x => sclear m (segKey x.1) 512) s.mm.scratch } }

/-- Remove the allocations that `p` names, and their segments. -/
def freeAllocs (s : State) (p : Alloc → Bool) : State :=
  gcSegs { s with mm := { s.mm with allocs := s.mm.allocs.filter (fun a => !p a) } }

/-- Empty the FIFOs a block holds (R356). -/
def freeFifos (s : State) (bid : Nat) : State :=
  { s with mm := { s.mm with pools := s.mm.pools.map (fun x =>
      if x.holder == some bid then { x with holder := none, entries := [] } else x) } }

/-! ## Tags (R217, R218) -/

/-- Rows and columns of a bank. -/
def bankRows : Fusion → Nat
  | .q => 64
  | .h => 64
  | .v => 128
  | .all => 128

def bankCols : Fusion → Nat
  | .q => 64
  | .h => 128
  | .v => 64
  | .all => 128

/-- The key of bank element (i, j). -/
def bankKey (i j : Nat) : Nat := 128 * i + j

/-- The quadrants of a fusion as core `c` binds it (R218). -/
def quadsOf (f : Fusion) (c : Nat) : List Nat :=
  match f with
  | .q => [c]
  | .h => if c < 2 then [0, 1] else [2, 3]
  | .v => if c % 2 = 0 then [0, 2] else [1, 3]
  | .all => [0, 1, 2, 3]

/-- The physical tag a core names by `t` (R217). -/
def physTag (core t : Nat) : Nat := (t + 8 * core) % 32

/-- The physical tag that holds the contents of a fused tag's member slot. -/
def primaryTag (s : State) (cluster p : Nat) : Nat :=
  let x := s.tag cluster p
  if x.member then
    match (quadsOf x.fuse (p / 8)).find? (fun q => !(s.tag cluster (8 * q + p % 8)).member) with
    | some q => 8 * q + p % 8
    | none => p
  else p

/-- Make a tag and its member slots FREE, with every field at its reset value (R222, R237). -/
def clearTag (s : State) (cluster p : Nat) : State :=
  let x := s.tag cluster p
  (quadsOf x.fuse (p / 8)).foldl (fun s q => s.mapTag cluster (8 * q + p % 8) (fun _ => Tag.atReset cluster (8 * q + p % 8))) s

/-- Stop admission and discard the queue, pins and latched packs of a tag; its waves in the array run out (R237, R336). -/
def killTag (s : State) (cluster p : Nat) : State :=
  let x := s.tag cluster p
  let s1 := (quadsOf x.fuse (p / 8)).foldl (fun s q => s.mapTag cluster (8 * q + p % 8) (fun y => { y with st := .killing })) s
  s1.mapTag cluster p (fun y =>
    { y with queue := [], latched := [], pins := [], chunk := [], flags := 0, void := false, vk := 0, vcause := 0, vcount := 0,
             bank := [] })

/-- Release every tag of a block as TAGFREE does, its in-flight waves being drained at once (R222). -/
def freeTags (s : State) (bid : Nat) : State :=
  (s.en.tags.filter (fun x => x.st != .free && !x.member && x.owner == bid)).foldl (fun s x => clearTag s x.cluster x.p) s

/-- Remove every tag of a block as TAGKILL does (R356). -/
def killTags (s : State) (bid : Nat) : State :=
  (s.en.tags.filter (fun x => (x.st == .bound || x.st == .frozen) && !x.member && x.owner == bid)).foldl
    (fun s x => if x.inflight.isEmpty then clearTag s x.cluster x.p else killTag s x.cluster x.p) s

/-! ## Copy requests -/

/-- Cancel a block's copy requests: bytes already written stay, and no count lands (R356). -/
def cancelCopies (s : State) (bid : Nat) : State :=
  let ids := (s.en.copies.filter (fun c => c.bid == bid)).map (·.id)
  { s with
    en := { s.en with copies := s.en.copies.filter (fun c => c.bid != bid) }
    mm := { s.mm with owned := s.mm.owned.filter (fun x => !ids.contains x.2) } }

/-! ## Views (R250, R366, R369) -/

/-- A view and its descendants (views are at most 4 deep). -/
def viewTree (s : State) : Nat → Nat → List Nat
  | 0, v => [v]
  | f + 1, v => v :: (s.mm.views.filter (fun x => x.parent == v)).flatMap (fun x => viewTree s f x.id)

/-- Drop a view's lines in every L1 and L2. -/
def dropViewLines (s : State) (v : Nat) : State :=
  { s with mm := { s.mm with l1 := s.mm.l1.filter (fun x => x.view != v), l2 := s.mm.l2.filter (fun x => x.view != v) } }

/-- Empty a view in place: its lines are dropped, its sectors marked dead, its outbox discarded (R257, R369). -/
def emptyView (s : State) (v : Nat) : State :=
  let s1 := dropViewLines s v
  { s1 with mm :=
    { s1.mm with
      sectors := s1.mm.sectors.map (fun x => if x.view == v then { x with dead := true } else x)
      writers := s1.mm.writers.filter (fun x => x.1 / 2 ^ 58 != v)
      views := s1.mm.views.map (fun x => if x.id == v then { x with outbox := [] } else x) } }

/-- Discard a view: as `emptyView`, and its identifier is held until its sectors are reclaimed (R366, R369). -/
def discardView (s : State) (v : Nat) : State :=
  let s1 := emptyView s v
  { s1 with mm := { s1.mm with views := s1.mm.views.filter (fun x => x.id != v), heldIds := v :: s1.mm.heldIds } }

/-- Free a view's identifier once nothing is tagged with it (DEDUCED, log entry 34). -/
def freeViewIds (s : State) : List Nat :=
  (List.range 1024).filter (fun v => v != 0 && !(s.mm.views.any (fun x => x.id == v)) && !s.mm.heldIds.contains v)

/-- Open a view under a parent (R242). -/
def openView (s : State) (id parent : Nat) (kind : ViewKind) : State :=
  let depth := ((s.view? parent).map (·.depth)).getD 0 + 1
  { s with mm := { s.mm with views := s.mm.views ++ [{ id, parent, depth, kind, outbox := [], commit := none }] } }

/-! ## Barrier objects in scratchpad (R199) -/

/-- A barrier object's fields. -/
structure Barrier where
  bytes : Nat
  arrive : Nat
  phase : Nat
  expect : Nat
  flags : Nat
  waiters : Nat
deriving DecidableEq, Repr

def readBarrier (s : State) (key : Nat) : Barrier :=
  let bs := sgetMany s.mm.scratch key 16
  let f (o n : Nat) : Nat := leNat ((bs.drop o).take n)
  { bytes := f 0 4, arrive := f 4 2, phase := f 6 2, expect := f 8 2, flags := f 10 2, waiters := f 12 4 }

def writeBarrier (s : State) (key : Nat) (o : Barrier) : State :=
  let bs := leBytes o.bytes 4 ++ leBytes o.arrive 2 ++ leBytes o.phase 2 ++ leBytes o.expect 2 ++ leBytes o.flags 2 ++ leBytes o.waiters 4
  { s with mm := { s.mm with scratch := ssetMany s.mm.scratch key bs } }

/-- A split parked on an object counts no longer among its waiters. -/
def leaveObject (s : State) (bid : Nat) (q : Split) : State :=
  match q.park, s.block? bid with
  | .object la, some b =>
    match keyAt s b la with
    | some key => let o := readBarrier s key; writeBarrier s key { o with waiters := o.waiters - 1 }
    | none => s
  | _, _ => s

/-- The scratch key of a cluster's physical pool byte. -/
def poolKey (cluster addr : Nat) : Nat := cluster * 2 ^ 25 + addr

/-! ## Identifiers across launches (R28, R45, R255) -/

/-- An identifier: launch age, block index, rival indices from the outermost FORK in, group index; compared from the front. -/
abbrev Rank := List Nat

def rankLess : Rank → Rank → Bool
  | [], [] => false
  | [], _ :: _ => true
  | _ :: _, [] => false
  | x :: r, y :: t => decide (x < y) || (x == y && rankLess r t)

/-- The rival indices of a block, from the outermost FORK in. -/
def rivalPath (s : State) : Nat → Option Nat → Nat → List Nat
  | 0, _, _ => []
  | n + 1, r, k =>
    match r.bind s.fork? with
    | none => []
    | some f => rivalPath s n f.parentRec f.parentRival ++ [k]

/-- The identifier of a block; one outside a FORK ranks as rival 0 (R255). -/
def blockRank (s : State) (b : Block) : Rank :=
  let p := rivalPath s 4 b.forkRec b.rival
  [((s.launch? b.lid).map (·.age)).getD 0, b.index.toNat] ++ p ++ List.replicate (4 - p.length) 0

/-- The identifier of a group. -/
def groupRank (s : State) (g : Group) : Rank :=
  (match s.block? g.bid with
    | some b => blockRank s b
    | none => List.replicate 6 0) ++ [g.index]

/-- The element of a list that `before` puts first. -/
def firstBy {α : Type} (before : α → α → Bool) : List α → Option α
  | [] => none
  | x :: r => some (r.foldl (fun m y => if before y m then y else m) x)

/-! ## Cores (R2, R19, R27, R312) -/

/-- The group is evicted, or being evicted, for its registers (R354). -/
def evicted (b : Block) (g : Group) : Bool := b.evict.contains g.index

/-- A group that is on its core: its block is not saved, nor the group (R346, R354). -/
def onCore (s : State) (g : Group) : Bool :=
  g.alive &&
    (match s.block? g.bid with
      | some b => b.st != .saved && b.st != .ended && !(evicted b g && g.routineDone && !g.trapAddr.getLsbD 0)
      | none => false)

/-- Vector registers of a core. -/
def coreRegs : Nat := 2048

/-- The groups on a core. -/
def coreGroups (s : State) (cluster core : Nat) : List Group :=
  s.fe.groups.filter (fun g => onCore s g && (match s.block? g.bid with | some b => b.cluster == cluster && b.core == core | none => false))

/-- Free vector registers of a core (R19, R27). -/
def freeRegs (s : State) (cluster core : Nat) : Nat := coreRegs - ((coreGroups s cluster core).map (·.count)).sum

/-- The core takes blocks of a partition and tenancy: its quarter serves the partition and is not changing, and it latches the tenancy. -/
def coreOpen (s : State) (part tenancy cluster core : Nat) : Bool :=
  let q := s.quarter (4 * cluster + core)
  let h := s.latch (4 * cluster + core)
  part != 63 && q.serves == part && !q.pend && h.latch.toNat == tenancy && tenancy != 255 && !h.lpend

/-- The core has registers and room for groups. -/
def coreRoom (s : State) (cluster core regs groups : Nat) : Bool :=
  decide (regs ≤ freeRegs s cluster core) && decide ((coreGroups s cluster core).length + groups ≤ 48)

/-! ## Ending groups and blocks -/

/-- The resources of a block that exit and kill release alike: allocations, FIFOs, copies (R356). -/
def releaseStorage (s : State) (bid : Nat) : State :=
  freeFifos (freeAllocs (cancelCopies s bid) (fun a => if a.cohortOwned then a.owner == rivalOwner bid else a.owner == bid)) bid

/-- Every split of a group that is parked on an object counts no longer among its waiters (R199). -/
def leaveObjects (s : State) (g : Group) : State := g.splits.foldl (fun s q => leaveObject s g.bid q) s

/-- Take the groups of a block off their core: registers and split table return to the free pool. -/
def dropGroups (s0 : State) (bid : Nat) : State :=
  let s := (s0.groupsOf bid).foldl leaveObjects s0
  { s with fe :=
    { s.fe with
      groups := s.fe.groups.filter (fun g => g.bid != bid)
      echo := s.fe.echo.filter (fun e => !(s.fe.groups.any (fun g => g.bid == bid && g.gid == e.gid))) } }

/-- Remove a rival block: its groups, storage and entry in the block table. -/
def removeBlock (s : State) (bid : Nat) : State :=
  let s1 := dropGroups (killTags (releaseStorage s bid) bid) bid
  { s1 with fe := { s1.fe with blocks := s1.fe.blocks.filter (fun b => b.bid != bid) } }

/-- The block that a FORK's outermost record stands for; a block outside a FORK is its own (R246). -/
def rootBid (s : State) : Nat → Option Nat → Nat → Nat
  | 0, _, k => k
  | n + 1, r, k =>
    match r.bind s.fork? with
    | none => k
    | some f => rootBid s n f.parentRec f.base.bid

/-- The blocks of one block index of a launch: the block and its rivals. -/
def rivalsOf (s : State) (b : Block) : List Block := s.fe.blocks.filter (fun x => x.lid == b.lid && x.index == b.index)

/-- The store pass of the block's commit is done, and the commit not over. -/
def commitRuns (s : State) (b : Block) : Bool := ((s.view? b.view).bind (·.commit)).isSome

/-- A block recorded complete whose commit is not over: its effects appear whatever becomes of its groups (R259, R308). -/
def mustFinish (s : State) (b : Block) : Bool := b.committed && commitRuns s b

/-- Discard a view, every view below it, the fork records whose rivals those views are, and the blocks running in them or
held for them, other than `keep` (R250, R257). -/
def discardTree (s : State) (v keep : Nat) : State :=
  let vs := viewTree s 5 v
  let recs := (s.mm.forks.filter (fun f => vs.contains f.parent)).map (·.id)
  let gone := (s.fe.blocks.filter (fun b => (b.view != 0 && vs.contains b.view) || b.forkRec.any recs.contains)).map (·.bid)
  let s1 := gone.foldl (fun s b => if b == keep then s else removeBlock s b) s
  let s2 := vs.foldl discardView s1
  gcSegs { s2 with mm := { s2.mm with forks := s2.mm.forks.filter (fun f => !vs.contains f.parent) } }

end Sys2Proof.Machine
end

