-- ==== Sys2Proof/Machine/Shadow.lean ====
section
/-! DEFINITION. The shadow of a resilient block and its return: reading a copy back from the save region, restoring a shadow, rolling a block back,
and aborting an atomic block (11_views.md R256, R257, R260; 21_views_containment_hardware.md R370; 19 R347 to R349, R352). -/

namespace Sys2Proof.Machine

/-! ## A copy of the shadow in the save region (R370) -/

/-- Where group `k`'s area stands from the base of a region or of a copy. -/
def groupArea (base k : Nat) : Nat := base + 0x4000 * (1 + k)

/-- Where a shadow copy stands. -/
def shadowBase (b : Block) (c : Nat) : Nat := b.saveBase + 0x2000000 + 0x1000000 * c

/-- A split read back from its record and stack (R352); none for an unused index. -/
def splitOfBytes (i : Nat) (r st : List Byte) (order : Nat) : Option Split :=
  let code := field r 0x14 1
  if code = 0xFF then none
  else
    let entry (e : Nat) : StackEntry :=
      let x := (st.drop (32 * e)).take 32
      { id := BitVec.ofNat 8 (field x 7 1), jpc := BitVec.ofNat 48 (field x 0 6), ppc := BitVec.ofNat 48 (field x 8 6),
        mask := BitVec.ofNat 32 (field x 16 4), pmask := BitVec.ofNat 32 (field x 20 4), fmt := BitVec.ofNat 32 (field x 24 4),
        sig := BitVec.ofNat 32 (field x 28 4) }
    some
      { freshSplit (BitVec.ofNat 48 (field r 0 6)) (BitVec.ofNat 32 (field r 12 4)) order with
        idx := i, active := BitVec.ofNat 32 (field r 8 4), sig := BitVec.ofNat 32 (field r 16 4), depth := field r 0x15 1,
        st := if code = 2 then .fault else if code = 8 then .join else if code = 9 then .stop else .ready
        stopReq := code == 9
        fmask := if code = 2 then BitVec.ofNat 32 (field r 0x18 4) else 0
        next := BitVec.ofNat 48 (field r 0 6) + 4
        stack := (List.range 16).map entry, scClu := order, scDev := order }

/-- `n` bytes of a block's region, at most 64 and in one sector, as its committed memory holds them. -/
def regionSector (s : State) (P : Party) (va n : Nat) : Option (List Byte) :=
  match (translate s P va .load).2 with
  | .ok l => homeRead s P.tenancy 0 l.pa n
  | _ => none

/-- `k` sectors of a block's region. -/
def regionRead (s : State) (P : Party) (va : Nat) : Nat → Option (List Byte)
  | 0 => some []
  | k + 1 => (regionSector s P va 64).bind (fun x => (regionRead s P (va + 64) k).map (fun r => x ++ r))

/-- Words of bytes from an offset, as a store with keys from 0. -/
def wordStore (w : Nat) (bs : List Byte) (off n : Nat) : Store w :=
  (List.range n).foldl (fun m j => sset m j (BitVec.ofNat w (field bs (off + 4 * j) 4))) []

/-- A group of a shadow with what its area in a copy holds (R348). -/
def shadowGroup (s : State) (b : Block) (c : Nat) (g : Group) : Option Group :=
  (regionRead s (s.partyOf b) (groupArea (shadowBase b c) g.index) ((0xC00 + 128 * g.count) / 64)).map (fun bs =>
    { g with
      count := field bs 4 4 % 128
      fcsr := BitVec.ofNat 5 (field bs 8 4)
      replays := BitVec.ofNat 32 (field bs 12 4)
      gang := BitVec.ofNat 64 (field bs 16 8)
      s := (List.range 30).foldl (fun m j => sset m j (BitVec.ofNat 32 (field bs (0x100 + 4 * j) 4))) g.s
      p := wordStore 32 bs 0x180 7
      fflags := wordStore 5 bs 0x200 32
      v := wordStore 32 bs 0xC00 (32 * g.count)
      splits := (List.range 4).filterMap (fun i => splitOfBytes i ((bs.drop (0x80 + 32 * i)).take 32) ((bs.drop (0x400 + 0x200 * i)).take 0x200) s.seq) })

/-- A tag of a shadow with what bank image `i` of a copy holds (R347). -/
def shadowTag (s : State) (b : Block) (c i : Nat) (t : TagImage) : Option TagImage :=
  let n := bankCols t.fuse
  (regionRead s (s.partyOf b) (shadowBase b c + 0x84000 + 0x10000 * i) (bankRows t.fuse * n / 16)).map (fun bs =>
    { t with bank := (List.range (bankRows t.fuse)).foldl (fun m r =>
        (List.range n).foldl (fun m j => sset m (bankKey r j) (BitVec.ofNat 32 (field bs (4 * (r * n + j)) 4))) m) [] })

/-- The shadow of a block's last checkpoint as its current copy holds it; what the region cannot give comes from the hardware's own record, as the
map of the scratchpad does. Before the first checkpoint there is no copy (R257, R370) (DEDUCED, log entry 35). -/
def currentShadow (s : State) (b : Block) (sh : Shadow) : Shadow :=
  if 2 ≤ b.shadowCopy then sh
  else
    { sh with
      groups := sh.groups.map (fun g => if g.alive then (shadowGroup s b b.shadowCopy g).getD g else g)
      tags := (sh.tags.zipIdx).map (fun x => (shadowTag s b b.shadowCopy x.2 x.1).getD x.1) }

/-! ## Restoring -/

/-- The owner of an allocation as a block restores it. -/
def ownedBy (bid : Nat) (a : Alloc) : Alloc :=
  { a with owner := if !a.cohortOwned then bid else if rivalOwner 0 ≤ a.owner then rivalOwner bid else a.owner }

/-- Restore a shadow's groups and allocations for a block, on a core of the cluster that holds them (R250, R257). -/
def restoreShadow (s : State) (bid cluster core : Nat) (sh : Shadow) : State :=
  let s1 := dropGroups s bid
  let base := sh.allocs.map (fun a => (a.cohortOwned, a.base))
  let s2 : State :=
    { s1 with
      fe := { s1.fe with groups := s1.fe.groups ++ sh.groups.map (fun g => { g with bid }) }
      mm :=
        { s1.mm with
          allocs := s1.mm.allocs.filter (fun a => !(!a.cohortOwned && a.owner == bid) && !(a.cohortOwned && a.owner == rivalOwner bid) && !(a.cohortOwned && base.contains (true, a.base) && a.cluster == cluster &&
            sh.allocs.any (fun y => y.owner == a.owner))) ++ sh.allocs.map (ownedBy bid) } }
  gcSegs (s2.mapBlock bid (fun b => { b with cluster, core }))

/-- Restore a shadow's tag: its binding, bank and flags (R257). -/
def restoreTag (s : State) (cluster core bid weight : Nat) (t : TagImage) : State :=
  (quadsOf t.fuse core).foldl (fun s q =>
    s.mapTag cluster (8 * q + t.p % 8) (fun _ =>
      { Tag.atReset cluster (8 * q + t.p % 8) with
        st := if t.frozen then .frozen else .bound, owner := bid, fuse := t.fuse, member := q != core, afmt := t.afmt, bfmt := t.bfmt, acc := t.acc,
        weight, flags := if q == core then t.flags else 0, bank := if q == core then t.bank else [] })) s

/-- The interval view of a resilient block: the one on its chain. -/
def intervalView (s : State) (b : Block) : Nat :=
  ((viewChain s 5 b.view).find? (fun v => ((s.view? v).map (·.kind)) == some ViewKind.interval)).getD b.view

/-- A group of a shadow as it resumes: splits parked at a barrier go on after it (R257). -/
def resumed (g : Group) : Group :=
  g.mapSplits (fun q =>
    match q.park with
    | .barrier _ =>
      { q with pc := q.next, sig := q.nextSig, park := .none, st := if q.stopReq then .stop else .ready, phase := 0, fmask := 0, faddr := [],
               trapStep := false }
    | _ => q)

/-- The groups of a shadow that have a live lane, and their registers. -/
def shadowNeeds (sh : Shadow) : Nat × Nat :=
  let gs := sh.groups.filter Group.alive
  ((gs.map (·.count)).sum, gs.length)

/-- A core can hold a shadow: its segments lie in the cluster, and its registers and its tags' slots are free (R217, R245, R257). -/
def shadowFits (s : State) (sh : Shadow) (cluster core : Nat) : Bool :=
  sh.allocs.all (fun a => a.cluster == cluster) && coreRoom s cluster core (shadowNeeds sh).1 (shadowNeeds sh).2 &&
    sh.tags.all (fun t => (quadsOf t.fuse core).all (fun q => (s.tag cluster (8 * q + t.p % 8)).st == .free))

/-- Restore a rolled-back block's shadow on a core, banks and all (R257). -/
def shadowBack (s : State) (b : Block) (sh : Shadow) (cluster core : Nat) : State :=
  let s1 := restoreShadow s b.bid cluster core sh
  let prio := ((s1.launch? b.lid).map (·.prio)).getD 1
  sh.tags.foldl (fun s t => restoreTag s cluster core b.bid prio t) s1

/-- How a block stands that a rollback has restored: one that was leaving is stopped again (R257, R343, R374). -/
def rolledState (b : Block) : BlockState :=
  match b.st with
  | .stopping => .stopping
  | .saving => .stopping
  | .restoring => if b.asked.isSome then .stopping else .running
  | _ => .running

/-- Roll a resilient block back to its last checkpoint: where its shadow's scratchpad lies, or queued for room there (R257). While a checkpoint's
commit is under way, or no view is open after it yet, its splits stay parked until the barrier releases them (R256, R370) (DEDUCED, log entry 34). -/
def rollback (s : State) (b : Block) (sh : Shadow) : State :=
  let s1 := freeTags (cancelCopies s b.bid) b.bid
  let iv := intervalView s1 b
  let mid := iv = 0 || ((s1.view? iv).bind (·.commit)).isSome
  let s4 :=
    if mid then s1
    else
      let inner := (s1.mm.views.filter (fun x => x.parent == iv)).map (·.id)
      let s2 := inner.foldl (fun s v => discardTree s v b.bid) s1
      let recs := (s2.mm.forks.filter (fun f => f.parent == iv)).map (·.id)
      let held := (s2.fe.blocks.filter (fun x => x.forkRec.any recs.contains && x.bid != b.bid)).map (·.bid)
      emptyView (held.foldl removeBlock { s2 with mm := { s2.mm with forks := s2.mm.forks.filter (fun f => f.parent != iv) } }) iv
  let sh0 := if mid then sh else currentShadow s b sh
  let sh1 := if mid then sh0 else { sh0 with groups := sh0.groups.map resumed }
  let s5 := dropGroups s4 b.bid
  let at_ := if sh1.allocs.all (fun a => a.cluster == b.cluster) then (b.cluster, b.core) else (sh1.cluster, sh1.core)
  let P := s5.partyOf b
  let again (x : Block) : Block := { x with rollbacks := x.rollbacks + 1, view := iv, rival := 0, forkRec := none, clone := false, evict := [] }
  if (at_ == (b.cluster, b.core) || coreOpen s5 P.part P.tenancy at_.1 at_.2) && shadowFits s5 sh1 at_.1 at_.2 then
    (shadowBack s5 b sh1 at_.1 at_.2).mapBlock b.bid (fun x =>
      { again x with st := rolledState b, keep := b.asked.getD b.keep, asked := none })
  else
    (freeAllocs s5 (fun a => if a.cohortOwned then a.owner == rivalOwner b.bid else a.owner == b.bid)).mapBlock b.bid (fun x =>
      { again x with st := .waiting, rolled := true, asked := none, cluster := at_.1, core := at_.2 })

/-- Abort an atomic block: its view and outbox are discarded, and it is queued again from its start, resume-first, on any cluster (R260). A block
that is queued so already has no view. -/
def abortAtomic (s : State) (b : Block) : State :=
  let root := (rivalsOf s b).findSome? (fun r => (viewChain s 5 r.view).find? (fun v => ((s.view? v).map (·.kind)) == some ViewKind.block))
  let s1 := match root with | some v => discardTree s v b.bid | none => s
  let s2 := dropGroups (killTags (releaseStorage s1 b.bid) b.bid) b.bid
  s2.mapBlock b.bid (fun x => { x with st := .waiting, view := 0, rival := 0, forkRec := none, clone := false, shadow := none, keep := false, evict := [], asked := none, struck := false })

end Sys2Proof.Machine
end

