-- ==== Sys2Proof/Machine/Ops.lean ====
section
/-! DEFINITION. The operations every meaning is built from: retiring an instruction (PC, SIG, ebb), parking and releasing a
split, returning outstanding results, and taking a trap (01 R43, 02 R47 to R53, 19 R339 to R341, 21 R377). -/

namespace Sys2Proof.Machine

abbrev Result := Host.Outcome State Fault Refusal

/-! ## Signatures (R377) -/

/-- The hash of R377. -/
def sighash (sg x : Word) : Word :=
  let h := sg.rotateLeft 7 ^^^ x
  let h := h * 0x2c1b3c6d
  h ^^^ (h >>> 15)

/-- The length of an instruction in memory: 8 bytes with a literal word (R21). -/
def instrLen (i : Instr) : Nat := match literalOf i with | some _ => 8 | none => 4

/-- The address of the next instruction in memory. -/
def pcAfter (i : Instr) (p : Split) : Pc := p.pc + BitVec.ofNat 48 (instrLen i)

/-- SIG after an issue in user mode; supervisor code leaves it (R377) (DEDUCED, log entry 49). -/
def sigAfter (i : Instr) (g : Group) (p : Split) : Word := if g.mode then p.sig else sighash p.sig (encodeWord i)

/-! ## Putting a group and a split back -/

/-- Replace a split of a group. -/
def Group.put (g : Group) (p : Split) : Group := g.mapSplit p.idx (fun _ => p)

/-- Replace a group, and one of its splits. -/
def State.put (s : State) (g : Group) (p : Split) : State := s.mapGroup g.gid (fun _ => g.put p)

/-- The split runs the trap handler: its group is in supervisor mode, and step 4 of R43 has not stopped the split. -/
def inHandler (g : Group) (p : Split) : Bool := g.mode && !p.frozen

/-- The state in which a split of the group runs: SUPER for handler code, STOP where a debug step ends or a debug stop is
requested, which a handler's code outruns (R30, R340, R358, R359), READY otherwise. A split that step 4 of R43 holds keeps the state in
which RTE finds it (R213). -/
def runState (g : Group) (p : Split) : SplitState :=
  if p.stepOne || p.stepEnd || (p.stopReq && !inHandler g p) then .stop else if inHandler g p then .super else .ready

/-! ## Causes (R339) -/

/-- A trap cause: code, lanes, TRAPADDR and the FP flags. -/
structure Cause where
  code : Nat
  mask : LaneMask
  addr : DWord
  flags : BitVec 5
deriving DecidableEq, Repr

def Cause.mk' (code : Nat) (mask : LaneMask) (addr : DWord) : Cause := ⟨code, mask, addr, 0⟩

/-- The TRAPCAUSE word (R40). -/
def causeWord (c : Cause) (split : Nat) (inView : Bool) : Word :=
  BitVec.ofNat 32 (c.code + 2 ^ 8 * split + 2 ^ 10 * inView.toNat + 2 ^ 11 * c.flags.toNat)

/-! ## Outstanding results (R48, R49) -/

/-- Bytes of a pool, by scratch key. -/
def poolRead (s : State) (key n : Nat) : List Byte := sgetMany s.mm.scratch key n

/-- The byte of a buffered store at the byte address `a` of its space. -/
def storeByte (x : BufStore) (isPool : Bool) (a : Nat) : Option Byte :=
  match x.place, isPool with
  | .global pa _ _ _, false => if pa ≤ a then x.bytes[a - pa]? else none
  | .pool k, true => if k ≤ a then x.bytes[a - k]? else none
  | _, _ => none

/-- Every buffered store of a group. -/
def groupBuffer (g : Group) : List BufStore := g.splits.flatMap (·.buffer)

/-- The byte that the latest of some buffered stores leaves at `a`: its order, and the byte. -/
def latestByte (buf : List BufStore) (isPool : Bool) (a : Nat) : Option (Nat × Byte) :=
  buf.foldl (fun best x =>
    match storeByte x isPool a with
    | some b => if best.all (fun y => decide (y.1 ≤ x.seq)) then some (x.seq, b) else best
    | none => best) none

/-- Bytes read by a load with its split's own earlier buffered stores over them (R173): `after` names those stores. -/
def forward (g : Group) (after : List Nat) (view : Nat) (isPool : Bool) (a : Nat) (bs : List Byte) : List Byte :=
  let buf := (groupBuffer g).filter (fun x => after.contains x.seq && x.view == view)
  bs.mapIdx (fun i b => ((latestByte buf isPool (a + i)).map (·.2)).getD b)

/-- The words of loaded bytes, narrow loads extended (R173). -/
def wordsOfBytes (sext : Bool) (bs : List Byte) : List Word :=
  match bs.length with
  | 1 => [if sext then (BitVec.ofNat 8 (leNat bs)).signExtend 32 else BitVec.ofNat 32 (leNat bs)]
  | 2 => [if sext then (BitVec.ofNat 16 (leNat bs)).signExtend 32 else BitVec.ofNat 32 (leNat bs)]
  | n => (List.range (n / 4)).map (fun i => BitVec.ofNat 32 (leNat ((bs.drop (4 * i)).take 4)))

/-- Perform one lane's part of an outstanding result: its words, or the failed sector. -/
def performPart (s : State) (P : Party) (g : Group) (p : Split) (x : Pending) (r : LaneResult) : State × Option (List Word) × Nat :=
  match r.load with
  | none => (s, some r.vals, 0)
  | some (.pool key, n) =>
    if poolFails s key n then (poolAbort s P, none, key % 2 ^ 25)
    else (s, some (wordsOfBytes r.sext (forward g x.after x.view true key (poolRead s key n))), 0)
  | some (.global pa va attr _, n) =>
    match performLoad s { P with view := x.view } p.scClu p.scDev va pa attr n with
    | (s1, some bs) => (s1, some (wordsOfBytes r.sext (forward g x.after x.view false pa bs)), 0)
    | (s1, none) => (abortTo s1 P pa va (abortAction s1 P), none, pa)

/-- The split holds a copy of an outstanding result: it issued the instruction, or came from the split that did (R47, R48). -/
def holds (q : Split) (x : Pending) : Bool := q.past.contains x.seq

/-- The registers that the outstanding results of a split still cover (R48, R50). -/
def coveredRegs (g : Group) (q : Split) : RegSet := g.pending.foldl (fun m x => if holds q x then m ||| x.regs else m) 0

/-- A split's OUTSTANDING set once a result has returned: the registers that no other result of the split covers are clear, and a split
in EBB whose set is empty runs again, unless it has a MEM_ABORT to report (R47, R48, R50). -/
def clearOutst (g : Group) (x : Pending) (order : Nat) (q : Split) : Split :=
  if !holds q x then q
  else
    let o := q.outst &&& ~~~(x.regs &&& ~~~(coveredRegs g q))
    if q.st == .ebb && o == 0 && q.abort.isNone && !q.stepDue then { q with outst := o, st := runState g q, stepEnd := false, order } else { q with outst := o }

/-- Parts of an outstanding result are done: the result is dropped when none is left, and its registers are no longer OUTSTANDING in the
splits that hold it (R48) (DEDUCED, log entry 8). -/
def dropParts (s : State) (gid : Nat) (x : Pending) (rest : List LaneResult) : State :=
  s.mapGroup gid (fun g =>
    let g1 := { g with pending :=
      if rest.isEmpty then g.pending.filter (fun y => y.seq != x.seq)
      else g.pending.map (fun y => if y.seq == x.seq then { y with parts := rest } else y) }
    if rest.isEmpty then g1.mapSplits (clearOutst g1 x s.seq) else g1)

/-- The lowest split whose copy holds a result's registers (R52). -/
def lowestHolder (g : Group) (x : Pending) : Nat :=
  ((g.splits.filter (fun q => holds q x && q.outst &&& x.regs != 0)).map (·.idx)).foldl min 4

/-- Record an abort completion that a split will report at its ebb: the first failed sector of its run, by its physical address, the
manual naming neither which of several nor which of a sector's addresses (R52) (DESIGN CHOICE, log entry 76). -/
def noteAbort (s : State) (gid i pa : Nat) : State :=
  s.mapSplit gid i (fun q => { q with abort := some (q.abort.getD (pa / 64 * 64)) })

/-- Write the given lanes of an outstanding result, and drop the result when no lane is left. A failed lane's register keeps
its value, and the lowest split that holds the register will report MEM_ABORT at its ebb (R52) (DEDUCED, log entry 7; DESIGN CHOICE, log entry 76). -/
def returnLanes (s : State) (gid : Nat) (x : Pending) (lanes : LaneMask) : State :=
  match s.group? gid with
  | none => s
  | some g0 =>
    let P := s.party g0
    let p := (g0.split? x.sp).getD
      { idx := 4, pc := 0, active := 0, fmt := 0, sig := 0, outst := 0, st := .ready, depth := 0, stack := [], fmask := 0, faddr := [], kept := 0, keptPc := 0,
        park := .none, next := 0, nextSig := 0, nextEbb := false, gwct := 0, hold := 0, phase := 0, appends := none, buffer := [], past := [], storeErrs := [],
        abort := none, keptAbort := none, echoTrap := none, frozen := false, stopReq := false, stepOne := false, stepEnd := false,
        trapStep := false, stepDue := false, tagWait := none, order := 0, low := (0, 0), scClu := 0, scDev := 0 }
    let now := x.parts.filter (fun r => laneIn lanes r.lane)
    let rest := x.parts.filter (fun r => !laneIn lanes r.lane)
    let s1 := now.foldl (fun s r =>
      match performPart s P g0 p x r with
      | (s', some ws, _) =>
        s'.mapGroup gid (fun g => orFlags ((r.dests.zip ws).foldl (fun g y => writeDest g y.1 y.2) g) r.lane r.flags)
      | (s', none, pa) =>
        noteAbort s' gid (lowestHolder g0 x) pa) s
    dropParts s1 gid x rest

/-- Return every outstanding result of a group, in issue order (R53). -/
def drainGroup (s : State) (gid : Nat) : State :=
  match s.group? gid with
  | none => s
  | some g => g.pending.foldl (fun s x => returnLanes s gid x (BitVec.allOnes 32)) s

/-! ## Taking a trap (R43) -/

/-- Post a record that is no replayable fault in the device fault queue, or keep it while the ring is full (R293, R341) (DESIGN CHOICE, log entry 20). -/
def postRecord (s : State) (bs : List Byte) : State :=
  if ringHasRoom (s.ring 0 2) then ringPush s 0 2 bs
  else { s with mm := { s.mm with faults := s.mm.faults ++ [{ asid := 4096, va := 0, posted := false, record := bs, pri := none }] } }

/-- How a supervisor fault at split `i` stops a split of its group: one that runs or could run enters STOP; one that is parked, or in EBB, stays so
and enters STOP when its wait ends (R341, R358). -/
def faultStop (i : Nat) (q : Split) : Split :=
  if q.idx == i then { q with st := .stop, stepOne := false, stepEnd := false, phase := 0, tagWait := none, hold := 0 }
  else
    match q.st with
    | .ready | .fault | .super | .stop => { q with st := .stop, stepOne := false }
    | _ => { q with stepEnd := true, stepOne := false }

/-- A trap in supervisor mode: the group stops, and the driver gets a supervisor-fault record (R43, R341) (DEDUCED, log entry 48). -/
def supervisorFault (s : State) (g : Group) (i : Nat) (pc : Pc) (c : Cause) : State :=
  let P := s.party g
  let launch := ((s.block? g.bid).bind (fun b => s.launch? b.lid)).map (·.seq)
  let s1 := s.mapGroup g.gid (fun g => g.mapSplits (faultStop i))
  postRecord s1 (faultRecord s (2 ^ 63 + 2 ^ 56 * c.code + pc.toNat) (P.asid % 4096) false false false 0 P.cluster P.core g.index
    (launch.getD 0))

/-- Taking a trap in user mode: the five steps of R43. `pc` goes to TRAPPC. The other splits stop; the trapping split goes on
at TVEC with its active mask, in state SUPER (DEDUCED, log entry 61). -/
def enterTrap (s : State) (gid i : Nat) (pc : Pc) (c : Cause) : State :=
  s.mapGroup gid (fun g =>
    let inView := match s.block? g.bid with | some b => b.view != 0 | none => false
    { g with
      trapCause := causeWord c i inView
      trapPc := pc.setWidth 64
      trapMask := c.mask
      trapAddr := c.addr
      pmode := g.mode
      mode := true
      splits := g.splits.map (fun q =>
        if q.idx == i then
          { q with pc := g.tvec.setWidth 48, st := if q.stepOne || q.stepEnd then .stop else .super, park := .none, trapStep := false, stepOne := false, stepEnd := false,
                   phase := 0, appends := none, tagWait := none, hold := 0, kept := q.fmask, keptPc := pc, fmask := 0, faddr := [], keptAbort := q.abort, abort := none }
        else { q with frozen := true }) })

/-- The causes that roll a resilient block back, or abort an atomic one, in place of their trap (R257, R260). -/
def rollsBack (c : Cause) : Bool := c.code == 0x11 || c.code == 0x12 || c.code == 0x13

/-- A failed signature or echo check writes its record (R377 to R379). -/
def checkRecord (s : State) (g : Group) (unit code : Nat) : State :=
  let P := s.party g
  partyError s P unit (if (s.block? g.bid).isSome then abortAction s P else 1) code 0 none

/-- A failed SIGCHK writes its record as it raises SIGNATURE; an echo mismatch has written its own (R376, R379). -/
def noteCheck (s : State) (g : Group) (c : Cause) : State := if c.code == 0x12 then checkRecord s g 11 0x12 else s

/-- The launch mode's containment of a trap at a block's split, where the mode has one: a resilient block's first three roll it
back, and an atomic block that has not committed aborts (R257, R260) (DEDUCED, log entry 61). -/
def containment (s : State) (b? : Option Block) (contain : Bool) : Option State :=
  match b? with
  | none => none
  | some b =>
    if contain && s.modeOf b == 1 && b.rollbacks < 3 && b.shadow.isSome then
      match b.shadow with
      | some sh => some (rollback s b sh)
      | none => some s
    else if contain && s.modeOf b == 2 && !b.committed then some (abortAtomic s b)
    else none

/-- Raise a cause at a split: the launch mode's containment (R257, R260), the supervisor fault of R341, or the trap of R43.
The outstanding results of the group return first (R53), and the split's echo entries are dropped unchecked (R376) (DEDUCED, log entry 61). -/
def raiseAt (s0 : State) (gid i : Nat) (pc : Pc) (c : Cause) (contain : Bool) : State :=
  match s0.group? gid with
  | none => s0
  | some g =>
    let s := noteCheck s0 g c
    let b? := s.block? g.bid
    match containment s b? contain with
    | some s1 => s1
    | none =>
      let s1 := if b?.isSome then { s with fe := { s.fe with echo := s.fe.echo.filter (fun e => !(e.gid == gid && e.sp == i)) } } else s
      if g.mode then supervisorFault s1 g i pc c else enterTrap (drainGroup s1 gid) gid i pc c

/-- Count an instruction issued for a group's tenancy (R392). -/
def issued (s : State) (g : Group) : State := s.count 0x01 (s.party g).tenancy 1

/-- Raise a cause at the issuing split's own instruction, which has issued (R392) and does not retire. -/
def trapHere (s : State) (g : Group) (p : Split) (c : Cause) : Result :=
  .next (raiseAt (issued s g) g.gid p.idx p.pc c (rollsBack c))

/-- Raise a whole-split cause with TRAPADDR 0. -/
def trapCode (s : State) (g : Group) (p : Split) (code : Nat) : Result := trapHere s g p (.mk' code p.active 0)

/-- ILLEGAL_OPERAND at the issuing instruction (R66). -/
def illegalOperand (s : State) (g : Group) (p : Split) : Result := trapCode s g p 0x02

/-- PRIVILEGE at the issuing instruction (R42). -/
def privilege (s : State) (g : Group) (p : Split) : Result := trapCode s g p 0x03

/-! ## Retiring (R47, R377) -/

/-- The state of a split after an instruction that retires: EBB for an E bit with results outstanding (R47). -/
def stateAfter (e : Bool) (g : Group) (p : Split) : SplitState :=
  if e && p.outst != 0 then .ebb else runState g p

/-- What the retiring of an instruction brings with it: the MEM_ABORT of a run that this instruction's ebb closes (R52), and
the STEP trap (R213). A split that a sibling's handler holds reports them when the handler has returned (R43). -/
def afterRetire (s : State) (gid i : Nat) (e : Bool) (stepDue : Bool) : State :=
  match s.split? gid i with
  | none => s
  | some (_, p) =>
    if p.frozen then
      if stepDue || (e && p.abort.isSome) then s.mapSplit gid i (fun q => { q with st := .ebb, stepDue }) else s
    else
      let step := if stepDue then raiseAt s gid i p.pc (.mk' 0x18 p.active 0) false else s
      match p.abort with
      | some pa =>
        if e && p.outst == 0 then
          raiseAt (s.mapSplit gid i (fun q => { q with abort := none })) gid i p.pc (.mk' 0x11 p.active (BitVec.ofNat 64 pa)) true
        else step
      | none => step

/-- Retire the issuing instruction: `g` and `p` are the group and split with the instruction's results, `pc'` the next PC,
`sg` the new SIG (DEDUCED, log entry 49). -/
def retireSig (e : Bool) (pc' : Pc) (sg : Word) (s : State) (g : Group) (p : Split) : Result :=
  let p' := { p with pc := pc', sig := sg, st := stateAfter e g p, fmask := 0, faddr := [], phase := 0, appends := none, tagWait := none, trapStep := false,
                     stepOne := false, stepEnd := p.stepOne && stateAfter e g p == .ebb, order := s.seq }
  .next (afterRetire ({ (issued s g).put g p' with seq := s.seq + 1 }) g.gid p.idx e p.trapStep)

/-- Retire the issuing instruction with the hash of R377. -/
def retireTo (i : Instr) (e : Bool) (pc' : Pc) (s : State) (g : Group) (p : Split) : Result :=
  retireSig e pc' (sigAfter i g p) s g p

/-- Retire the issuing instruction at the next word. -/
def retire (i : Instr) (e : Bool) (s : State) (g : Group) (p : Split) : Result := retireTo i e (pcAfter i p) s g p

/-! ## Parking and releasing -/

/-- Park the issuing split at its instruction; it goes on at `pc'` when the park ends (R30). -/
def parkTo (i : Instr) (e : Bool) (st : SplitState) (pk : Park) (pc' : Pc) (s : State) (g : Group) (p : Split) : State :=
  { (issued s g).put g { p with st, park := pk, next := pc', nextSig := sigAfter i g p, nextEbb := e, stepOne := false, stepEnd := p.stepOne } with seq := s.seq + 1 }

/-- A parked split goes on at its continuation (R30, R358). -/
def releaseSplit (s : State) (gid i : Nat) : State :=
  match s.split? gid i with
  | none => s
  | some (g, p) =>
    let s1 := s.mapSplit gid i (fun q =>
      { q with pc := p.next, sig := p.nextSig, park := .none, st := stateAfter p.nextEbb g p, phase := 0, fmask := 0, faddr := [], order := s.seq,
               trapStep := false, stepEnd := p.stepEnd && (p.frozen || stateAfter p.nextEbb g p == .ebb) })
    afterRetire { s1 with seq := s.seq + 1 } gid i p.nextEbb p.trapStep

/-- A parked split is set back to its parking instruction (R343, R418). -/
def unparkSplit (g : Group) (q : Split) : Split := { q with park := .none, st := runState g q, phase := 0, tagWait := none, stepEnd := false }

/-- A cause reaches a parked split (R418): it is released to its parking instruction, and the cause is raised there while the
group is in user mode and its block is neither leaving nor saved. Otherwise no trap is raised: the split executes the instruction
again when it next issues, and meets the cause afresh. The launch mode's containment comes first (R257, R260) (DEDUCED, log entry 27; DEDUCED, log entry 61). -/
def raiseReleased (s : State) (gid i code addr : Nat) (contain : Bool) : State :=
  match s.split? gid i with
  | none => s
  | some (g, q) =>
    let s1 := s.mapSplit gid i (fun x => { unparkSplit g x with stepEnd := x.stepEnd })
    let b? := s.block? g.bid
    let stays := match b? with | some b => b.st == .running && !evicted b g | none => false
    if (stays && !g.mode) || (containment s1 b? contain).isSome then
      raiseAt s1 gid i q.pc (.mk' code q.active (BitVec.ofNat 64 addr)) contain
    else s1

/-- A split in EBB with nothing outstanding goes on, or reports the MEM_ABORT of its run, or a STEP that is due. A split that a sibling's handler
holds waits for the RTE (R43, R47, R52, R213). -/
def settleSplit (s : State) (gid i : Nat) : State :=
  match s.split? gid i with
  | none => s
  | some (g, p) =>
    if p.st == .ebb && p.outst == 0 && !p.frozen then
      match p.abort with
      | some pa =>
        raiseAt (s.mapSplit gid i (fun q => { q with abort := none, stepDue := false, st := runState g q })) gid i p.pc
          (.mk' 0x11 p.active (BitVec.ofNat 64 pa)) true
      | none =>
        if p.stepDue then
          raiseAt (s.mapSplit gid i (fun q => { q with stepDue := false, st := runState g q })) gid i p.pc (.mk' 0x18 p.active 0) false
        else s.mapSplit gid i (fun q => { q with st := runState g q, stepEnd := false, order := s.seq })
    else s

/-- After results have returned, or a handler has: every split of the group that no longer waits goes on (R47, R52). -/
def settleGroup (s : State) (gid : Nat) : State := (List.range 4).foldl (fun s i => settleSplit s gid i) s

/-- Go on with a split as the state now holds it: performing an access may have woken its siblings. -/
def again (s : State) (gid i : Nat) (k : Group → Split → Result) : Result :=
  match s.split? gid i with
  | some (g, p) => k g p
  | none => .next s

/-- The issuing instruction suspends fetch: nothing of the split issues until the instruction can complete (R189). It is
looked at again at the split's next turn. -/
def suspend (s : State) : Result := .next s

/-- The issuing split's instruction, run with the issuing group and split (DESIGN CHOICE, log entry 66). -/
def withIssuer (s : State) (k : Group → Split → Result) : Result :=
  match issuer s with
  | some (g, p) => k g p
  | none => .fault .noIssuer

/-- An event changes the state (DESIGN CHOICE, log entry 65). -/
def event (s : State) : Result := .next s

/-- A host write of the register at an offset of BAR0 past the first 0x20 bytes, as some functions see it: discarded until boot is complete (R410); it
wakes the WAITs that watch its sector (R186). -/
def barRow (fns : List Nat) (off : Nat) (s : State) (k : State → State) : Result :=
  if s.sys.stage != .ready then .next s else .next (k (fns.foldl (fun s fn => wakeBar s fn off) s))

/-! ## Leaving results outstanding (R48) -/

/-- An access of the group is not performed yet. -/
def unperformed (g : Group) (n : Nat) : Bool := (groupBuffer g).any (fun x => x.seq == n) || g.pending.any (fun x => x.seq == n)

/-- The earlier accesses of a split that are not performed yet. -/
def pastOf (g : Group) (p : Split) : List Nat := p.past.filter (unperformed g)

/-- Add an outstanding result of the issuing split: the registers' OUTSTANDING bits are set in it. -/
def addPending (s : State) (g : Group) (p : Split) (view : Nat) (regs : RegSet) (parts : List LaneResult) : Group × Split :=
  let x : Pending := { seq := s.seq, after := pastOf g p, sp := p.idx, view, regs, parts }
  ({ g with pending := g.pending ++ [x] }, { p with outst := p.outst ||| regs, past := pastOf g p ++ [s.seq] })

/-- The set of registers `r .. r + n - 1`. -/
def regRange (r n : Nat) : RegSet := (List.range n).foldl (fun m i => m ||| (1#128 <<< (r + i))) 0

/-- The view a group's accesses go through. -/
def State.viewOf (s : State) (g : Group) : Nat := ((s.block? g.bid).map (·.view)).getD 0

/-! ## Echo (R375) -/

/-- The oldest entries of a scheduler beyond 16 are dropped (DEDUCED, log entry 50). -/
def trimEcho (sched : Nat) (l : List EchoEntry) : List EchoEntry :=
  let n := (l.filter (fun e => e.sched == sched)).length
  if n ≤ 16 then l
  else
    match l.findIdx? (fun e => e.sched == sched) with
    | some i => l.eraseIdx i
    | none => l

/-- The scheduler number of a group on the package: 4 a core. -/
def schedOf (s : State) (g : Group) : Nat :=
  let P := s.party g
  4 * (4 * P.cluster + P.core) + g.sched

/-- An instruction that may be echoed enters its scheduler's queue at issue (R375) (DEDUCED, log entry 50). -/
def pushEcho (s : State) (g : Group) (p : Split) (i : Instr) (sources results : List Word) (rflags : List (BitVec 5)) : State :=
  let e : EchoEntry :=
    { sched := schedOf s g, gid := g.gid, sp := p.idx, addr := p.pc, word := encodeWord i, fmt := p.fmt, lanes := p.active,
      left := p.active, sources, results, rflags, age := 0 }
  { s with fe := { s.fe with echo := trimEcho e.sched (s.fe.echo ++ [e]) } }

end Sys2Proof.Machine
end

