-- ==== Sys2Proof/Machine/Flags.lean ====
section
/-! DEFINITION. Exception flags of lanes: the union that FCSR enables, the lanes that raised one, and the FP trap
(07_lane_float_convert.md R149, R150). -/

namespace Sys2Proof.Machine

/-- The union of the active lanes' flags that FCSR enables (R149). -/
def enabledUnion (g : Group) (m : LaneMask) (f : Nat → Flags) : Flags :=
  (lanesOf m).foldl (fun u l => u ||| (f l &&& g.fcsr)) 0

/-- The active lanes that raised an enabled flag (R149). -/
def raisingLanes (g : Group) (m : LaneMask) (f : Nat → Flags) : LaneMask :=
  maskOf ((lanesOf m).filter (fun l => f l &&& g.fcsr != 0))

/-- OR each active lane's flags into its FFLAGS (R149). -/
def orLanes (g : Group) (m : LaneMask) (f : Nat → Flags) : Group := (lanesOf m).foldl (fun g l => orFlags g l (f l)) g

/-- The union of the active lanes' flags (R146, R147). -/
def unionFlags (m : LaneMask) (f : Nat → Flags) : Flags := (lanesOf m).foldl (fun u l => u ||| f l) 0

/-- Raise FP (R149) (DEDUCED, log entry 28). -/
def fpTrap (s : State) (g : Group) (p : Split) (f : Nat → Flags) : Result :=
  trapHere s g p ⟨0x10, raisingLanes g p.active f, 0, enabledUnion g p.active f⟩

/-- Go on unless the lanes' flags trap (R149) (DEDUCED, log entry 28). -/
def unlessFp (s : State) (g : Group) (p : Split) (f : Nat → Flags) (k : Result) : Result :=
  if enabledUnion g p.active f = 0 then k else fpTrap s g p f

/-- FMT.RM of a split (R37). -/
def fmtRm (p : Split) : RMode := RMode.ofRm (p.fmt.toNat % 8)

/-- FMT.SAT of a split (R37). -/
def fmtSat (p : Split) : Bool := p.fmt.getLsbD 3

/-- FMT.NARROW of a split (R37). -/
def fmtNarrow (p : Split) : Nat := p.fmt.toNat / 16 % 16

/-- FMT.OUTCAP of a split (R37). -/
def fmtOutcap (p : Split) : Bool := p.fmt.getLsbD 18

/-- The mode of a rounding slot (R148). -/
def slotRm (r : FRnd) (p : Split) : RMode :=
  match r with
  | .fmt => fmtRm p
  | .rne => .rne
  | .rz => .rz
  | .rdn => .rdn
  | .rup => .rup

end Sys2Proof.Machine
end

