-- ==== Sys2Proof/Machine/Operands.lean ====
section
/-! DEFINITION. The operand forms that lane instructions share (06_lane_integer_exchange.md R125, R126, R128, R141;
07_lane_float_convert.md R148 to R150): which operands are legal, what is read, what is written, what enters the echo
queue, and how the instruction retires. -/

namespace Sys2Proof.Machine

/-- Raise ILLEGAL_OPERAND unless the operands are legal (R64, R66). -/
def ifLegal (ok : Bool) (s : State) (g : Group) (p : Split) (k : Result) : Result :=
  if ok then k else illegalOperand s g p

/-- Lane l of a predicate. -/
def predBit (g : Group) (k : PredNum) (l : Nat) : Bool := laneIn (readPred g k.toNat) l

/-- A bit as a word. -/
def bitWord (b : Bool) : Word := if b then 1 else 0

/-- The values that the active lanes read from sources and predicates, in lane order. -/
def sourceValues (g : Group) (p : Split) (srcs : List Src) (preds : List PredNum) : List Word :=
  (lanesOf p.active).flatMap (fun l => srcs.map (fun a => srcVal g a l) ++ preds.map (fun k => bitWord (predBit g k l)))

/-- The values of the active lanes, in lane order. -/
def laneList (p : Split) (f : Nat → Word) : List Word := (lanesOf p.active).map f

/-- The mask of the lanes in which a test holds. -/
def testMask (f : Nat → Bool) : LaneMask := maskOf ((List.range 32).filter f)

/-- A lane instruction that writes a word in each active lane: legal operands, then one write and the retirement
(R125). `echo` says whether R127 lets the echo queue hold it. -/
def laneWord (i : Instr) (e echo : Bool) (d : RegNum) (srcs : List Src) (preds : List PredNum) (f : Group → Split → Nat → Word)
    (s : State) : Result :=
  withIssuer s (fun g p =>
    ifLegal (laneDstOk g d && srcs.all (srcOk g)) s g p
      (let s1 := if echo then pushEcho s g p i (sourceValues g p srcs preds) (laneList p (f g p)) [] else s
       retire i e s1 (writeLanes g d.toNat p.active (f g p)) p))

/-- A lane instruction that writes a predicate (R126). -/
def lanePred (i : Instr) (e echo : Bool) (d : PredNum) (srcs : List Src) (preds : List PredNum) (f : Group → Split → Nat → Bool)
    (s : State) : Result :=
  withIssuer s (fun g p =>
    ifLegal (srcs.all (srcOk g)) s g p
      (let s1 := if echo then pushEcho s g p i (sourceValues g p srcs preds) (laneList p (fun l => bitWord (f g p l))) [] else s
       retire i e s1 (writePred g d.toNat p.active (testMask (f g p))) p))

/-- A lane instruction that raises flags: R149 decides between the FP trap and the write. -/
def laneFloat (i : Instr) (e echo : Bool) (d : RegNum) (srcs : List Src) (f : Group → Split → Nat → Word × Flags) (s : State) :
    Result :=
  withIssuer s (fun g p =>
    ifLegal (laneDstOk g d && srcs.all (srcOk g)) s g p
      (let s1 := if echo then pushEcho s g p i (sourceValues g p srcs []) (laneList p (fun l => (f g p l).1))
          ((lanesOf p.active).map (fun l => (f g p l).2)) else s
       unlessFp s g p (fun l => (f g p l).2)
        (retire i e s1 (orLanes (writeLanes g d.toNat p.active (fun l => (f g p l).1)) p.active (fun l => (f g p l).2)) p)))

/-- A lane comparison that raises flags (R154, R160): `d2` takes the second element's result. -/
def laneFloatPred (i : Instr) (e : Bool) (d : Nat) (d2 : Option Nat) (ok : Bool) (srcs : List Src)
    (f : Group → Nat → Bool × Bool × Flags) (s : State) : Result :=
  withIssuer s (fun g p =>
    ifLegal (ok && srcs.all (srcOk g)) s g p
      (let s1 := pushEcho s g p i (sourceValues g p srcs [])
          (laneList p (fun l => bitWord (f g l).1 + (if d2.isSome then 2 * bitWord (f g l).2.1 else 0)))
          ((lanesOf p.active).map (fun l => (f g l).2.2))
       let g1 := writePred g d p.active (testMask (fun l => (f g l).1))
       let g2 := match d2 with
        | some n => writePred g1 n p.active (testMask (fun l => (f g l).2.1))
        | none => g1
       unlessFp s g p (fun l => (f g l).2.2) (retire i e s1 (orLanes g2 p.active (fun l => (f g l).2.2)) p)))

/-- One lane's part of a result that is computed at issue. -/
def valuePart (d l : Nat) (w : Word) (fl : Flags) : LaneResult :=
  { lane := l, dests := if d < 96 then [.vec d l] else [], vals := [w], load := none, sext := false, scope := .blk, flags := fl }

/-- A lane instruction whose result is outstanding (R48, R128): the values, fixed at issue (R141), are written when the
result returns, with the lanes' flags (DEDUCED, log entry 62). -/
def laneOutstanding (i : Instr) (e : Bool) (d : RegNum) (srcs : List Src) (f : Group → Split → Nat → Word × Flags) (s : State) :
    Result :=
  withIssuer s (fun g p =>
    ifLegal (laneDstOk g d && srcs.all (srcOk g)) s g p
      (let r := addPending s g p 0 (regRange d.toNat 1) ((lanesOf p.active).map (fun l => valuePart d.toNat l (f g p l).1 (f g p l).2))
       retire i e s r.1 r.2))

/-- FDIVS and the F major (R150): outstanding, or decided by R149 at the return, for which fetch waits, while FCSR enables a
flag that the instruction can raise. -/
def laneSpecial (i : Instr) (e : Bool) (d : RegNum) (srcs : List Src) (can : Flags) (f : Group → Split → Nat → Word × Flags)
    (s : State) : Result :=
  withIssuer s (fun g _ =>
    if g.fcsr &&& can = 0 then laneOutstanding i e d srcs f s else laneFloat i e false d srcs f s)

/-- The rounding of one row of lanes to FP32 (R111, R112, R148): the exact values, and the SAT = 0 column of R114. -/
def roundLanes (fmt : FloatFmt) (rm : RMode) (sat : Bool) (active : LaneMask) (v : Nat → Ext) (l : Nat) : Nat × Flags :=
  let h := match rm with
    | .sr => rowHash (fun j => if laneIn active j then dField fmt (v j) else 0) l
    | _ => 0
  roundFloat fmt rm sat h (v l)

/-- `roundLanes` to FP32. -/
def roundLanes32 (rm : RMode) (active : LaneMask) (v : Nat → Ext) (l : Nat) : Word × Flags :=
  let r := roundLanes (fltFmt 0) rm false active v l
  (BitVec.ofNat 32 r.1, r.2)

/-- The FP32 value of a source in a lane. -/
def srcF (g : Group) (a : Src) (l : Nat) : Ext := fp32 (srcVal g a l)

end Sys2Proof.Machine
end

