-- ==== Sys2Proof/Machine/Access.lean ====
section
/-! DEFINITION. The steps that every global access shares: checking all its lanes before any is performed
(08_memory_access.md R175; 21 R365), parking on replayable faults, keeping one split's accesses to a byte in program order
(R173, R262), and performing buffered stores and pending loads (R174, R264). -/

namespace Sys2Proof.Machine

/-! ## Findings (R175, R287) -/

/-- What the checks find for one lane, in the order of R175. `stall` stops the whole access: the page is moving,
or no view sector is free until dead ones are reclaimed. -/
inductive Finding where
  | ok (l : Leaf)
  | align | access | translation | abort | external | exhausted | replay | stall
deriving DecidableEq, Repr

/-- View sectors a site's LLC can hold (R364). -/
def llcSectors : Nat := 4 * 2 ^ 20

/-- Sectors a site's spill area can hold (R367). -/
def spillSectors (s : State) (site : Nat) : Nat := (s.sys.viewSize.getD site 0).toNat * 16384

/-- The view sectors held on a site (R367, VIEWUSED) (DEDUCED, log entry 34). -/
def siteSectors (s : State) (site : Nat) : List ViewSector := s.mm.sectors.filter (fun x => homeSite (64 * x.pa) == site)

/-- Reserve a view sector at its home site: in the LLC, else in the spill area; wait while dead sectors of the site are being
reclaimed (R365) (DEDUCED, log entry 34). -/
def reserveSector (s : State) (tenancy v va pa : Nat) : State × Finding :=
  if (s.viewSector? v (pa / 64)).isSome then (s, .ok ⟨pa, 0, true, false, 4096⟩)
  else
    let site := homeSite pa
    let held := siteSectors s site
    let inLlc := (held.filter (fun x => !x.spilled)).length
    let inSpill := (held.filter (fun x => x.spilled)).length
    let add (sp : Bool) : State :=
      { s with mm := { s.mm with sectors := s.mm.sectors ++
        [{ view := v, tenancy, pa := pa / 64, va := va / 64, data := 0, mask := 0, scope := .blk, spilled := sp, dead := false, bad := false }] } }
    if inLlc < llcSectors then (add false, .ok ⟨pa, 0, true, false, 4096⟩)
    else if inSpill < spillSectors s site then (add true, .ok ⟨pa, 0, true, false, 4096⟩)
    else (s, if held.any (fun x => x.dead) then .stall else .exhausted)

/-- The translation of an access: none is needed by a load that hits a sector of the core's L1, nor by a store that hits one with write
permission (R279). -/
def translateOrHit (s : State) (P : Party) (va n : Nat) (k : AccessKind) : State × Trans :=
  match (if k == .fetch then none else l1Hit s P P.markClu P.markDev va n) with
  | some x => if k == .load || x.wperm then (s, .ok ⟨64 * x.pa + va % 64, 0, x.wperm, false, 4096⟩) else translate s P va k
  | none => translate s P va k

/-- Check one lane: alignment to `n`, the range test, the translation, the view rules (R175). `noExt` says that the access
may not reach an EXT page from a view; `writes`, that it reserves a view sector. -/
def checkOne (s : State) (P : Party) (k : AccessKind) (noExt writes : Bool) (n va : Nat) : State × Finding :=
  if va % n != 0 then (s, .align)
  else if !addrInRange va then (s, .access)
  else
    match translateOrHit s P va n k with
    | (s1, .ok l) =>
      if P.view != 0 && l.attr == 2 && noExt then (s1, .external)
      else if writes && pageMoving s1 P.asid va then (s1, .stall)
      else if P.view != 0 && writes && l.attr != 2 then
        match reserveSector s1 P.tenancy P.view va l.pa with
        | (s2, .ok _) => (s2, .ok l)
        | (s2, f) => (s2, f)
      else (s1, .ok l)
    | (s1, .access) => (s1, .access)
    | (s1, .translation) => (s1, .translation)
    | (s1, .replay) => (s1, .replay)
    | (s1, .abort) => (s1, .abort)
    | (s1, .stall) => (s1, .stall)

/-- Check lanes in order: lane, address, finding (DEDUCED, log entry 26). -/
def checkAll (s : State) (P : Party) (k : AccessKind) (noExt writes : Bool) (n : Nat) :
    List (Nat × Nat) → State × List (Nat × Nat × Finding)
  | [] => (s, [])
  | (l, va) :: r =>
    let c := checkOne s P k noExt writes n va
    let q := checkAll c.1 P k noExt writes n r
    (q.1, (l, va, c.2) :: q.2)

/-- The trap codes of findings, in the order in which R175 reports them (DEDUCED, log entry 26). -/
def findingCodes : List (Finding × Nat) :=
  [(.align, 0x04), (.access, 0x05), (.translation, 0x06), (.abort, 0x11), (.external, 0x0E), (.exhausted, 0x0D)]

/-- The trap that findings give: the first cause of R175 that any lane has, its lanes, the lowest one's address (DEDUCED, log entry 26). -/
def findingTrap (fs : List (Nat × Nat × Finding)) : Option (Nat × LaneMask × Nat) :=
  findingCodes.findSome? (fun c =>
    match fs.filter (fun x => x.2.2 == c.1) with
    | [] => none
    | x :: r => some (c.2, maskOf ((x :: r).map (·.1)), x.2.1))

/-- The lanes whose checks passed. -/
def okLanes (fs : List (Nat × Nat × Finding)) : List (Nat × Nat × Leaf) :=
  fs.filterMap (fun x => match x.2.2 with | .ok l => some (x.1, x.2.1, l) | _ => none)

/-- The lanes that meet a replayable fault (DEDUCED, log entry 27). -/
def replayLanes (fs : List (Nat × Nat × Finding)) : List (Nat × Nat) :=
  fs.filterMap (fun x => match x.2.2 with | .replay => some (x.1, x.2.1) | _ => none)

/-- Check an access of the issuing split, and go on with the lanes that passed and the lanes to replay; or trap, or suspend
fetch (R175). A replayed instruction leaves alone the lanes whose page's fault is still unanswered (R294). `whole` gives the
trap mask of a cause that belongs to the whole split. -/
def withChecked (s : State) (g : Group) (p : Split) (P : Party) (k : AccessKind) (noExt writes : Bool) (n : Nat)
    (whole : Option LaneMask) (lanes : List (Nat × Nat)) (go : State → List (Nat × Nat × Leaf) → List (Nat × Nat) → Result) :
    Result :=
  let waits := lanes.filter (fun x => p.st == .fault && faultPending s P.asid x.2)
  let ready := lanes.filter (fun x => !(p.st == .fault && faultPending s P.asid x.2))
  let r := checkAll s { P with markClu := p.scClu, markDev := p.scDev } k noExt writes n ready
  match findingTrap r.2 with
  | some (code, m, va) => again r.1 g.gid p.idx (fun g p => trapHere r.1 g p (.mk' code (whole.getD m) (BitVec.ofNat 64 va)))
  | none => if r.2.any (fun x => x.2.2 == .stall) then suspend r.1 else go r.1 (okLanes r.2) (waits ++ replayLanes r.2)

/-- The lanes an instruction still has to perform: the unfinished ones of a replay, else the active ones (R175). -/
def unfinished (p : Split) : LaneMask := if p.st == .fault then p.fmask else p.active

/-- The lanes still to perform with their addresses; a replay keeps the addresses that faulted. -/
def laneAddrs (p : Split) (addr : Nat → Nat) : List (Nat × Nat) :=
  (lanesOf (unfinished p)).map (fun l =>
    (l, if p.st == .fault then ((p.faddr.find? (fun x => x.1 == l)).map (·.2)).getD (addr l) else addr l))

/-- The launch sequence number of a group. -/
def launchSeq (s : State) (g : Group) : DWord := (((s.block? g.bid).bind (fun b => s.launch? b.lid)).map (·.seq)).getD 0

/-- Park the split in FAULT with its unfinished lanes, and deliver their faults (R175, R293). Numbers from 32 on stand for pieces
of an access of the whole split. -/
def parkFault (s : State) (P : Party) (gid i : Nat) (wr fetch : Bool) (rest : List (Nat × Nat)) : State :=
  match s.group? gid with
  | none => s
  | some g =>
    let m (q : Split) : LaneMask := if rest.all (fun x => decide (x.1 < 32)) then maskOf (rest.map (·.1)) else q.active
    let s1 := s.mapSplit gid i (fun q => { q with st := .fault, fmask := m q, faddr := rest, stepOne := false, stepEnd := q.stepOne })
    rest.foldl (fun s x => deliverFault s P x.2 wr fetch false 0 g.index (launchSeq s g)) s1

/-! ## Program order of one split (R173, R262, R268) -/

/-- Two places overlap, for `n` and `m` bytes. -/
def placeOverlaps (x : Place) (n : Nat) (y : Place) (m : Nat) : Bool :=
  match x, y with
  | .global a _ _ _, .global b _ _ _ => overlaps a n b m
  | .pool a, .pool b => overlaps a n b m
  | _, _ => false

/-- Two EXT places on one page (R262). -/
def sameExtPage (x y : Place) : Bool :=
  match x, y with
  | .global a _ 2 m, .global b _ 2 n => a / max m n == b / max m n
  | _, _ => false

/-- A place's bytes must wait for another's: they overlap, or both are on one EXT page (DEDUCED, log entry 7). -/
def mustFollow (x : Place) (n : Nat) (y : Place) (m : Nat) : Bool := placeOverlaps x n y m || sameExtPage x y

/-- A load among the accesses `after` still has to read bytes of the place. -/
def olderLoad (g : Group) (after : List Nat) (pl : Place) (n : Nat) : Bool :=
  g.pending.any (fun x => after.contains x.seq &&
    x.parts.any (fun r => match r.load with | some (y, m) => mustFollow pl n y m | none => false))

/-- A store among the accesses `after` still has to write bytes of the place. -/
def olderStore (g : Group) (after : List Nat) (pl : Place) (n : Nat) : Bool :=
  (groupBuffer g).any (fun y => after.contains y.seq && mustFollow pl n y.place y.bytes.length)

/-! ## Pins and owned lines (R226, R273) -/

/-- The access must wait at the directory: an engine owns its line (R240, R273). -/
def heldLine (s : State) (pl : Place) : Bool :=
  match pl with
  | .global pa _ attr _ => attr != 2 && lineOwned s pa
  | .pool _ => false

/-- The access must wait: the bytes that the party's own copies of its sector hold cannot be cleaned to the sector's home yet (R173, R226). -/
def heldDirty (s : State) (P : Party) (pl : Place) : Bool :=
  match pl with
  | .global pa _ _ _ => isDram (localOf s pa) && dirtyHeld s P (localOf s pa)
  | .pool _ => false

/-! ## Performing buffered stores (R174, R264) -/

/-- The write of a store meets an abort completion: a flit that failed, no key, a failed sector that it does not cover whole, an EXT target
that does not answer (R176, R371, R373, R387, R399). -/
def storeFails (s : State) (P : Party) (pl : Place) (n : Nat) : Bool :=
  match pl with
  | .pool _ => false
  | .global pa _ attr _ =>
    if flitFails s pa then true
    else if attr = 2 then !extOk s P pa n
    else if P.view == 0 then (keyOf s P.tenancy).isNone || (sectorFails s pa && decide (n < 64))
    else (s.viewSector? P.view (pa / 64)).any (fun x => x.bad) && decide (n < 64)

/-- The place goes over the link to another device (R386). -/
def overLink (s : State) : Place → Bool
  | .global pa _ attr _ => attr == 2 && isRemote (localOf s pa)
  | .pool _ => false

/-- The link request of a split's buffered store: the requests of its order stand as its stores do (R387). -/
def storeLink (s : State) (gid i : Nat) (x : BufStore) : Option LinkReq :=
  let before := ((s.split? gid i).map (fun y => y.2.buffer.takeWhile (fun z => z != x))).getD []
  (s.en.link.filter (fun y => y.gid == gid && y.sp == i && y.seq == x.seq && y.isStore))[(before.filter (fun z => z.seq == x.seq && overLink s z.place)).length]?

/-- The link request of a store that is performed, or has failed, ends. -/
def dropLink (s : State) (gid i : Nat) (x : BufStore) : State :=
  if !overLink s x.place then s
  else
    match storeLink s gid i x with
    | some y => { s with en := { s.en with link := s.en.link.filter (fun z => z.id != y.id) } }
    | none => s

/-- A store is not performed: it is recorded for its split's next covering FENCE (R176, R387). -/
def failEntry (s : State) (gid i : Nat) (P : Party) (pa va : Nat) (sc : Scope) : State :=
  abortTo (s.mapSplit gid i (fun q => { q with storeErrs := q.storeErrs ++ [(pa / 64 * 64, sc)] })) P pa va 1

/-- A store that a pin holds, or has held, of any split, was issued before this one to some of its bytes: held stores keep their order (R334). -/
def heldBefore (s : State) (x : BufStore) : Bool :=
  s.fe.groups.any (fun g => (groupBuffer g).any (fun y =>
    decide (y.seq < x.seq) && placeOverlaps x.place x.bytes.length y.place y.bytes.length &&
      (y.held || pinned s y.place y.bytes.length)))

/-- The store may be performed: nothing older of its split must go first, no pin holds it or an older store to its bytes, and no engine owns
its line (R226, R334). -/
def entryReady (s : State) (g : Group) (p : Split) (x : BufStore) : Bool :=
  !olderLoad g x.after x.place x.bytes.length && !olderStore g x.after x.place x.bytes.length &&
    !((p.buffer.takeWhile (fun y => y != x)).any (fun y => y.seq == x.seq && mustFollow x.place x.bytes.length y.place y.bytes.length)) &&
    !pinned s x.place x.bytes.length && !heldLine s x.place && !heldBefore s x

/-- The bytes of a store's sector that the stores of its instruction which the split still buffers write together: data and mask. -/
def coverOf (q : Split) (x : BufStore) : List BufStore × BitVec 512 × BitVec 64 :=
  let sec (y : BufStore) : Option Nat := match y.place with | .global pa _ attr _ => if attr = 2 then none else some (pa / 64) | .pool _ => none
  let ys := q.buffer.filter (fun y => y.seq == x.seq && y.view == x.view && (sec y).isSome && sec y == sec x)
  ys.foldl (fun r y =>
    match y.place with
    | .global pa _ _ _ => (r.1, putSector r.2.1 (pa % 64) y.bytes, r.2.2 ||| byteMask (pa % 64) y.bytes.length)
    | .pool _ => r) (ys, 0, 0)

/-- A store's bytes stay in the L1 for now: a WB page, at BLK or CLU scope, with room for its line (R174). -/
def staysInL1 (s : State) (P : Party) (va pa attr : Nat) (sc : Scope) : Bool :=
  attr == 0 && (sc == .blk || sc == .clu) && (makeRoomL1 s P va pa).2

/-- A buffered store's completion time, for the splits that hold the store (R174). -/
def noteStore (s : State) (gid seq t : Nat) : State :=
  s.mapGroup gid (fun g => g.mapSplits (fun q => if q.past.contains seq then { q with gwct := max q.gwct t } else q))

/-- Perform a store at its place; the split keeps the largest completion time, and a store that fails is recorded for its
next covering FENCE (R174, R176). The stores of one instruction that cover a failed sector whole are performed as one (R373). A pool's failed sector
stays failed, whatever a store covers, until its segment is freed (DESIGN CHOICE, log entry 87). -/
def performEntry (s : State) (gid i : Nat) (P : Party) (x : BufStore) : State :=
  let drop (s : State) (ys : List BufStore) : State :=
    s.mapGroup gid (fun g => g.mapSplits (fun q => { q with buffer := q.buffer.filter (fun y => !ys.contains y) }))
  let s0 := drop (dropLink s gid i x) [x]
  match x.place with
  | .pool key => { s0 with mm := { s0.mm with scratch := ssetMany s0.mm.scratch key x.bytes } }
  | .global pa va attr _ =>
    let P' := { P with view := x.view, writer := some (gid, i) }
    if storeFails s P' x.place x.bytes.length && !staysInL1 s P' va pa attr x.scope then
      match s.split? gid i with
      | some (g, q) =>
        let c := coverOf q x
        if c.2.2 == BitVec.allOnes 64 && (keyOf s P.tenancy).isSome then
          if c.1.all (fun y => entryReady s g q y) then
            let bs := sectorBytes c.2.1 0 64
            noteStore (updateCopies (noteWriters (homeWrite (drop s c.1) P.tenancy x.view (va / 64 * 64) (pa / 64 * 64) bs x.scope) x.view (pa / 64) true x.scope [(gid, i)]) P' (pa / 64 * 64) bs)
              gid x.seq (leaseGwct s pa)
          else s
        else failEntry s0 gid i P pa va x.scope
      | none => failEntry s0 gid i P pa va x.scope
    else
      let r := performStore s0 P' va pa attr x.scope x.bytes
      noteStore r.1 gid x.seq r.2

/-- The buffered stores among a split's own earlier accesses, with the index of the split that holds each. -/
def bufferOf (g : Group) (p : Split) : List (Nat × BufStore) :=
  g.splits.flatMap (fun q => (q.buffer.filter (fun x => p.past.contains x.seq)).map (fun x => (q.idx, x)))

/-- Perform every one of a split's own buffered stores that may be performed, each split's oldest first (DEDUCED, log entry 7). -/
def performBuffer (s : State) (gid i : Nat) : State :=
  match s.split? gid i with
  | none => s
  | some (g0, p0) =>
    (bufferOf g0 p0).foldl (fun s x =>
      match s.split? gid x.1 with
      | some (g, q) => if entryReady s g q x.2 then performEntry s gid x.1 (s.party g) x.2 else s
      | none => s) s

/-! ## Performing pending loads -/

/-- The part's load may be performed. -/
def partReady (s : State) (g : Group) (x : Pending) (r : LaneResult) : Bool :=
  match r.load with
  | none => true
  | some (pl, n) =>
    !olderLoad g x.after pl n && !heldLine s pl && !((match pl with | .global _ _ attr _ => attr != 0 | .pool _ => false) && heldDirty s (s.party g) pl) &&
      !((groupBuffer g).any (fun y => x.after.contains y.seq && sameExtPage pl y.place))

/-- Return the lanes of a split's older results that a new access at the place must follow. -/
def returnOlder (s : State) (gid i : Nat) (pl : Place) (n : Nat) : State :=
  match s.split? gid i with
  | none => s
  | some (g, p) =>
    (g.pending.filter (fun x => p.past.contains x.seq)).foldl (fun s x =>
      let lanes := maskOf ((x.parts.filter (fun r => match r.load with | some (y, m) => mustFollow pl n y m | none => false)).map (·.lane))
      if lanes == 0 then s else returnLanes s gid x lanes) s

/-- Before an access that is performed at its issue: the split's own older accesses to its bytes are performed. -/
def settleOlder (s : State) (gid i : Nat) (places : List (Place × Nat)) : State :=
  if places.isEmpty then s else performBuffer (places.foldl (fun s x => returnOlder s gid i x.1 x.2) s) gid i

/-- An access that is performed at its issue must wait: a pin, an owned line, or an older store of the split that cannot be
performed yet. -/
def mustWait (s : State) (gid i : Nat) (places : List (Place × Nat)) : Bool :=
  match s.split? gid i with
  | some (g, p) => places.any (fun x => pinned s x.1 x.2 || heldLine s x.1 || heldDirty s (s.party g) x.1 || olderStore g p.past x.1 x.2)
  | none => false

/-- Add link requests for the lanes that reach another device (R387) (DEDUCED, log entry 53). -/
def addLinks (s : State) (gid i seq : Nat) (isStore : Bool) (lanes : List (Nat × Nat × Leaf)) : State :=
  let far := lanes.filter (fun x => x.2.2.attr == 2 && isRemote (localOf s x.2.2.pa))
  far.foldl (fun s x =>
    { s with
      nextId := s.nextId + 1
      en := { s.en with link := s.en.link ++
        [{ id := s.nextId, gid, sp := i, seq, lane := x.1, isStore, pa := x.2.2.pa, va := x.2.1, start := s.clock, retries := 0 }] } }) s

/-- A view's outbox has room for `n` entries more (R251). -/
def outboxRoom (s : State) (v n : Nat) : Bool :=
  match s.view? v with
  | some x => decide (x.outbox.length + n ≤ 64)
  | none => false

/-- Append an entry to a view's outbox (R251). -/
def outboxPush (s : State) (v : Nat) (e : OutboxEntry) : State :=
  { s with mm := { s.mm with views := s.mm.views.map (fun x => if x.id == v then { x with outbox := x.outbox ++ [e] } else x) } }

end Sys2Proof.Machine
end

