-- ==== Sys2Proof/Machine/Front.lean ====
section
/-! DEFINITION. What the front end does for queues and device programs alike: reading and writing in a queue's ASID, packets and
their checks (15_scheduling.md R301 to R305), event records (R310; 09 R216), the raft (R315), and flume stages (R316, R317; 16
R321, R322). -/

namespace Sys2Proof.Machine

/-! ## Memory as the front end reaches it -/

/-- The front end's party of a queue, at the queue's home site q mod 4 (R307): its translations are held apart from every cluster's. -/
def feParty (q : Queue) : Party :=
  { cluster := 96 + q.q % 4, core := 0, asid := q.asid, tenancy := q.tenancy, view := 0, part := q.part, bid := 0 }

/-- How a front-end access ends. -/
inductive FeEnd where
  | ok (bs : List Byte)
  | wait | failed
deriving DecidableEq, Repr

/-- Read up to a page's bytes for a unit of a party; a replayable fault is delivered and waits. -/
def partyRead (s : State) (P : Party) (va n : Nat) : State × FeEnd :=
  if !addrInRange va then (s, .failed)
  else
    match translate s P va .load with
    | (s1, .ok l) =>
      match (if l.attr = 2 then extRead s1 P l.pa n else homeRead s1 P.tenancy P.view l.pa n) with
      | some bs => (s1, .ok bs)
      | none => (abortTo s1 P l.pa va 5, .failed)
    | (s1, .replay) => (deliverFault s1 P va false false false 0 0 0, .wait)
    | (s1, .stall) => (s1, .wait)
    | (s1, _) => (s1, .failed)

/-- Write bytes of one sector for a unit of a party. -/
def partyWrite (s : State) (P : Party) (sc : Scope) (va : Nat) (bs : List Byte) : State × FeEnd :=
  if !addrInRange va then (s, .failed)
  else
    match translate s P va .store with
    | (s1, .ok l) =>
      if pageMoving s1 P.asid va || lineOwned s1 l.pa || pinned s1 (.global l.pa va l.attr l.size) bs.length then (s1, .wait)
      else if storeFails s1 P (.global l.pa va l.attr l.size) bs.length then (abortTo s1 P l.pa va 0, .failed)
      else ((performStore s1 P va l.pa l.attr sc bs).1, .ok [])
    | (s1, .replay) => (deliverFault s1 P va true false false 0 0 0, .wait)
    | (s1, .stall) => (s1, .wait)
    | (s1, _) => (s1, .failed)

/-- Write pieces in order, up to the first that waits or fails. -/
def partyWrites (P : Party) (sc : Scope) : List (Nat × List Byte) → State → State × FeEnd
  | [], s => (s, .ok [])
  | x :: r, s =>
    match partyWrite s P sc x.1 x.2 with
    | (s1, .ok _) => partyWrites P sc r s1
    | e => e

/-- Read 64-byte pieces in order. -/
def partyReads (P : Party) (va : Nat) : Nat → State → State × FeEnd
  | 0, s => (s, .ok [])
  | k + 1, s =>
    match partyRead s P va 64 with
    | (s1, .ok bs) =>
      match partyReads P (va + 64) k s1 with
      | (s2, .ok r) => (s2, .ok (bs ++ r))
      | r => r
    | r => r

/-- The front end reads at SYS scope (R300); a replayable fault waits (R305). -/
def feRead (s : State) (q : Queue) (va n : Nat) : State × FeEnd := partyRead s (feParty q) va n

/-- The front end reads `k` 64-byte pieces. -/
def feReadAll (s : State) (q : Queue) (va k : Nat) : State × FeEnd := partyReads (feParty q) va k s

/-- The front end writes at SYS scope. -/
def feWrite (s : State) (q : Queue) (va : Nat) (bs : List Byte) : State × FeEnd := partyWrite s (feParty q) .sys va bs

/-! ## Event records (R216, R310) -/

/-- The 32 bytes of a record. -/
def recordBytes (code payload : Nat) (launch : DWord) (block who clock : Nat) : List Byte :=
  leBytes code 4 ++ leBytes payload 4 ++ leBytes launch.toNat 8 ++ leBytes block 4 ++ leBytes who 4 ++ leBytes clock 8

/-- The event ring has room for a record (DEDUCED, log entry 45). -/
def eventRoom (q : Queue) : Bool :=
  q.evSize != 0 && ((q.evTail.toNat + 32) % q.evSize.toNat != q.evHead.toNat)

/-- Append a record to a queue's event ring: done, or it waits for room or for its page, or its page cannot be written. -/
def postEvent (s : State) (qn : Nat) (bs : List Byte) : State × FeEnd :=
  let q := s.queue qn
  if !eventRoom q then (s, .wait)
  else
    match feWrite s q (q.evBase.toNat + q.evTail.toNat) bs with
    | (s1, .ok _) =>
      (s1.mapQueue qn (fun y => { y with evTail := BitVec.ofNat 32 ((y.evTail.toNat + 32) % y.evSize.toNat) }), .ok [])
    | r => r

/-- A front-end record of R310. -/
def frontRecord (s : State) (code payload : Nat) (seq : DWord) : List Byte :=
  recordBytes code payload seq 0xFFFFFFFF 0 s.clock

/-- Post a front-end record if its ring takes it (DEDUCED, log entry 45). -/
def postFront (s : State) (qn code payload : Nat) (seq : DWord) : State × FeEnd := postEvent s qn (frontRecord s code payload seq)

/-! ## Packets (R301 to R305) -/

/-- Bytes off .. off + n - 1 are 0. -/
def zeroField (bs : List Byte) (off n : Nat) : Bool := ((bs.drop off).take n).all (· == 0)

/-- The registered kernel descriptor at an address, of a tenancy (R99). -/
def kernelAt (s : State) (t addr : Nat) : Option Kernel := s.fe.kernels.find? (fun k => k.addr == addr && k.tenancy == t)

def flumeAt (s : State) (t addr : Nat) : Option Flume := s.fe.flumes.find? (fun k => k.addr == addr && k.tenancy == t)

/-- LEN as R302 to R304 give it. -/
def lengthOk (bs : List Byte) : Bool :=
  let len := field bs 1 1
  match field bs 0 1 with
  | 1 => len == 1 + (field bs 37 1 + 63) / 64
  | 2 => len == 1 + (field bs 41 1 + 63) / 64
  | _ => len == 1

/-- The block counts of a LAUNCH packet: 0 takes the descriptor's (R302). -/
def packetDims (k : Option Kernel) (bs : List Byte) : Nat × Nat × Nat :=
  let pick (v d : Nat) : Nat := if v = 0 then d else v
  (pick (field bs 24 4) ((k.map (·.dimx)).getD 1), pick (field bs 28 4) ((k.map (·.dimy)).getD 1),
    pick (field bs 32 4) ((k.map (·.dimz)).getD 1))

/-- Every field of a packet is as R301 to R304 say. -/
def fieldsOk (s : State) (t : Nat) (bs : List Byte) : Bool :=
  let fl := field bs 2 2
  let handoff := fl / 4 % 2 == 1
  zeroField bs 4 4 && fl < 8 &&
    (match field bs 0 1 with
      | 1 =>
        let d := packetDims (kernelAt s t (field bs 16 8)) bs
        !(fl % 2 == 1 && handoff) && field bs 36 1 ≤ 15 && field bs 37 1 ≤ 128 && zeroField bs 38 2 && zeroField bs 48 16 &&
          (if handoff then field bs 40 8 % 4 == 0 else field bs 40 8 == 0) && d.1 * d.2.1 * d.2.2 ≤ 2 ^ 32
      | 2 =>
        !handoff && field bs 32 8 % 32 == 0 && field bs 40 1 ≤ 15 && field bs 41 1 ≤ 128 && zeroField bs 42 22
      | 3 => !handoff && field bs 16 2 ≤ 511 && zeroField bs 18 6 && zeroField bs 32 32
      | 4 => !handoff && field bs 16 8 % 8 == 0 && zeroField bs 32 32
      | _ => !handoff && zeroField bs 16 48)

/-- The descriptor a packet names is registered for the tenancy. -/
def descriptorOk (s : State) (t : Nat) (bs : List Byte) : Bool :=
  match field bs 0 1 with
  | 1 => (kernelAt s t (field bs 16 8)).isSome
  | 2 => (flumeAt s t (field bs 16 8)).isSome
  | _ => true

/-! ## The raft (R315) -/

/-- The block count of a child. -/
def childBlocks (c : Child) : Nat := c.x * c.y * c.z

def windowBlocks (w : RaftWindow) : Nat := (w.children.map childBlocks).sum

/-- The launch record of accepted work (R307). -/
def newLaunch (s : State) (q : Nat) (seq : DWord) (k : Kernel) (dims : Nat × Nat × Nat) (prio : Nat) (params : List Byte)
    (children : List Child) (event : Bool) (item : Option (Nat × Nat)) : Launch :=
  { lid := s.nextId, q, seq, age := s.seq, kernel := k, dimx := dims.1, dimy := dims.2.1, dimz := dims.2.2, prio, params, children, event,
    started := false, nextBlock := 0, done := [], handTable := [], shared := [], prev := none, complete := false, unplaceable := false, item,
    killed := false }

/-- The sites that hold the log of a queue: its home, and the next in the row as mirror (R307). -/
def logSites (q : Nat) : List Nat := [q % 4, if q % 4 = 3 then 2 else q % 4 + 1]

/-- An entry counts as written: both copies are (R307). -/
def bothWritten (e : LogEntry) : Bool := (logSites e.q).all e.sites.contains

/-- Close a window: it becomes one launch of its queue, accepted now, with the next raft sequence (R315) (DESIGN CHOICE, log entry 17). -/
def closeWindow (s : State) (w : RaftWindow) : State :=
  let q := s.queue w.q
  let l := newLaunch s w.q q.raftCount w.kernel (windowBlocks w, 1, 1) w.prio [] w.children false none
  let e : LogEntry :=
    { q := w.q, seq := q.raftCount, off := 0, order := s.seq, kind := .launch l.lid, fence := false, event := false, handoff := false,
      htable := 0, started := false, complete := false, sites := logSites w.q }
  let s1 : State :=
    { s with
      nextId := s.nextId + 1
      seq := s.seq + 1
      fe := { s.fe with raft := s.fe.raft.filter (fun x => x != w), launches := s.fe.launches ++ [l], log := s.fe.log ++ [e] } }
  s1.mapQueue w.q (fun y => { y with raftCount := y.raftCount + 1 })

/-- A child joins the open window with its descriptor, priority and parameter size, or opens a new one (R315). -/
def raftJoin (s : State) (qn : Nat) (k : Kernel) (prio psize : Nat) (c : Child) : State :=
  let mine := s.fe.raft.filter (fun w => w.q == qn)
  match mine.find? (fun w => w.kdesc == k.addr && w.prio == prio && w.psize == psize && decide (windowBlocks w + childBlocks c ≤ 2 ^ 32)) with
  | some w =>
    let w' := { w with children := w.children ++ [c] }
    let s1 := { s with fe := { s.fe with raft := s.fe.raft.map (fun x => if x == w then w' else x) } }
    if 256 ≤ w'.children.length then closeWindow s1 w' else s1
  | none =>
    let s1 := if 16 ≤ mine.length then (match mine with | w :: _ => closeWindow s w | [] => s) else s
    let w : RaftWindow := { q := qn, kdesc := k.addr, kernel := k, prio, psize, first := s1.clock, children := [c] }
    { s1 with fe := { s1.fe with raft := s1.fe.raft ++ [w] } }

/-- The bytes of a child's packet are a well-formed LAUNCH packet of the length given (R215, R315). -/
def childOk (s : State) (t len : Nat) (bs : List Byte) : Bool :=
  field bs 0 1 == 1 && lengthOk bs && field bs 1 1 * 64 == len && fieldsOk s t bs && descriptorOk s t bs && field bs 2 2 % 2 == 0 &&
    field bs 2 2 / 4 % 2 == 0

/-- Post a child of a well-formed packet to the raft of a queue. -/
def postChild (s : State) (qn : Nat) (bs : List Byte) : State :=
  let q := s.queue qn
  match kernelAt s q.tenancy (field bs 16 8) with
  | none => s
  | some k =>
    let d := packetDims (some k) bs
    let prio := if field bs 36 1 = 0 then q.prio.toNat else field bs 36 1
    raftJoin s qn k prio (field bs 37 1)
      { x := d.1, y := d.2.1, z := d.2.2, event := field bs 2 2 / 2 % 2 == 1, params := (bs.drop 64).take (field bs 37 1), posted := false }

/-! ## Flume stages (R316, R317) -/

def State.item? (s : State) (id : Nat) : Option Item := s.fe.items.find? (fun x => x.id == id)

def State.mapItem (s : State) (id : Nat) (f : Item → Item) : State :=
  { s with fe := { s.fe with items := updWhere (fun x => x.id == id) f s.fe.items } }

/-- Change stage `j` of an item. -/
def Item.mapStage (x : Item) (j : Nat) (f : StageRun → StageRun) : Item :=
  match x.stages[j]? with
  | some y => { x with stages := x.stages.set j (f y) }
  | none => x

/-- A stage ends: its status halfword is written before any successor is released (R316); it has not ended while the page waits (DEDUCED, log entry 46). -/
def endStage (s : State) (id j status : Nat) : State :=
  match s.item? id with
  | none => s
  | some x =>
    let fin (s1 : State) : State := s1.mapItem id (fun x => x.mapStage j (fun y => { y with ended := true, status := BitVec.ofNat 16 status }))
    if x.statAddr = 0 then fin s
    else
      match feWrite s (s.queue x.q) (x.statAddr + 2 * j) (leBytes status 2) with
      | (s1, .wait) => s1
      | (s1, _) => fin s1

/-- The blocks of a launch. -/
def Launch.total (l : Launch) : Nat :=
  if l.children.isEmpty then l.dimx * l.dimy * l.dimz else (l.children.map childBlocks).sum

/-- The tick of a stage's deadline has passed with blocks that have not released it; a stage whose launch is unplaceable has none (R313, R317). -/
def stageLate (s : State) (f : FlumeStage) (y : StageRun) (total : Nat) : Bool :=
  y.released && !((y.lid.bind s.launch?).map (·.unplaceable)).getD false && f.deadline != 0 && decide (y.start + f.deadline < s.clock) && decide (y.releasedBlocks.length < total)

/-- The status of a stage as it ends: done, overrun, or skipped (R316, R317). -/
def stageStatus (f : FlumeStage) (y : StageRun) : Nat := if y.overrun then (if f.skip then 2 else 1) else 0

/-- Block `n` of a launch releases its flume stage, once; the last block's release ends the stage (R316, R322) (DEDUCED, log entry 46). -/
def releaseStage (s : State) (l : Launch) (n : Nat) : State :=
  match l.item with
  | none => s
  | some (id, j) =>
    match (s.item? id).bind (fun x => (x.stages[j]?).bind (fun y => (x.flume.stages[j]?).map (fun f => (y, f)))) with
    | none => s
    | some (y, f) =>
      if y.ended || y.releasedBlocks.contains n then s
      else
        let late := stageLate s f y l.total
        let y' :=
          { y with releasedBlocks := y.releasedBlocks ++ [n], last := s.clock, overrun := y.overrun || late, owed := y.owed || (late && !y.overrun) }
        let s1 := s.mapItem id (fun x => x.mapStage j (fun _ => y'))
        if l.total ≤ y'.releasedBlocks.length then endStage s1 id j (stageStatus f y') else s1

end Sys2Proof.Machine
end

