-- ==== Sys2Proof/Machine/Branch.lean ====
section
/-! DEFINITION. Branches, divergence and reconvergence (01_machine_state.md R31 to R33; 09_control_sync_system.md R193 to R196;
21 R377). -/

namespace Sys2Proof.Machine

/-! ## The reconvergence stack (R31) -/

/-- Entry `n` of a split's stack. -/
def Split.entry (p : Split) (n : Nat) : StackEntry := p.stack.getD n StackEntry.zero

/-- The top entry (R33). -/
def Split.top (p : Split) : StackEntry := p.entry (p.depth - 1)

/-- Replace an entry. -/
def Split.setEntry (p : Split) (n : Nat) (x : StackEntry) : Split := { p with stack := p.stack.set n x }

/-- The splits of a group whose stack holds a divergence's entry. -/
def holdersOf (g : Group) (id : BitVec 8) : List Split := g.splits.filter (fun q => (q.stack.take q.depth).any (fun x => x.id == id))

/-- The lanes that belong to some split. -/
def ownedLanes (g : Group) : LaneMask := g.splits.foldl (fun m q => m ||| q.active) 0

/-- The lanes held in an entry: its lanes that belong to no split and have not exited (R33). -/
def heldLanes (g : Group) (x : StackEntry) : LaneMask := x.mask &&& ~~~g.exited &&& ~~~ownedLanes g

/-- An identity for a new divergence: the next one that no entry of the group carries (R31) (DESIGN CHOICE, log entry 11). -/
def newId (g : Group) : BitVec 8 :=
  (((List.range 256).map (fun k => g.nextId + BitVec.ofNat 8 k)).find? (fun x => (holdersOf g x).isEmpty)).getD g.nextId

/-- The lowest free split index (R32). -/
def freeIndex (g : Group) : Nat := ((List.range 4).find? (fun k => (g.split? k).isNone)).getD 4

/-- SIG after an event of R377: supervisor code leaves it (DEDUCED, log entry 49). -/
def hashIn (g : Group) (old sg x : Word) : Word := if g.mode then old else sighash sg x

/-! ## Divergence (R32) -/

/-- The target of a UB branch (R60, R193). -/
def branchTarget (p : Split) (j : BitVec 21) : Pc := p.pc + (j.signExtend 48 <<< 2)

/-- The split with a divergence's entry pushed: the JPC that RCV left there is kept (R194). -/
def pushEntry (p : Split) (x : StackEntry) : Split :=
  { p.setEntry p.depth { x with jpc := (p.entry p.depth).jpc } with depth := p.depth + 1 }

/-- The two splits of a divergence that finds a free index: the part that holds the lowest lane of the mask keeps the index,
and with it the stores and reports that wait there (R32). `sg` is SIG after the branch's word (DESIGN CHOICE, log entry 11). -/
def splitTwo (s : State) (e : Bool) (g : Group) (p : Split) (t : LaneMask) (target fall : Pc) (sg : Word) : State :=
  let f := p.active &&& ~~~t
  let n := freeIndex g
  let x : StackEntry := { id := newId g, jpc := 0, mask := p.active, ppc := 0, pmask := 0, fmt := p.fmt, sig := sg }
  let base := { pushEntry p x with fmask := 0, faddr := [], phase := 0, trapStep := false, order := s.seq }
  let taken := { base with active := t, pc := target, sig := hashIn g p.sig sg 1 }
  let other := { base with active := f, pc := fall, sig := hashIn g p.sig sg 2 }
  let keep := if laneIn f (lowest p.active) then other else taken
  let made := if laneIn f (lowest p.active) then taken else other
  let low := n < p.idx
  let keep1 := { keep with idx := p.idx, st := stateAfter e g base, stepOne := false, stepEnd := p.stepOne && stateAfter e g base == .ebb, abort := if low then none else p.abort }
  let made1 := { made with idx := n, st := stateAfter e g base, stepOne := false, stepEnd := p.stepOne && stateAfter e g base == .ebb, buffer := [], storeErrs := [], echoTrap := none,
                           abort := if low then p.abort else none }
  let g1 := { g.put keep1 with nextId := newId g + 1 }
  let s1 := (issued s g).mapGroup g.gid (fun _ => { g1 with splits := g1.splits ++ [made1] })
  afterRetire { s1 with seq := s.seq + 1 } g.gid (if low && p.abort.isSome then n else p.idx) e p.trapStep

/-- A divergence that finds four live splits: the taken arm runs first, and the other is kept in the entry (R32). -/
def splitSerial (s : State) (e : Bool) (g : Group) (p : Split) (t : LaneMask) (target fall : Pc) (sg : Word) : Result :=
  let x : StackEntry :=
    { id := newId g, jpc := 0, mask := p.active, ppc := fall, pmask := p.active &&& ~~~t, fmt := p.fmt, sig := sg }
  retireSig e target (hashIn g p.sig sg 1) s { g with nextId := newId g + 1 } { pushEntry p x with active := t }

/-- A branch of the active lanes `t` to a target (R32, R193). -/
def branchLanes (i : Instr) (e : Bool) (t : LaneMask) (target : Pc) (s : State) (g : Group) (p : Split) : Result :=
  if t == p.active then retireTo i e target s g p
  else if t == 0 then retire i e s g p
  else if 16 ≤ p.depth then trapCode s g p 0x14
  else if g.splits.length < 4 then .next (splitTwo s e g p t target (pcAfter i p) (sigAfter i g p))
  else splitSerial s e g p t target (pcAfter i p) (sigAfter i g p)

/-- BRA (R193). -/
def execBra (e : Bool) (c : BitVec 3) (j : BitVec 21) (s : State) : Result :=
  withIssuer s (fun g p => branchLanes (.bra e c j) e (p.active &&& readPred g c.toNat) (branchTarget p j) s g p)

/-- JZ (R193). -/
def execJz (e : Bool) (c : BitVec 3) (j : BitVec 21) (s : State) : Result :=
  withIssuer s (fun g p =>
    if readReg g (96 + c.toNat) 0 = 0 then retireTo (.jz e c j) e (branchTarget p j) s g p else retire (.jz e c j) e s g p)

/-- JNZ (R193). -/
def execJnz (e : Bool) (c : BitVec 3) (j : BitVec 21) (s : State) : Result :=
  withIssuer s (fun g p =>
    if readReg g (96 + c.toNat) 0 = 0 then retire (.jnz e c j) e s g p else retireTo (.jnz e c j) e (branchTarget p j) s g p)

/-- CALL (R193): the return address goes to s20:s21 in both modes. -/
def execCall (e : Bool) (j : BitVec 21) (s : State) : Result :=
  withIssuer s (fun g p =>
    let ra := (p.pc + 4).setWidth 64
    let g1 := writeReg (writeReg g 116 0 (ra.setWidth 32)) 117 0 ((ra >>> 32).setWidth 32)
    retireTo (.call e j) e (branchTarget p j) s g1 p)

/-- RCV (R194). -/
def execRcv (e : Bool) (j : BitVec 21) (s : State) : Result :=
  withIssuer s (fun g p =>
    let p1 := if p.depth < 16 then p.setEntry p.depth { p.entry p.depth with jpc := branchTarget p j } else p
    retire (.rcv e j) e s g p1)

/-- A branch to a register's value (R195). -/
def registerBranch (i : Instr) (e : Bool) (a : Src) (s : State) : Result :=
  withIssuer s (fun g p =>
    ifLegal (src64Ok g a) s g p
      (let t := uniVal64 g p a
       if 2 ^ 48 ≤ t.toNat then trapHere s g p (.mk' 0x05 p.active t)
       else if t.toNat % 4 != 0 then trapHere s g p (.mk' 0x04 p.active t)
       else retireTo i e (t.setWidth 48) s g p))

def execJmp (e : Bool) (a : Src) (s : State) : Result := registerBranch (.jmp e a) e a s
def execRet (e : Bool) (a : Src) (s : State) : Result := registerBranch (.ret e a) e a s

/-! ## Reconvergence (R33) -/

/-- The splits that wait in JOIN on a divergence. -/
def waitersOn (g : Group) (id : BitVec 8) : List Split := g.splits.filter (fun q => q.st == .join && decide (0 < q.depth) && q.top.id == id)

/-- Every lane of an entry that has not exited is held in it, or is in one of the splits. -/
def entryMet (g : Group) (x : StackEntry) (members : List Split) : Bool :=
  x.mask &&& ~~~g.exited &&& ~~~(heldLanes g x) &&& ~~~(members.foldl (fun m q => m ||| q.active) 0) == 0

/-- The two lists as one without repeats. -/
def unionList {α : Type} [BEq α] (a b : List α) : List α := a ++ b.filter (fun x => !a.contains x)

/-- A split with another's stores, results and reports added to its own. -/
def absorb (p q : Split) : Split :=
  { p with
    outst := p.outst ||| q.outst, buffer := p.buffer ++ q.buffer, past := unionList p.past q.past, gwct := max p.gwct q.gwct,
    hold := max p.hold q.hold, storeErrs := p.storeErrs ++ q.storeErrs, abort := p.abort <|> q.abort, keptAbort := p.keptAbort <|> q.keptAbort, echoTrap := p.echoTrap <|> q.echoTrap,
    frozen := p.frozen || q.frozen, stopReq := p.stopReq || q.stopReq, stepOne := p.stepOne || q.stepOne, stepEnd := p.stepEnd || q.stepEnd,
    stepDue := p.stepDue || q.stepDue, scClu := max p.scClu q.scClu,
    scDev := max p.scDev q.scDev }

/-- Records that name one of several splits of a group name the merged one. -/
def renumber (s : State) (gid : Nat) (old : List Nat) (new : Nat) : State :=
  let f (i : Nat) : Nat := if old.contains i then new else i
  { s with
    fe := { s.fe with echo := s.fe.echo.map (fun x => if x.gid == gid then { x with sp := f x.sp } else x) }
    en := { s.en with link := s.en.link.map (fun x => if x.gid == gid then { x with sp := f x.sp } else x) } }

/-- Merge splits at their common top entry into the one with the lowest index; `join` is the word and `after` the next address
of the merging JOIN, `anyE` says that a member's JOIN carried E, `steps` that one owed a STEP (R33). -/
def mergeSplits (s : State) (gid : Nat) (members : List Split) (join : Word) (after : Pc) (anyE steps : Bool) : State :=
  match members with
  | [] => s
  | m0 :: rest =>
    let low := rest.foldl (fun a q => if q.idx < a.idx then q else a) m0
    let others := members.filter (fun q => q.idx != low.idx)
    let idxs := members.map (·.idx)
    match s.group? gid with
    | none => s
    | some g =>
      let x := low.top
      let all := others.foldl absorb low
      let p0 := (all.setEntry (low.depth - 1) { x with jpc := 0 })
      let p1 : Split :=
        { p0 with
          active := x.mask &&& ~~~g.exited, fmt := x.fmt, sig := hashIn g low.sig x.sig join,
          pc := if x.jpc != 0 then x.jpc + 4 else after, depth := low.depth - 1, park := .none, phase := 0, fmask := 0, faddr := [],
          trapStep := false, stepOne := false, order := s.seq }
      let p2 := { p1 with st := stateAfter anyE g all, stepEnd := (all.stepOne || all.stepEnd) && stateAfter anyE g all == .ebb }
      let g1 : Group :=
        { g with
          splits := (g.splits.filter (fun q => !idxs.contains q.idx)) ++ [p2]
          pending := g.pending.map (fun y => if idxs.contains y.sp then { y with sp := low.idx } else y) }
      let s1 := renumber (s.mapGroup gid (fun _ => g1)) gid idxs low.idx
      afterRetire { s1 with seq := s.seq + 1 } gid low.idx anyE steps

/-- The word of a JOIN with its E bit (R196). -/
def joinWord (e : Bool) : Word := if e then 0xCD000000 else 0x8D000000

/-- JOIN (R33) (DEDUCED, log entry 49). -/
def execJoin (e : Bool) (s : State) : Result :=
  withIssuer s (fun g p =>
    if p.depth = 0 then retire (.join e) e s g p
    else
      let x := p.top
      if x.ppc != 0 then
        let x1 := { x with jpc := if x.jpc = 0 then p.pc else x.jpc, ppc := 0, pmask := 0 }
        retireSig e x.ppc (hashIn g p.sig x.sig 2) s g { p.setEntry (p.depth - 1) x1 with active := x.pmask, fmt := x.fmt }
      else
        let ws := waitersOn g x.id
        if entryMet g x (p :: ws) then
          .next (mergeSplits (issued s g) g.gid (p :: ws) (joinWord e) (p.pc + 4) (e || ws.any (·.nextEbb)) (p.trapStep || ws.any (·.trapStep)))
        else .next (parkTo (.join e) e .join .none (p.pc + 4) s g p))

/-! ## When lanes exit (R33, R196) -/

/-- Merge the splits that wait in JOIN on entries whose last missing lanes have gone: they go on after the JOIN of the
lowest-index one (R33). -/
def releaseJoins (s : State) (gid : Nat) : State :=
  (List.range 4).foldl (fun s k =>
    match s.split? gid k with
    | none => s
    | some (g, p) =>
      if p.st == .join && decide (0 < p.depth) then
        let ws := waitersOn g p.top.id
        if entryMet g p.top ws && ws.all (fun q => decide (p.idx ≤ q.idx)) then
          mergeSplits s gid ws (joinWord p.nextEbb) (p.pc + 4) (ws.any (·.nextEbb)) (ws.any (·.trapStep))
        else s
      else s) s

/-- The split that the lanes of a gone arm's entry form, from the exiting split's own entries, top first: an arm still pending
starts at `ppc`, as a JOIN of the first arm would start it, which R33 leaves open (DESIGN CHOICE, log entry 77); lanes held in the entry go on
after its reconvergence (R33). -/
def heldSplit (s : State) (g : Group) (p : Split) : Nat → Option Split
  | 0 => none
  | k + 1 =>
    let x := p.entry k
    let h := heldLanes g x
    let fresh (q : Split) : Split :=
      { q with
        idx := freeIndex g, fmt := x.fmt, outst := 0, st := runState g p, park := .none, phase := 0, fmask := 0, faddr := [], hold := 0,
        order := s.seq, echoTrap := none, abort := none, keptAbort := none, trapStep := false, stepOne := false, stepEnd := false, stepDue := false }
    if !(holdersOf g x.id).isEmpty then none
    else if x.ppc != 0 then
      some { fresh (p.setEntry k { x with ppc := 0, pmask := 0 }) with
        active := x.pmask, sig := hashIn g p.sig x.sig 2, pc := x.ppc, depth := k + 1 }
    else if h == 0 then heldSplit s g p k
    else some { fresh (p.setEntry k { x with jpc := 0 }) with active := h, sig := hashIn g p.sig x.sig 0x8D000000, pc := x.jpc + 4, depth := k }

/-- The active lanes of a split exit: its index is free, and what they held up goes on (R33, R196). -/
def exitLanes (s : State) (gid i : Nat) : State :=
  match s.split? gid i with
  | none => s
  | some (g, p) =>
    let g1 := { g with exited := g.exited ||| p.active, splits := g.splits.filter (fun q => q.idx != i) }
    let g2 := match heldSplit s g1 p p.depth with
      | some q => { g1 with splits := g1.splits ++ [q] }
      | none => g1
    releaseJoins ({ s.mapGroup gid (fun _ => g2) with seq := s.seq + 1 }) gid

end Sys2Proof.Machine
end

