-- ==== Sys2Proof/Machine/Fence.lean ====
section
/-! DEFINITION. FENCE, and the releases that other instructions contain (09_control_sync_system.md R206; 12_ordering.md R265,
R266, R272, R274). -/

namespace Sys2Proof.Machine

/-- How a fence's attempt ends: done, still waiting, or a covered store met an uncorrectable error (R176). -/
inductive FenceEnd where
  | done | wait
  | failed (sector : Nat)
deriving DecidableEq, Repr

/-- An L1 line whose recorded scope a release at `sc` cleans. A release at CLU also cleans lines written at CLU, so that they
reach the L2 that the cluster shares. -/
def cleansLine (sc x : Scope) : Bool := sc != .blk && (x == .blk || x == .clu)

/-- The dirty L1 sectors of a core that a release at `sc` cleans (DEDUCED, log entry 24). -/
def linesToClean (s : State) (P : Party) (sc : Scope) : List L1Sector :=
  s.mm.l1.filter (fun x => x.cluster == P.cluster && x.core == P.core && x.dirty != 0 && cleansLine sc x.scope)

/-- The dirty L2 sectors of a cluster that a release at DEV or SYS writes home. -/
def homeward (s : State) (P : Party) (sc : Scope) : List L2Sector :=
  if sc == .dev || sc == .sys then s.mm.l2.filter (fun x => x.cluster == P.cluster && x.part == P.part && x.dirty != 0) else []

/-- Clean the lines of R206; gives the latest completion time returned. A clean that fails is the store error of the splits that wrote its bytes
(R176) (DEDUCED, log entry 24). -/
def cleanLines (s : State) (P : Party) (sc : Scope) : State × Nat :=
  let r1 := (linesToClean s P sc).foldl (fun (st : State × Nat) x =>
    let c := cleanL1 st.1 { P with asid := x.asid, view := x.view } x (sc == .dev || sc == .sys)
    (c.1, max st.2 c.2)) (s, 0)
  (homeward r1.1 P sc).foldl (fun st x =>
    let c := cleanL2 st.1 x
    (c.1, max st.2 c.2)) r1

/-- A store recorded as failed that a fence at `sc` covers (R176) (DEDUCED, log entry 25). -/
def coveredError (p : Split) (sc : Scope) : Option (Nat × Scope) := p.storeErrs.find? (fun x => decide (x.2.code.toNat ≤ sc.code.toNat))

/-- The first store of a split that has failed and that a fence at `sc` covers, taken off the split's list: its sector (R176). -/
def takeError (s : State) (gid i : Nat) (sc : Scope) : Option (State × Nat) :=
  (s.split? gid i).bind (fun y => (coveredError y.2 sc).map (fun x =>
    (s.mapSplit gid i (fun q => { q with storeErrs := q.storeErrs.filter (fun z => z != x) }), x.1)))

/-- The release part of a fence at scope `sc` for a split: its earlier stores are performed, the core's narrower lines are
cleaned, and CLOCK reaches the largest completion time (R206). A split that waits for CLOCK holds its fetch (DEDUCED, log entry 25). -/
def releaseAt (s : State) (gid i : Nat) (sc : Scope) : State × FenceEnd :=
  let s1 := performBuffer s gid i
  match s1.split? gid i with
  | none => (s1, .done)
  | some (g, p) =>
    let P := s1.party g
    if !(bufferOf g p).isEmpty then (s1, .wait)
    else
      match takeError s1 gid i sc with
      | some r => (r.1, .failed r.2)
      | none =>
        if (linesToClean s1 P sc).any (fun x => cleanHeld s1 x.pa) || (homeward s1 P sc).any (fun x => cleanHeld s1 x.pa) then (s1, .wait)
        else
          let r := cleanLines s1 P sc
          let t := max p.gwct r.2
          let s2 := r.1.mapSplit gid i (fun q => { q with gwct := t })
          match takeError s2 gid i sc with
          | some r => (r.1, .failed r.2)
          | none => if sc != .blk && decide (s2.clock < t) then (s2.mapSplit gid i (fun q => { q with hold := t }), .wait) else (s2, .done)

/-- Every load and atomic that the split issued earlier has been performed (R206). -/
def loadsPerformed (g : Group) (p : Split) : Bool :=
  !g.pending.any (fun x => p.past.contains x.seq && x.parts.any (fun r => r.load.isSome))

/-- The acquire part of a fence. -/
def acquireDone (s : State) (gid i : Nat) : Bool :=
  match s.split? gid i with
  | some (g, p) => loadsPerformed g p
  | none => true

/-- A fence of both parts. -/
def fenceBoth (s : State) (gid i : Nat) (sc : Scope) : State × FenceEnd :=
  match releaseAt s gid i sc with
  | (s1, .done) => (s1, if acquireDone s1 gid i then .done else .wait)
  | r => r

/-- Go on when a fence of the issuing split is done; wait, or raise MEM_ABORT at the instruction (R176). -/
def afterFence (r : State × FenceEnd) (gid i : Nat) (k : State → Group → Split → Result) : Result :=
  match r.2 with
  | .wait => suspend r.1
  | .failed sec => again r.1 gid i (fun g p => trapHere r.1 g p (.mk' 0x11 p.active (BitVec.ofNat 64 sec)))
  | .done => again r.1 gid i (fun g p => k r.1 g p)

/-- The place that FENCE.sc takes in the total order of its scope: copies filled before it serve the split no more (R274). -/
def scPlace (sc : Scope) (s : State) (p : Split) : Split :=
  match sc with
  | .blk => p
  | .clu => { p with scClu := s.seq + 1 }
  | _ => { p with scClu := s.seq + 1, scDev := s.seq + 1 }

/-- What FENCE does before it retires. -/
def fenceOf (f : FenceForm) (s : State) (gid i : Nat) (sc : Scope) : State × FenceEnd :=
  match f with
  | .rel => releaseAt s gid i sc
  | .acq => (s, if acquireDone s gid i then .done else .wait)
  | .ar => fenceBoth s gid i sc
  | .sc => fenceBoth s gid i sc

/-- FENCE (R206). -/
def execFence (e : Bool) (f : FenceForm) (c : Scope) (s : State) : Result :=
  withIssuer s (fun g p =>
    afterFence (fenceOf f s g.gid p.idx c) g.gid p.idx (fun s1 g p =>
      retire (.fence e f c) e s1 g (if f == .sc then scPlace c s1 p else p)))

end Sys2Proof.Machine
end

