-- ==== Sys2Proof/Machine/Global.lean ====
section
/-! DEFINITION. Global loads, stores, atomics and prefetch (08_memory_access.md R173 to R177, R187), and the return of
outstanding results and the performing of stores (R48, R174). -/

namespace Sys2Proof.Machine

/-! ## Operands (R57, R68, R172) -/

/-- The address operands of a global access are legal: an even base of an existing pair, or a pair in a (R57). -/
def globalOk (g : Group) (sb : BitVec 5) (a : Src) : Bool :=
  if sb == 30 then src64Ok g a else sb != 31 && sb.toNat % 2 == 0 && srcOk g a

/-- The address of a lane (R57), before the range test. -/
def globalAddr (g : Group) (sb : BitVec 5) (a : Src) (l : Nat) : Nat :=
  if sb == 30 then (srcVal64 g a l).toNat
  else (readReg g (97 + sb.toNat) l ++ readReg g (96 + sb.toNat) l).toNat + (srcVal g a l).toNat

/-- The group runs its save or restore routine (R344, R346, R361). -/
def inRoutine (g : Group) : Bool := g.mode && g.trapCause.toNat % 64 == 0x19

/-- What a routine's access of `n` bytes adds to its base in a lane where its offset is zero (R361) (DEDUCED, log entry 48). -/
def runStride (g : Group) (sb : BitVec 5) (a : Src) (n l : Nat) : Nat :=
  if inRoutine g && decide (sb.toNat < 30) && a == .reg 126 then l * n else 0

/-- The address of a lane of an LDG or STG of `n` bytes (R57, R361). -/
def runAddr (g : Group) (sb : BitVec 5) (a : Src) (n l : Nat) : Nat := globalAddr g sb a l + runStride g sb a n l

/-- Bytes of a load slot, and whether it sign-extends. -/
def loadBytes : LoadSize → Nat
  | .u8 => 1
  | .s8 => 1
  | .u16 => 2
  | .s16 => 2
  | .b32 => 4
  | .b64 => 8
  | .b128 => 16

def loadSigned : LoadSize → Bool
  | .s8 => true
  | .s16 => true
  | _ => false

/-- Bytes of a store slot. -/
def storeSize : StoreSize → Nat
  | .b8 => 1
  | .b16 => 2
  | .b32 => 4
  | .b64 => 8
  | .b128 => 16

/-- Registers that `n` bytes take. -/
def regsOf (n : Nat) : Nat := (n + 3) / 4

/-- A data register of `n` bytes: aligned as R68 says, every register of it existing. -/
def dataOk (g : Group) (d n : Nat) : Bool := d % regsOf n == 0 && regExists g (d + regsOf n - 1)

/-- A load's destination: existing vector registers, or zero (R68, R172). -/
def loadDstOk (g : Group) (d : RegNum) (n : Nat) : Bool := d == 126 || (decide (d.toNat < 96) && dataOk g d.toNat n)

/-- A store's data: registers, zero or lit (R68, R172). -/
def storeSrcOk (g : Group) (d : Src) (n : Nat) : Bool :=
  match d with
  | .reg r => r == 126 || (decide (r.toNat < 126) && dataOk g r.toNat n)
  | .lit _ => true

/-- Word `k` of a store's data in a lane (R172, R173) (DEDUCED, log entry 62). -/
def dataWord (g : Group) (d : Src) (l k : Nat) : Word :=
  match d with
  | .lit w => if k = 0 then w else if w.getLsbD 31 then 0xFFFFFFFF else 0
  | .reg r =>
    if r.toNat = 126 then 0 else if r.toNat + k = 127 then Config.lastWord else readReg g (r.toNat + k) l

/-- The `n` bytes that a store writes for a lane (R173). -/
def dataBytes (g : Group) (d : Src) (l n : Nat) : List Byte :=
  ((List.range (regsOf n)).flatMap (fun k => leBytes (dataWord g d l k).toNat 4)).take n

/-- The registers a load writes in a lane. -/
def loadDests (d : RegNum) (l n : Nat) : List RegDest :=
  if d.toNat < 96 then (List.range (regsOf n)).map (fun k => .vec (d.toNat + k) l) else []

/-- The register numbers a load leaves outstanding (R48, R173). -/
def loadRegs (d : RegNum) (n : Nat) : RegSet := if d.toNat < 96 then regRange d.toNat (regsOf n) else 0

/-- End an access of the issuing split: retire it, or park the lanes that are left in FAULT (R175). -/
def endAccess (i : Instr) (e : Bool) (P : Party) (wr : Bool) (gid sp : Nat) (rest : List (Nat × Nat)) (s : State) : Result :=
  if rest.isEmpty then again s gid sp (fun g p => retire i e s g p)
  else .next (parkFault { s with seq := s.seq + 1 } P gid sp wr false rest)

/-! ## LDG -/

/-- One lane of a load: performed at once on an SC page, and where nothing is written; else left to its return (R173, R174). -/
def loadLane (z : LoadSize) (c : Scope) (d : RegNum) (P : Party) (gid i : Nat) (st : State × List LaneResult)
    (x : Nat × Nat × Leaf) : State × List LaneResult :=
  let pl : Place := .global x.2.2.pa x.2.1 x.2.2.attr x.2.2.size
  let part : LaneResult :=
    { lane := x.1, dests := loadDests d x.1 (loadBytes z), vals := [], load := some (pl, (loadBytes z)), sext := loadSigned z, scope := c, flags := 0 }
  if x.2.2.attr == 1 || d == 126 then
    match st.1.split? gid i with
    | none => st
    | some (g, p) =>
      match performPart st.1 P g p { seq := st.1.seq, after := p.past, sp := i, view := P.view, regs := 0, parts := [] } part with
      | (s1, some ws, _) => if d == 126 then (s1, st.2) else (s1, st.2 ++ [{ part with vals := ws, load := none }])
      | (s1, none, pa) => (noteAbort s1 gid i pa, st.2)
  else (st.1, st.2 ++ [part])

/-- LDG (R173 to R176) (DEDUCED, log entry 7). -/
def execLdg (e : Bool) (z : LoadSize) (c : Scope) (sb : BitVec 5) (d : RegNum) (a : Src) (s : State) : Result :=
  withIssuer s (fun g p =>
    ifLegal (globalOk g sb a && loadDstOk g d (loadBytes z)) s g p
      (let P := s.party g
       withChecked s g p P .load true false (loadBytes z) none (laneAddrs p (runAddr g sb a (loadBytes z))) (fun s1 oks rest =>
         let places := oks.map (fun x => (Place.global x.2.2.pa x.2.1 x.2.2.attr x.2.2.size, (loadBytes z)))
         let atOnce := oks.any (fun x => x.2.2.attr == 1) || d == 126
         let s2 := if atOnce then settleOlder s1 g.gid p.idx places else s1
         if atOnce && mustWait s2 g.gid p.idx places then suspend s2
         else
           let r := oks.foldl (loadLane z c d P g.gid p.idx) (s2, [])
           again r.1 g.gid p.idx (fun g p =>
             let q := if r.2.isEmpty then (g, p) else addPending r.1 g p P.view (loadRegs d (loadBytes z)) r.2
             let s3 := addLinks (r.1.put q.1 q.2) g.gid p.idx r.1.seq false (if d == 126 then [] else oks)
             endAccess (.ldg e z c sb d a) e P false g.gid p.idx rest s3))))

/-! ## STG -/

/-- Whether a store lane goes to the view's outbox (R251). -/
def toOutbox (P : Party) (x : Nat × Nat × Leaf) : Bool := P.view != 0 && x.2.2.attr == 2

/-- The issuing split's access of order `n` is one of its own earlier accesses from now on. -/
def notePast (s : State) (gid i n : Nat) : State :=
  s.mapGroup gid (fun g => g.mapSplit i (fun q => { q with past := (pastOf g q).filter (· != n) ++ [n] }))

/-- The issuing split keeps the completion time that an access performed at its issue returned; on an SC page its fetch is suspended until
then (R174). -/
def noteGwct (s : State) (gid i attr gw : Nat) : State :=
  s.mapSplit gid i (fun q => { q with gwct := max q.gwct gw, hold := if attr == 1 then max q.hold gw else q.hold })

/-- A store performed at its issue: on an SC page, and an entry of an outlier list (R171, R174). -/
def storeNow (c : Scope) (P : Party) (gid i : Nat) (pl : Place) (bs : List Byte) (s : State) : State :=
  match pl with
  | .pool _ => s
  | .global pa va attr _ =>
    let sc := if attr == 2 then Scope.sys else c
    if storeFails s P pl bs.length then failEntry s gid i P pa va sc
    else
      let r := performStore s { P with writer := some (gid, i) } va pa attr sc bs
      noteGwct r.1 gid i attr r.2

/-- One lane of a store: to the outbox, performed at once on an SC page, or buffered (R174, R251). -/
def storeLane (c : Scope) (P : Party) (gid i n : Nat) (data : Nat → List Byte) (s : State) (x : Nat × Nat × Leaf) : State :=
  let sc := if x.2.2.attr == 2 then Scope.sys else c
  let en : BufStore :=
    { seq := s.seq, after := [], place := .global x.2.2.pa x.2.1 x.2.2.attr x.2.2.size, scope := sc, bytes := (data x.1).take n, view := P.view }
  if toOutbox P x then outboxPush s P.view { op := .ext x.2.2.pa x.2.1 s.seq ((data x.1).take n), bid := P.bid, gid }
  else if x.2.2.attr == 1 then storeNow c P gid i en.place en.bytes s
  else
    let s1 := s.mapGroup gid (fun g => g.mapSplit i (fun q =>
      { q with buffer := q.buffer ++ [{ en with after := (pastOf g q).filter (· != s.seq), held := pinned s en.place en.bytes.length }] }))
    notePast s1 gid i s.seq

/-- A store of checked lanes by the issuing split (STG, SST, and the entry stores of an outlier list). In a view a store to EXT takes one outbox entry
for each active lane, and VIEW_EXHAUSTED is raised unless all of them fit (DESIGN CHOICE, log entry 88). -/
def storeChecked (i : Instr) (e : Bool) (c : Scope) (P : Party) (g : Group) (p : Split) (n : Nat) (whole : Option LaneMask)
    (data : Nat → List Byte) (s1 : State) (oks : List (Nat × Nat × Leaf)) (rest : List (Nat × Nat)) : Result :=
  let outs := oks.filter (toOutbox P)
  if !outs.isEmpty && !outboxRoom s1 P.view outs.length then
    again s1 g.gid p.idx (fun g p => trapHere s1 g p (.mk' 0x0D (whole.getD (maskOf (outs.map (·.1)))) 0))
  else
    let places := (oks.filter (fun x => x.2.2.attr == 1)).map (fun x => (Place.global x.2.2.pa x.2.1 1 4096, n))
    let s2 := settleOlder s1 g.gid p.idx places
    if mustWait s2 g.gid p.idx places then suspend s2
    else
      let s3 := oks.foldl (storeLane c P g.gid p.idx n data) s2
      let s4 := addLinks s3 g.gid p.idx s2.seq true (oks.filter (fun x => !toOutbox P x))
      endAccess i e P true g.gid p.idx rest s4

/-- STG (R173 to R176) (DEDUCED, log entry 7). -/
def execStg (e : Bool) (z : StoreSize) (c : Scope) (sb : BitVec 5) (d a : Src) (s : State) : Result :=
  withIssuer s (fun g p =>
    ifLegal (globalOk g sb a && storeSrcOk g d (storeSize z)) s g p
      (let P := s.party g
       withChecked s g p P .store false true (storeSize z) none (laneAddrs p (runAddr g sb a (storeSize z))) (fun s1 oks rest =>
         storeChecked (.stg e z c sb d a) e c P g p (storeSize z) none (fun l => dataBytes g d l (storeSize z)) s1 oks rest)))

/-! ## Atomics (R177) -/

/-- The 32-bit operations of set A, but for .cas. -/
def atomAWord (z : AtomA) (old opnd : Word) : Word :=
  match z with
  | .add => old + opnd
  | .fadd => (addRne old opnd).1
  | .min => if old.toInt ≤ opnd.toInt then old else opnd
  | .max => if opnd.toInt ≤ old.toInt then old else opnd
  | .and => old &&& opnd
  | .or => old ||| opnd
  | .exch => opnd
  | .cas => opnd

/-- The operations of set B, but for .cas64, as 64-bit values; a 32-bit slot uses the low half. -/
def atomBWord (z : AtomB) (old opnd : DWord) : DWord :=
  match z with
  | .xor => old ^^^ opnd
  | .umin => if old.toNat ≤ opnd.toNat then old else opnd
  | .umax => if opnd.toNat ≤ old.toNat then old else opnd
  | .add64 => old + opnd
  | .exch64 => opnd
  | .cas64 => opnd
  | .min64 => if old.toInt ≤ opnd.toInt then old else opnd
  | .max64 => if opnd.toInt ≤ old.toInt then old else opnd

/-- Bytes of a set B slot. -/
def atomBSize : AtomB → Nat
  | .xor => 4
  | .umin => 4
  | .umax => 4
  | _ => 8

/-- The bytes an atomic of set A writes in a lane. -/
def atomABytes (z : AtomA) (g : Group) (d : RegNum) (l : Nat) (old : List Byte) : List Byte :=
  let o : Word := BitVec.ofNat 32 (leNat old)
  match z with
  | .cas => if o = readReg g d.toNat l then leBytes (readReg g (d.toNat + 1) l).toNat 4 else old
  | _ => leBytes (atomAWord z o (readReg g d.toNat l)).toNat 4

/-- The bytes an atomic of set B writes in a lane. -/
def atomBBytes (z : AtomB) (g : Group) (d : RegNum) (l : Nat) (old : List Byte) : List Byte :=
  let o : DWord := BitVec.ofNat 64 (leNat old)
  match z with
  | .cas64 =>
    if o = srcVal64 g (.reg d) l then leBytes (srcVal64 g (.reg (d + 2)) l).toNat 8 else old
  | .xor => leBytes (atomBWord z o ((readReg g d.toNat l).setWidth 64)).toNat 4
  | .umin => leBytes (atomBWord z o ((readReg g d.toNat l).setWidth 64)).toNat 4
  | .umax => leBytes (atomBWord z o ((readReg g d.toNat l).setWidth 64)).toNat 4
  | _ => leBytes (atomBWord z o (srcVal64 g (.reg d) l)).toNat 8

/-- An atomic's d: zero where the slot allows it, else existing vector registers aligned as R68 says. -/
def atomDstOk (g : Group) (d : RegNum) (n : Nat) (cas : Bool) : Bool :=
  if d == 126 then !cas
  else
    let k := (if cas then 2 else 1) * regsOf n
    decide (d.toNat < 96) && d.toNat % k == 0 && regExists g (d.toNat + k - 1)

def atomACas (z : AtomA) : Bool := z == .cas
def atomBCas (z : AtomB) : Bool := z == .cas64

/-- The part that carries an atomic's old value to its registers. -/
def oldPart (d : RegNum) (l n : Nat) (old : List Byte) : LaneResult :=
  { lane := l, dests := loadDests d l n, vals := wordsOfBytes false old, load := none, sext := false, scope := .blk, flags := 0 }

/-- One lane of ATOMG, performed at its place (R177); an abort completion is reported at the ebb (R176). -/
def atomLane (c : Scope) (d : RegNum) (P : Party) (gid i n : Nat) (op : Nat → List Byte → List Byte)
    (st : State × List LaneResult) (x : Nat × Nat × Leaf) : State × List LaneResult :=
  match performAtomic st.1 { P with writer := some (gid, i) } x.2.1 x.2.2.pa x.2.2.attr n c (op x.1) with
  | (s1, some old, gw) =>
    (noteGwct s1 gid i x.2.2.attr gw, if d == 126 then st.2 else st.2 ++ [oldPart d x.1 n old])
  | (s1, none, _) => (abortTo (noteAbort s1 gid i x.2.2.pa) P x.2.2.pa x.2.1 (abortAction s1 P), st.2)

/-- ATOMG, for both sets. -/
def globalAtomic (i : Instr) (e : Bool) (c : Scope) (sb : BitVec 5) (d : RegNum) (a : Src) (n : Nat) (cas : Bool)
    (op : Group → Nat → List Byte → List Byte) (s : State) : Result :=
  withIssuer s (fun g p =>
    ifLegal (globalOk g sb a && atomDstOk g d n cas) s g p
      (let P := s.party g
       withChecked s g p P .store true true n none (laneAddrs p (globalAddr g sb a)) (fun s1 oks rest =>
         let places := oks.map (fun x => (Place.global x.2.2.pa x.2.1 x.2.2.attr x.2.2.size, n))
         let s2 := settleOlder s1 g.gid p.idx places
         if mustWait s2 g.gid p.idx places then suspend s2
         else
           let r := oks.foldl (atomLane c d P g.gid p.idx n (op g)) (s2, [])
           again r.1 g.gid p.idx (fun g p =>
             let q := if r.2.isEmpty then (g, p) else addPending r.1 g p P.view (loadRegs d n) r.2
             endAccess i e P true g.gid p.idx rest (addLinks (r.1.put q.1 q.2) g.gid p.idx r.1.seq false (if d == 126 then [] else oks))))))

def execAtomgA (e : Bool) (z : AtomA) (c : Scope) (sb : BitVec 5) (d : RegNum) (a : Src) (s : State) : Result :=
  globalAtomic (.atomgA e z c sb d a) e c sb d a 4 (atomACas z) (fun g l old => atomABytes z g d l old) s

def execAtomgB (e : Bool) (z : AtomB) (c : Scope) (sb : BitVec 5) (d : RegNum) (a : Src) (s : State) : Result :=
  globalAtomic (.atomgB e z c sb d a) e c sb d a (atomBSize z) (atomBCas z) (fun g l old => atomBBytes z g d l old) s

/-! ## PREF (R187) -/

/-- Prefetch one lane's line: a lane that would fault, or whose page is not WB, is dropped. -/
def prefLane (z : PrefLevel) (P : Party) (s : State) (va : Nat) : State :=
  if !addrInRange va then s
  else
    match translate s P va .load with
    | (s1, .ok l) =>
      if l.attr != 0 || heldLine s1 (.global l.pa va 0 4096) then s1
      else
        (List.range 8).foldl (fun s j =>
          let pa := l.pa / 512 * 512 + 64 * j
          let v := va / 512 * 512 + 64 * j
          match z with
          | .l1 => (loadWB s P 0 0 v pa 1).1
          | .l2 => (fillL2 s P pa 0).1
          | .llc => s) s1
    | (s1, _) => s1

def execPref (e : Bool) (z : PrefLevel) (sb : BitVec 5) (a : Src) (s : State) : Result :=
  withIssuer s (fun g p =>
    ifLegal (globalOk g sb a) s g p
      (let P := s.party g
       let s1 := (lanesOf p.active).foldl (fun s l => prefLane z P s (globalAddr g sb a l)) s
       again s1 g.gid p.idx (fun g p => retire (.pref e z sb a) e s1 g p)))

/-! ## Results return and stores are performed -/

/-- The link requests of the lanes that have returned end. -/
def endLinks (s : State) (gid i seq : Nat) (lanes : LaneMask) : State :=
  { s with en := { s.en with link := s.en.link.filter (fun x => !(x.gid == gid && x.sp == i && x.seq == seq && laneIn lanes x.lane)) } }

/-- Lanes of an outstanding result are written (R48, R49): those of `lanes` whose load may be performed now (DEDUCED, log entry 8). -/
def execOutstandingResultReturn (gid seq : Nat) (lanes : LaneMask) (s : State) : Result :=
  match s.group? gid with
  | none => .next s
  | some g =>
    match g.pending.find? (fun x => x.seq == seq) with
    | none => .next s
    | some x =>
      let ready := maskOf ((x.parts.filter (fun r => laneIn lanes r.lane && partReady s g x r)).map (·.lane))
      if ready == 0 then .next s
      else .next (settleGroup (endLinks (returnLanes s gid x ready) gid x.sp seq ready) gid)

/-- Buffered store `i` of a split is performed and acknowledged (R174, R264), unless something must go first. -/
def execStoreAcknowledge (gid sp i : Nat) (s : State) : Result :=
  match s.split? gid sp with
  | none => .next s
  | some (g, p) =>
    match p.buffer[i]? with
    | none => .next s
    | some x =>
      if entryReady s g p x then
        .next (performEntry s gid sp (s.party g) x)
      else .next s

/-- CLOCK reaches the tick for which the split's fetch is suspended (R174, R264). -/
def execGwctReached (gid sp : Nat) (s : State) : Result :=
  .next (s.mapSplit gid sp (fun q => if decide (q.hold ≤ s.clock) then { q with hold := 0 } else q))

end Sys2Proof.Machine
end

