-- ==== Sys2Proof/Machine/Pools.lean ====
section
/-! DEFINITION. A cluster's pools as a block reaches them: allocations and their segments, ages, copy on write, bounds and
expiry checks, and bank replays (08_memory_access.md R178 to R182; 11_views.md R245). -/

namespace Sys2Proof.Machine

/-! ## Allocations -/

/-- An age of one reference microsecond, in the unit of 1/6000 reference nanosecond (DEDUCED, log entry 37). -/
def ageMicro : Nat := 6000000

/-- The segment of byte `j` has expired (R182). -/
def expired (s : State) (a : Alloc) (j : Nat) : Bool := decide (a.life * ageMicro ≤ lookupD s.mm.segAge (segOf a j))

/-! ## Free segments -/

/-- The pool is in scratchpad mode. -/
def isScratch (s : State) (cluster pool : Nat) : Bool := (s.pool cluster pool).mode == .scratch

/-- A segment that no kept allocation maps. -/
def segFree (s : State) (seg : Nat) : Bool := !(keptAllocs s).any (fun a => a.segs.contains seg)

/-- A free scratchpad segment of a cluster. -/
def freeSeg (s : State) (cluster : Nat) : Option Nat :=
  ((List.range 64).filter (isScratch s cluster)).findSome? (fun p =>
    ((List.range 768).map (fun k => segId cluster p (512 * k))).find? (segFree s))

/-! ## Copy on write (R245) -/

/-- The sectors with errors once segment `seg` is copied to `f`: what cannot be read stays so in the copy (R176). -/
def copyBad (bad : List Nat) (seg f : Nat) : List Nat :=
  let from_ := (poolErrors + segKey seg) / 64
  let to_ := (poolErrors + segKey f) / 64
  bad.filter (fun x => decide (x < to_) || decide (to_ + 8 ≤ x)) ++ ((List.range 8).filter (fun j => bad.contains (from_ + j))).map (to_ + ·)

/-- The pins of a tag once an allocation's segment `seg` is copied to `f`: those of an MMA whose block reaches the allocation hold the copy too
(R226). -/
def copyPins (s : State) (a : Alloc) (seg f : Nat) (t : Tag) : List Pin :=
  let reached (x : Pin) : Bool := t.queue.any (fun m => m.no == x.mma && (s.block? m.bid).any (fun b => mine b a))
  t.pins ++ (t.pins.filter (fun x => t.cluster == a.cluster && x.kind == .pool && segKey seg ≤ x.addr && x.addr < segKey seg + 512 && reached x)).map
    (fun x => { x with addr := segKey f + (x.addr - segKey seg) })

/-- Give an allocation its own copy of segment `k`, with the same bytes and age, where another map shares it; none where no
free segment exists. -/
def ownSegment (s : State) (a : Alloc) (k : Nat) : Option State :=
  let seg := a.segs.getD k 0
  if segUses s seg ≤ 1 then some s
  else
    match freeSeg s a.cluster with
    | none => none
    | some f =>
      some { s with
        mm :=
          { s.mm with
            allocs := s.mm.allocs.map (fun x => if x == a then { x with segs := x.segs.set k f } else x)
            segAge := setKey s.mm.segAge f (lookupD s.mm.segAge seg)
            bad := copyBad s.mm.bad seg f
            scratch := ssetMany s.mm.scratch (segKey f) (sgetMany s.mm.scratch (segKey seg) 512) }
        en := { s.en with tags := s.en.tags.map (fun t => { t with pins := copyPins s a seg f t }) } }

/-- Make the segment at a block's local address its own before a store. -/
def ownAt (s : State) (b : Block) (la : Nat) : Option State :=
  match locate s b la with
  | some (a, j) => ownSegment s a (j / 512)
  | none => some s

/-! ## Checks of local addresses (R178) -/

/-- The code of the check that a local access of `n` bytes fails, or none. -/
def localCode (s : State) (b : Block) (reads : Bool) (n la : Nat) : Option Nat :=
  if la % n != 0 then some 0x04
  else
    match locate s b la with
    | none => some 0x08
    | some (a, j) => if reads && expired s a j then some 0x07 else none

/-- The trap that the lanes of a local access give: code, lanes, TRAPADDR (R178). -/
def localTrap (s : State) (b : Block) (reads : Bool) (n : Nat) (lanes : List (Nat × Nat)) : Option (Nat × LaneMask × Nat) :=
  [0x04, 0x08, 0x07].findSome? (fun c =>
    match lanes.filter (fun x => localCode s b reads n x.2 == some c) with
    | [] => none
    | x :: r =>
      let addr := if c = 0x07 then r.foldl (fun m y => min m (y.2 / 512 * 512)) (x.2 / 512 * 512) else x.2
      some (c, maskOf ((x :: r).map (·.1)), addr))

/-- Make every lane's segment the block's own; the lanes that find no free segment are given (R245) (DEDUCED, log entry 37). -/
def ownLanes (s : State) (b : Block) (lanes : List (Nat × Nat)) : State × List (Nat × Nat) :=
  lanes.foldl (fun st x =>
    match ownAt st.1 b x.2 with
    | some s' => (s', st.2)
    | none => (st.1, st.2 ++ [x])) (s, [])

/-- Check a local access, and copy shared segments before a write; then go on, or trap (R178, R245). -/
def withLocal (s : State) (g : Group) (p : Split) (reads writes : Bool) (n : Nat) (lanes : List (Nat × Nat))
    (go : State → Block → Result) : Result :=
  match s.block? g.bid with
  | none => trapHere s g p (.mk' 0x08 p.active (BitVec.ofNat 64 ((lanes.head?.map (·.2)).getD 0)))
  | some b =>
    match localTrap s b reads n lanes with
    | some (c, m, a) => trapHere s g p (.mk' c m (BitVec.ofNat 64 a))
    | none =>
      if writes then
        let r := ownLanes s b lanes
        match r.2 with
        | [] => go r.1 b
        | x :: _ => trapHere r.1 g p (.mk' 0x0D (maskOf (r.2.map (·.1))) (BitVec.ofNat 64 x.2))
      else go s b

/-! ## Bank replays (R179) -/

/-- The words of the pools that a lane touches: pool, allocation, word. -/
def laneWords (s : State) (b : Block) (n la : Nat) : List (Nat × Nat × Nat) :=
  match locate s b la with
  | some (a, j) => (List.range (regsOf n)).map (fun k => (la / 2 ^ 19, a.base, j / 4 + k))
  | none => []

/-- Distinct members of a list. -/
def distinct {α : Type} [BEq α] (l : List α) : List α := l.foldl (fun r x => if r.contains x then r else r ++ [x]) []

/-- Passes that a unit takes. -/
def unitPasses (words : List (Nat × Nat × Nat)) : Nat :=
  words.foldl (fun m w => max m ((words.filter (fun x => x.1 == w.1 && x.2.2 % 32 == w.2.2 % 32)).length)) 1

/-- The replay passes of an access: for each unit of lanes, its passes beyond the first (R179). An atomic counts a word once
for each lane (DESIGN CHOICE, log entry 4). -/
def replayCount (s : State) (b : Block) (n : Nat) (atom : Bool) (lanes : List (Nat × Nat)) : Nat :=
  let per := if n ≤ 4 then 32 else if n = 8 then 16 else 8
  ((List.range (32 / per)).map (fun u =>
    let ws := (lanes.filter (fun x => x.1 / per == u)).flatMap (fun x => laneWords s b n x.2)
    unitPasses (if atom then ws else distinct ws) - 1)).sum

/-- Add replay passes to REPLAYS (R179). -/
def addReplays (g : Group) (n : Nat) : Group := { g with replays := g.replays + BitVec.ofNat 32 n }

end Sys2Proof.Machine
end

