-- ==== Sys2Proof/Machine/Scratch.lean ====
section
/-! DEFINITION. Scratchpad accesses, allocations, FIFOs and pool modes (08_memory_access.md R178 to R185, R188). -/

namespace Sys2Proof.Machine

/-! ## LDS, STS, ATOMS -/

/-- The operands of a local address, and the scopes that local accesses accept (R57). -/
def localOk (g : Group) (c : Scope) (sb : BitVec 5) (a : Src) : Bool := sb != 31 && srcOk g a && (c == .blk || c == .clu)

/-- The local address of a lane (R57). -/
def localAddr (g : Group) (sb : BitVec 5) (a : Src) (l : Nat) : Nat :=
  if sb == 30 then (srcVal g a l).toNat else (readReg g (96 + sb.toNat) l + srcVal g a l).toNat

/-- The active lanes with their local addresses. -/
def localLanes (g : Group) (p : Split) (sb : BitVec 5) (a : Src) : List (Nat × Nat) :=
  (lanesOf p.active).map (fun l => (l, localAddr g sb a l))

/-- The active lanes with the local addresses of an LDS or STS of `n` bytes (R57, R361). -/
def runLanes (g : Group) (p : Split) (sb : BitVec 5) (a : Src) (n : Nat) : List (Nat × Nat) :=
  (lanesOf p.active).map (fun l => (l, (localAddr g sb a l + runStride g sb a n l) % 2 ^ 32))

/-- One lane of an LDS with d = zero: its read is performed at once and writes nothing (R68, R173, R176). -/
def loadNothing (b : Block) (P : Party) (gid i n : Nat) (s : State) (x : Nat × Nat) : State :=
  match keyAt s b x.2 with
  | some key => if poolFails s key n then noteAbort (poolAbort s P) gid i (key % 2 ^ 25) else s
  | none => s

/-- LDS (R178, R179): each lane's read is left to its return. In a save or restore routine the lanes whose segment has expired get
0 in place of STALE and are ORed into TRAPMASK (R345). -/
def execLds (e : Bool) (z : LoadSize) (c : Scope) (sb : BitVec 5) (d : RegNum) (a : Src) (s : State) : Result :=
  withIssuer s (fun g p =>
    ifLegal (localOk g c sb a && loadDstOk g d (loadBytes z)) s g p
      (let lanes := runLanes g p sb a (loadBytes z)
       withLocal s g p (!inRoutine g) false (loadBytes z) lanes (fun s1 b =>
         let old (x : Nat × Nat) : Bool := inRoutine g && localCode s1 b true (loadBytes z) x.2 == some 0x07
         let parts := lanes.map (fun x =>
           { lane := x.1, dests := loadDests d x.1 (loadBytes z), vals := if old x then (loadDests d x.1 (loadBytes z)).map (fun _ => 0) else [],
             load := if old x then none else some (.pool ((keyAt s1 b x.2).getD 0), loadBytes z), sext := loadSigned z, scope := c, flags := 0 : LaneResult })
         let g1 := addReplays { g with trapMask := g.trapMask ||| maskOf ((lanes.filter old).map (·.1)) } (replayCount s1 b (loadBytes z) false lanes)
         if d == 126 then
           let s2 := (lanes.filter (fun x => !old x)).foldl (loadNothing b (s.party g) g.gid p.idx (loadBytes z)) (s1.put g1 p)
           again s2 g.gid p.idx (fun g p => retire (.lds e z c sb d a) e s2 g p)
         else
           let q := addPending s1 g1 p 0 (loadRegs d (loadBytes z)) parts
           retire (.lds e z c sb d a) e s1 q.1 q.2)))

/-- STS (R178): each lane's bytes are buffered until they are performed at the pool. -/
def execSts (e : Bool) (z : StoreSize) (c : Scope) (sb : BitVec 5) (d a : Src) (s : State) : Result :=
  withIssuer s (fun g p =>
    ifLegal (localOk g c sb a && storeSrcOk g d (storeSize z)) s g p
      (let lanes := runLanes g p sb a (storeSize z)
       withLocal s g p false true (storeSize z) lanes (fun s1 b =>
         let entries := lanes.map (fun x =>
           { seq := s1.seq, after := pastOf g p, place := .pool ((keyAt s1 b x.2).getD 0), scope := c, bytes := dataBytes g d x.1 (storeSize z), view := 0,
             held := pinned s1 (.pool ((keyAt s1 b x.2).getD 0)) (dataBytes g d x.1 (storeSize z)).length : BufStore })
         let g1 := addReplays g (replayCount s1 b (storeSize z) false lanes)
         retire (.sts e z c sb d a) e s1 g1 { p with buffer := p.buffer ++ entries, past := pastOf g p ++ [s1.seq] })))

/-- One lane of ATOMS, performed at the pool; one whose data fails is not (R176, R177). -/
def atomsLane (d : RegNum) (n : Nat) (op : Nat → List Byte → List Byte) (b : Block) (P : Party) (gid i : Nat)
    (st : State × List LaneResult) (x : Nat × Nat) : State × List LaneResult :=
  let key := (keyAt st.1 b x.2).getD 0
  let old := poolRead st.1 key n
  if poolFails st.1 key n then (noteAbort (poolAbort st.1 P) gid i (key % 2 ^ 25), st.2)
  else
  ({ st.1 with mm := { st.1.mm with scratch := ssetMany st.1.mm.scratch key (op x.1 old) } },
    if d == 126 then st.2 else st.2 ++ [oldPart d x.1 n old])

/-- ATOMS, for both sets (R177, R178). -/
def poolAtomic (i : Instr) (e : Bool) (c : Scope) (sb : BitVec 5) (d : RegNum) (a : Src) (n : Nat) (cas : Bool)
    (op : Group → Nat → List Byte → List Byte) (s : State) : Result :=
  withIssuer s (fun g p =>
    ifLegal (localOk g c sb a && atomDstOk g d n cas) s g p
      (let lanes := localLanes g p sb a
       withLocal s g p true true n lanes (fun s1 b =>
         let places := lanes.map (fun x => (Place.pool ((keyAt s1 b x.2).getD 0), n))
         let s2 := settleOlder s1 g.gid p.idx places
         if mustWait s2 g.gid p.idx places then suspend s2
         else
           let r := lanes.foldl (atomsLane d n (op g) b (s.party g) g.gid p.idx) (s2, [])
           again r.1 g.gid p.idx (fun g p =>
             let g1 := addReplays g (replayCount s1 b n true lanes)
             let q := if r.2.isEmpty then (g1, p) else addPending r.1 g1 p 0 (loadRegs d n) r.2
             retire i e r.1 q.1 q.2))))

def execAtomsA (e : Bool) (z : AtomA) (c : Scope) (sb : BitVec 5) (d : RegNum) (a : Src) (s : State) : Result :=
  poolAtomic (.atomsA e z c sb d a) e c sb d a 4 (atomACas z) (fun g l old => atomABytes z g d l old) s

def execAtomsB (e : Bool) (z : AtomB) (c : Scope) (sb : BitVec 5) (d : RegNum) (a : Src) (s : State) : Result :=
  poolAtomic (.atomsB e z c sb d a) e c sb d a (atomBSize z) (atomBCas z) (fun g l old => atomBBytes z g d l old) s

/-! ## SALLOC, SFREE, RENEW, SSTAT -/

/-- A block's core's quarter. -/
def homeQuarter (b : Block) : Nat := 4 * b.cluster + b.core

/-- The pools in which a block may allocate: of its own quarter, or for its cohort of every quarter of the cluster that serves
the partition (R180). -/
def allocPools (s : State) (b : Block) (cohort : Bool) : List Nat :=
  (List.range 64).filter (fun p =>
    isScratch s b.cluster p &&
      (if cohort then (s.quarter (4 * b.cluster + p / 16)).serves == (s.partyOf b).part else p / 16 == b.core))

/-- Segments `k .. k + n - 1` of a pool are free. -/
def runFree (s : State) (cluster pool k n : Nat) : Bool :=
  (List.range n).all (fun j => segFree s (segId cluster pool (512 * (k + j))))

/-- Whether the pools `p .. p + m` hold a multi-pool allocation of `n` segments from `p` on (R180). -/
def spanFree (s : State) (cluster : Nat) (pools : List Nat) (p n : Nat) : Bool :=
  (List.range ((n + 767) / 768)).all (fun i => pools.contains (p + i) && runFree s cluster (p + i) 0 (min 768 (n - 768 * i)))

/-- The ranges of local addresses of an allocation, as (first, length) (R180). -/
def localRanges (base size : Nat) : List (Nat × Nat) :=
  if size ≤ poolBytes then [(base, size)]
  else (List.range ((size + poolBytes - 1) / poolBytes)).map (fun i => (base + i * 2 ^ 19, min poolBytes (size - poolBytes * i)))

/-- Two allocations have a local address in common. -/
def rangesMeet (x y : List (Nat × Nat)) : Bool := x.any (fun u => y.any (fun v => decide (u.1 < v.1 + v.2) && decide (v.1 < u.1 + u.2)))

/-- The blocks in whose maps an allocation of a block, or of its cohort, lies. -/
def mapBlocks (s : State) (b : Block) (cohort : Bool) : List Block :=
  if cohort then b :: s.fe.blocks.filter (fun x => x.lid == b.lid && x.cohort == b.cohort && x.st != .ended) else [b]

/-- No allocation of these maps has a local address of the range: an allocation mapped back elsewhere keeps its addresses (R245, R351). -/
def localFree (s : State) (bs : List Block) (base size : Nat) : Bool :=
  bs.all (fun b => (s.mm.allocs.filter (mine b)).all (fun a => !rangesMeet (localRanges base size) (localRanges a.base a.size)))

/-- The places that fit an allocation: pool and first segment (R180). -/
def allocPlaces (s : State) (b : Block) (cohort : Bool) (size : Nat) : List (Nat × Nat) :=
  let pools := allocPools s b cohort
  let n := size / 512
  let maps := mapBlocks s b cohort
  let ok (p k : Nat) : Bool := localFree s maps (p * 2 ^ 19 + 512 * k) size
  if size ≤ poolBytes then
    pools.flatMap (fun p => ((List.range (769 - n)).filter (fun k => runFree s b.cluster p k n && ok p k)).map (fun k => (p, k)))
  else (pools.filter (fun p => spanFree s b.cluster pools p n && ok p 0)).map (fun p => (p, 0))

/-- The segments of an allocation from a place on. -/
def placeSegs (cluster pool k n : Nat) : List Nat :=
  (List.range n).map (fun j => segId cluster (pool + (k + j) / 768) (512 * ((k + j) % 768)))

/-- Make an allocation of `size` bytes, a multiple of 512, in one of the places that fit; none where none does (R180) (DEDUCED, log entry 37). -/
def allocate (s : State) (b : Block) (cohort : Bool) (owner size life : Nat) : State × Option Nat :=
  let places := allocPlaces s b cohort size
  match places[Config.allocChoice s.seq % places.length]? with
  | none => (s, none)
  | some (p, k) =>
    let segs := placeSegs b.cluster p k (size / 512)
    let base := p * 2 ^ 19 + 512 * k
    ({ s with mm :=
        { s.mm with
          allocs := s.mm.allocs ++ [{ cohortOwned := cohort, owner, cluster := b.cluster, base, size, life, segs }]
          segAge := segs.map (fun x => (x, 0)) ++ s.mm.segAge } }, some base)

/-- A rival of a FORK: a block with a fork record. -/
def inRival (s : State) (g : Group) : Bool := ((s.block? g.bid).bind (·.forkRec)).isSome

/-- Raise VIEW_STATE (R254) (DEDUCED, log entry 26). -/
def viewState (s : State) (g : Group) (p : Split) : Result := trapCode s g p 0x0F

/-- The allocations that count against an owner's 64. -/
def ownedCount (s : State) (b : Block) (cohort : Bool) : Nat :=
  (s.mm.allocs.filter (fun a => mine b a && a.cohortOwned == cohort)).length

/-- SALLOC (R180). -/
def execSalloc (e m : Bool) (d : RegNum) (a b : Src) (s : State) : Result :=
  withIssuer s (fun g p =>
    ifLegal (uniDstOk g d && srcOk g a && srcOk g b) s g p
      (let bytes := (uniVal g p a).toNat
       let life := (uniVal g p b).toNat
       if m && inRival s g then viewState s g p
       else if bytes == 0 || decide (6291456 < bytes) then illegalOperand s g p
       else if life < 1 || 60 < life then trapCode s g p 0x1A
       else
         match s.block? g.bid with
         | none => illegalOperand s g p
         | some blk =>
           let fin (s : State) (w : Word) : Result := retire (.salloc e m d a b) e s (writeUni g p d w) p
           if 64 ≤ ownedCount s blk m then fin s 0x80000002
           else
             match allocate s blk m (if m then cohortKey blk else blk.bid) ((bytes + 511) / 512 * 512) life with
             | (_, none) => fin s 0x80000001
             | (s1, some base) => fin s1 (BitVec.ofNat 32 base)))

/-- A range of scratch keys lies in an allocation. -/
def inAlloc (a : Alloc) (key : Nat) : Bool := a.segs.any (fun x => decide (segKey x ≤ key) && decide (key < segKey x + 512))

/-- The groups that a block or cohort owns. -/
def ownerGroups (s : State) (b : Block) (cohort : Bool) : List Group :=
  s.fe.groups.filter (fun g =>
    match s.block? g.bid with
    | some x => if cohort then x.lid == b.lid && x.cohort == b.cohort else x.bid == b.bid
    | none => false)

/-- An access to the allocation that a group issued is not performed yet (R181). -/
def accessesLeft (gs : List Group) (al : Alloc) : Bool :=
  gs.any (fun g =>
    g.pending.any (fun x => x.parts.any (fun r => match r.load with | some (.pool k, _) => inAlloc al k | _ => false)) ||
      g.splits.any (fun q => q.buffer.any (fun y => match y.place with | .pool k => inAlloc al k | _ => false)))

/-- A local address of a copy lies in an allocation. -/
def addrInAlloc (a : Alloc) (la : Nat) : Bool := (allocByte a la).isSome

/-- An unfinished copy request names the allocation (R181). -/
def copyNames (s : State) (bids : List Nat) (a : Alloc) : Bool :=
  s.en.copies.any (fun c => bids.contains c.bid &&
    ((c.slocal && addrInAlloc a c.src) || (c.dlocal && addrInAlloc a c.dst) || addrInAlloc a c.bar))

/-- A split is parked on a barrier object in the allocation (R181, R199). -/
def waitersIn (gs : List Group) (a : Alloc) : Bool :=
  gs.any (fun g => g.splits.any (fun q => match q.park with | .object la => addrInAlloc a la | _ => false))

/-- SFREE (R181). -/
def execSfree (e m : Bool) (a : Src) (s : State) : Result :=
  withIssuer s (fun g p =>
    ifLegal (srcOk g a) s g p
      (let la := (uniVal g p a).toNat
       let bounds := trapHere s g p (.mk' 0x08 p.active (BitVec.ofNat 64 la))
       if m && inRival s g then viewState s g p
       else
         match s.block? g.bid with
         | none => bounds
         | some b =>
           match s.mm.allocs.find? (fun x => mine b x && x.cohortOwned == m && x.base == la) with
           | none => bounds
           | some al =>
             let gs := ownerGroups s b m
             if copyNames s (gs.map (·.bid)) al || waitersIn gs al then bounds
             else if accessesLeft gs al then suspend s
             else retire (.sfree e m a) e (freeAllocs s (fun x => x == al)) g p))

/-- RENEW's segments, in order: the indices of an allocation that `n` bytes from byte `j` touch. -/
def renewSegs (j n : Nat) : List Nat := (List.range ((j + n - 1) / 512 - j / 512 + 1)).map (fun k => j / 512 + k)

/-- Make segments of the allocation based at `base` the block's own, one by one; gives the state, or the local address of the
first that finds no free segment. -/
def ownAll (s : State) (b : Block) (base : Nat) : List Nat → State × Option Nat
  | [] => (s, none)
  | k :: r =>
    match s.mm.allocs.find? (fun x => mine b x && x.base == base) with
    | none => (s, none)
    | some al =>
      match ownSegment s al k with
      | some s' => ownAll s' b base r
      | none => (s, some (allocAddr al (512 * k)))

/-- RENEW (R183). -/
def execRenew (e : Bool) (a b : Src) (s : State) : Result :=
  withIssuer s (fun g p =>
    ifLegal (srcOk g a && srcOk g b) s g p
      (let la := (uniVal g p a).toNat
       let n := (uniVal g p b).toNat
       let bounds := trapHere s g p (.mk' 0x08 p.active (BitVec.ofNat 64 la))
       match s.block? g.bid with
       | none => bounds
       | some blk =>
         match locate s blk la with
         | none => bounds
         | some (al, j) =>
           if n == 0 || decide (al.size < j + n) then bounds
           else
             let ks := renewSegs j n
             match ks.find? (fun k => expired s al (512 * k)) with
             | some k => trapHere s g p (.mk' 0x07 p.active (BitVec.ofNat 64 (allocAddr al (512 * k))))
             | none =>
               match ownAll s blk al.base ks with
               | (s1, some la') => trapHere s1 g p (.mk' 0x0D p.active (BitVec.ofNat 64 la'))
               | (s1, none) =>
                 match s1.mm.allocs.find? (fun x => mine blk x && x.base == al.base) with
                 | none => bounds
                 | some al1 =>
                   let segs := ks.map (fun k => al1.segs.getD k 0)
                   let s2 := { s1 with mm := { s1.mm with segAge := s1.mm.segAge.map (fun x => if segs.contains x.1 then (x.1, 0) else x) } }
                   retire (.renew e a b) e s2 g p))

/-- The word of SSTAT (R184): remaining reference nanoseconds, rounded down, or bit 31. -/
def sstatWord (s : State) (g : Group) (la : Nat) : Word :=
  match (s.block? g.bid).bind (fun b => locate s b la) with
  | none => 0x80000000
  | some (al, j) => BitVec.ofNat 32 ((al.life * ageMicro - lookupD s.mm.segAge (segOf al j)) / 6000)

def execSstat (e : Bool) (d : RegNum) (a : Src) (s : State) : Result :=
  withIssuer s (fun g p =>
    ifLegal (uniDstOk g d && srcOk g a) s g p
      (retire (.sstat e d a) e s (writeUni g p d (sstatWord s g (uniVal g p a).toNat)) p))

/-! ## FIFOs (R185) -/

/-- Bytes of a FIFO slot. -/
def fifoBytes : FifoSize → Nat
  | .b32 => 4
  | .b64 => 8
  | .b128 => 16

/-- The FIFO that a local address names for a block. -/
def fifoAt (s : State) (g : Group) (la : Nat) : Option Pool :=
  match s.block? g.bid with
  | none => none
  | some b =>
    if la % 2 ^ 19 == 0 && decide (la < 2 ^ 25) then
      let x := s.pool b.cluster (la / 2 ^ 19)
      if x.mode == .fifo && x.holder == some g.bid then some x else none
    else none

/-- What FENQ and FDEQ share: the checks of R185, then the FIFO. -/
def withFifo (s : State) (g : Group) (p : Split) (sb : BitVec 5) (z : FifoSize) (go : Pool → Nat → Result) : Result :=
  let la := (readReg g (96 + sb.toNat) 0).toNat
  if inRival s g then viewState s g p
  else
    match fifoAt s g la with
    | none => trapHere s g p (.mk' 0x08 p.active (BitVec.ofNat 64 la))
    | some x => if x.width != fifoBytes z || decide (x.depth < (lanesOf p.active).length) then illegalOperand s g p else go x la

/-- A lane's entry. -/
def fifoEntry (g : Group) (d : Src) (l n : Nat) : BitVec 128 := BitVec.ofNat 128 (leNat (dataBytes g d l n))

def execFenq (e : Bool) (z : FifoSize) (sb : BitVec 5) (d : Src) (s : State) : Result :=
  withIssuer s (fun g p =>
    ifLegal (decide (sb.toNat < 30) && storeSrcOk g d (fifoBytes z)) s g p
      (withFifo s g p sb z (fun x _ =>
        let lanes := lanesOf p.active
        if x.depth < x.entries.length + lanes.length then
          .next (parkTo (.fenq e z sb d) e .wait (.fifo x.pool lanes.length true) p.pc s g p)
        else
          retire (.fenq e z sb d) e
            (s.mapPool x.cluster x.pool (fun y => { y with entries := y.entries ++ lanes.map (fun l => (fifoEntry g d l (fifoBytes z), 0)) })) g p)))

def execFdeq (e : Bool) (z : FifoSize) (sb : BitVec 5) (d : RegNum) (s : State) : Result :=
  withIssuer s (fun g p =>
    ifLegal (decide (sb.toNat < 30) && loadDstOk g d (fifoBytes z)) s g p
      (withFifo s g p sb z (fun x la =>
        let lanes := lanesOf p.active
        let n := lanes.length
        if x.entries.length < n then
          .next (parkTo (.fdeq e z sb d) e .wait (.fifo x.pool n false) p.pc s g p)
        else if (x.entries.take n).any (fun y => decide (x.life * ageMicro ≤ y.2)) then
          trapHere s g p (.mk' 0x07 p.active (BitVec.ofNat 64 la))
        else
          let parts := (lanes.zip (x.entries.take n)).map (fun y => oldPart d y.1 (fifoBytes z) (leBytes y.2.1.toNat (fifoBytes z)))
          let s1 := s.mapPool x.cluster x.pool (fun y => { y with entries := y.entries.drop n })
          let q := if d == 126 then (g, p) else addPending s1 g p 0 (loadRegs d (fifoBytes z)) parts
          retire (.fdeq e z sb d) e s1 q.1 q.2)))

/-- A parked FENQ or FDEQ can complete: its split executes the instruction again (R185). -/
def execFifoResume (gid sp : Nat) (s : State) : Result :=
  match s.split? gid sp with
  | none => .next s
  | some (g, p) =>
    match p.park, s.block? g.bid with
    | .fifo pool need enq, some b =>
      let x := s.pool b.cluster pool
      if (if enq then decide (x.entries.length + need ≤ x.depth) else decide (need ≤ x.entries.length)) then
        .next (s.mapSplit gid sp (fun q => unparkSplit g q))
      else .next s
    | _, _ => .next s

/-! ## POOLCFG (R188) -/

/-- The mode word is legal. -/
def poolWordOk (w : Nat) : Bool :=
  let mode := w % 4
  let fw := w / 4 % 4
  let fd := w / 16 % 32
  let fl := w / 512 % 64
  mode != 3 && w / 32768 == 0 &&
    (if mode == 2 then
      fw != 3 && decide (4 ≤ fd) && decide (fd ≤ 16) && decide (4 * 2 ^ fw * 2 ^ fd ≤ poolBytes) && decide (1 ≤ fl) && decide (fl ≤ 60)
    else w / 4 == 0)

/-- Clean and drop the lines of a pool that leaves cache mode; those of other pools stay (R188, R280). -/
def flushPool (s : State) (cluster pool : Nat) : State :=
  let mine (x : L2Sector) : Bool := x.cluster == cluster && x.pool == pool
  let s1 := (s.mm.l2.filter (fun x => mine x && x.dirty != 0)).foldl (fun s x => (cleanL2 s x).1) s
  s1.setL2 (s1.mm.l2.filter (fun x => !mine x))

/-- The status and effect of POOLCFG for pool `n` of a block's cluster. A scratchpad pool that holds a live allocation is BUSY also where the mode
asked for is the one it has, which another sentence of R188 would call DONE (DESIGN CHOICE, log entry 82). -/
def poolChange (s : State) (b : Block) (n w : Nat) : State × Word :=
  let part := (s.partyOf b).part
  let x := s.pool b.cluster n
  if (s.quarter (4 * b.cluster + n / 16)).serves != part then (s, 2)
  else if (x.mode == .scratch && (keptAllocs s).any (fun a => a.segs.any (fun k => k / 65536 == b.cluster && k % 65536 / 768 == n))) ||
      (x.mode == .fifo && x.holder.isSome) then (s, 1)
  else
    match w % 4 with
    | 0 =>
      if x.mode == .cache then (s, 0)
      else (s.mapPool b.cluster n (fun y => { y with mode := .cache, holder := none, entries := [] }), 0)
    | 1 =>
      if x.mode == .scratch then (s, 0)
      else
        let s1 := if x.mode == .cache then flushPool s b.cluster n else s
        (s1.mapPool b.cluster n (fun y => { y with mode := .scratch, holder := none, entries := [] }), 0)
    | _ =>
      let s1 := if x.mode == .cache then flushPool s b.cluster n else s
      (s1.mapPool b.cluster n (fun y =>
        { y with mode := .fifo, width := 4 * 2 ^ (w / 4 % 4), depth := 2 ^ (w / 16 % 32), life := w / 512 % 64, holder := some b.bid,
                 entries := [] }), 0)

/-- An operand pin of the cluster lies on global memory: a pool that leaves cache mode waits for it (R188). -/
def clusterPins (s : State) (cluster : Nat) : Bool := s.en.tags.any (fun t => t.cluster == cluster && t.pins.any (fun x => x.kind != .pool))

def execPoolcfg (e : Bool) (d : RegNum) (a b : Src) (s : State) : Result :=
  withIssuer s (fun g p =>
    if !g.mode then privilege s g p
    else
      ifLegal (uniDstOk g d && srcOk g a && srcOk g b) s g p
        (let n := (uniVal g p a).toNat
         let w := (uniVal g p b).toNat
         if 63 < n || !poolWordOk w then illegalOperand s g p
         else
           match s.block? g.bid with
           | none => illegalOperand s g p
           | some blk =>
             if (s.pool blk.cluster n).mode == .cache && w % 4 != 0 && clusterPins s blk.cluster then suspend s
             else
               let r := poolChange s blk n w
               again r.1 g.gid p.idx (fun g p => retire (.poolcfg e d a b) e r.1 (writeUni g p d r.2) p)))

end Sys2Proof.Machine
end

