-- ==== Sys2Proof/Machine/Objects.lean ====
section
/-! DEFINITION. Barrier objects in scratchpad: BINIT, BARV, BWAIT, YIELD, the completion of a phase, and the expiry of a segment
(09_control_sync_system.md R199 to R205; 08 R182). -/

namespace Sys2Proof.Machine

/-! ## Fields (R199) -/

/-- VALID and not UNDER (R200). -/
def Barrier.usable (o : Barrier) : Bool := o.flags % 2 == 1 && o.flags / 2 % 2 == 0

/-! ## Waiters (R202, R203) -/

/-- The splits parked on the object at a scratch key, over every block that reaches it: group, split, local address. -/
def objectWaiters (s : State) (key : Nat) : List (Nat × Split × Nat) :=
  s.fe.groups.flatMap (fun g => g.splits.filterMap (fun q =>
    match q.park, s.block? g.bid with
    | .object la, some b => if keyAt s b la == some key then some (g.gid, q, la) else none
    | _, _ => none))

/-- complete() of R202 (DEDUCED, log entry 63). -/
def completeObject (s : State) (key : Nat) : State :=
  let o := readBarrier s key
  let ws := objectWaiters s key
  let s1 := writeBarrier s key { o with phase := (o.phase + 1) % 65536, arrive := o.expect, bytes := 0, waiters := 0 }
  ws.foldl (fun s w => releaseSplit s w.1 w.2.1.idx) s1

/-- Release the splits parked on an object with a trap at their own instruction; `addr` gives TRAPADDR from the local address
(R198, R200, R241). -/
def trapWaiters (s : State) (key code : Nat) (addr : Nat → Nat) : State :=
  let ws := objectWaiters s key
  let s1 := if ws.isEmpty then s else writeBarrier s key { readBarrier s key with waiters := 0 }
  ws.foldl (fun s w =>
    raiseReleased s w.1 w.2.1.idx code (addr w.2.2) false) s1

/-! ## The checks of R200 -/

/-- Check an object's address; then make its segment the block's own, and go on with its scratch key. -/
def withObject (s : State) (g : Group) (p : Split) (la : Nat) (k : State → Nat → Result) : Result :=
  match s.block? g.bid with
  | none => trapHere s g p (.mk' 0x08 p.active (BitVec.ofNat 64 la))
  | some b =>
    match localTrap s b true 16 [(lowest p.active, la)] with
    | some (c, _, a) => trapHere s g p (.mk' c p.active (BitVec.ofNat 64 a))
    | none =>
      match ownAt s b la with
      | none => trapHere s g p (.mk' 0x0D p.active (BitVec.ofNat 64 la))
      | some s1 => k s1 ((keyAt s1 b la).getD 0)

/-- Raise BARRIER at an instruction of an object. -/
def barrierTrap (s : State) (g : Group) (p : Split) (la : Nat) : Result := trapHere s g p (.mk' 0x15 p.active (BitVec.ofNat 64 la))

/-- The split's own older accesses to an object's bytes are performed before it acts on the object. -/
def atObject (s : State) (g : Group) (p : Split) (key : Nat) (k : State → Group → Split → Result) : Result :=
  let s1 := settleOlder s g.gid p.idx [(.pool key, 16)]
  if mustWait s1 g.gid p.idx [(.pool key, 16)] then suspend s1 else again s1 g.gid p.idx (fun g p => k s1 g p)

/-! ## BINIT, BARV, BWAIT, YIELD -/

/-- BINIT (R201). -/
def execBinit (e : Bool) (d a b : Src) (s : State) : Result :=
  withIssuer s (fun g p =>
    ifLegal (srcOk g d && srcOk g a && srcOk g b) s g p
      (let la := (uniVal g p a).toNat
       let n := (uniVal g p b).toNat
       withObject s g p la (fun s1 key =>
         atObject s1 g p key (fun s2 g p =>
           if n = 0 || 65535 < n || (readBarrier s2 key).waiters != 0 then barrierTrap s2 g p la
           else
             retire (.binit e d a b) e
               (writeBarrier s2 key { bytes := (uniVal g p d).toNat, arrive := n, phase := 0, expect := n, flags := 1, waiters := 0 }) g p))))

/-- The accesses of a split that BARV waits for are performed (R202): its scratchpad accesses, and its global stores at BLK or CLU
scope, whose lines are cleaned so that the cluster sees them (R205). The flag says that it must still wait (DEDUCED, log entry 63). -/
def settleCluster (s : State) (gid i : Nat) : State × Bool :=
  let s1 := performBuffer s gid i
  match s1.split? gid i with
  | none => (s1, false)
  | some (g, p) =>
    let P := s1.party g
    let store (x : BufStore) : Bool := match x.place with | .pool _ => true | .global _ _ _ _ => x.scope == .blk || x.scope == .clu
    let loads := g.pending.any (fun x => p.past.contains x.seq &&
      x.parts.any (fun r => match r.load with | some (.pool _, _) => true | _ => false))
    if loads || (bufferOf g p).any (fun x => store x.2) || (linesToClean s1 P .clu).any (fun x => cleanHeld s1 x.pa) then (s1, true)
    else
      let r := cleanLines s1 P .clu
      if r.1.clock < r.2 then (r.1.mapSplit gid i (fun q => { q with hold := r.2 }), true) else (r.1, false)

/-- BARV (R202) (DEDUCED, log entry 63). -/
def execBarv (e : Bool) (d : RegNum) (a b : Src) (s : State) : Result :=
  withIssuer s (fun g p =>
    ifLegal (uniDstOk g d && srcOk g a && srcOk g b) s g p
      (let la := (uniVal g p a).toNat
       let add := (uniVal g p b).toNat
       withObject s g p la (fun s1 key =>
         let r := settleCluster s1 g.gid p.idx
         if r.2 then suspend r.1
         else
           again r.1 g.gid p.idx (fun g p =>
             let o := readBarrier r.1 key
             if !o.usable || o.arrive == 0 || decide (2 ^ 32 ≤ o.bytes + add) then barrierTrap r.1 g p la
             else
               let s2 := writeBarrier r.1 key { o with bytes := o.bytes + add, arrive := o.arrive - 1 }
               let s3 := if o.arrive == 1 && o.bytes + add == 0 then completeObject s2 key else s2
               again s3 g.gid p.idx (fun g p => retire (.barv e d a b) e s3 (writeUni g p d (BitVec.ofNat 32 o.phase)) p)))))

/-- What BWAIT and YIELD share: go on at `target` where the phase has passed, else park on the object (R203, R204). -/
def waitPhase (i : Instr) (e : Bool) (st : SplitState) (la token : Nat) (target : Pc) (s : State) (g : Group) (p : Split) : Result :=
  withObject s g p la (fun s1 key =>
    atObject s1 g p key (fun s2 g p =>
      let o := readBarrier s2 key
      if !o.usable then barrierTrap s2 g p la
      else if o.phase != token % 65536 then retireTo i e target s2 g p
      else .next (parkTo i e st (.object la) target (writeBarrier s2 key { o with waiters := o.waiters + 1 }) g p)))

/-- BWAIT (R203). -/
def execBwait (e : Bool) (a b : Src) (s : State) : Result :=
  withIssuer s (fun g p =>
    ifLegal (srcOk g a && srcOk g b) s g p
      (waitPhase (.bwait e a b) e .bwait (uniVal g p a).toNat (uniVal g p b).toNat (pcAfter (.bwait e a b) p) s g p))

/-- YIELD (R204). -/
def execYield (e : Bool) (c : BitVec 3) (j : BitVec 21) (s : State) : Result :=
  withIssuer s (fun g p =>
    waitPhase (.yield e c j) e .yield (readReg g (96 + c.toNat) 0).toNat (readReg g (97 + c.toNat) 0).toNat (branchTarget p j) s g p)

/-! ## Expiry (R182, R200) -/

/-- A segment reaches its lifetime: the splits parked on its objects are released with STALE (DEDUCED, log entry 37). -/
def execSegmentExpiry (seg : Nat) (s : State) : Result :=
  if s.mm.allocs.any (fun a => a.segs.contains seg && decide (a.life * ageMicro ≤ lookupD s.mm.segAge seg)) then
    .next ((List.range 32).foldl (fun s k => trapWaiters s (segKey seg + 16 * k) 0x07 id) s)
  else .next s

end Sys2Proof.Machine
end

