-- ==== Sys2Proof/Machine/Fetch.lean ====
section
/-! DEFINITION. What happens at a split's issue slot: which split issues (15_scheduling.md R318), the events taken there
(19 R340, R357, R358; 21 R376), and fetching and decoding its instruction (01 R29; 02 R52, R63, R64; 13 R287). -/

namespace Sys2Proof.Machine

/-! ## Which split may issue -/

/-- The split is in the middle of an instruction's appends (R119, R171). -/
def midAppend (p : Split) : Bool := p.appends.isSome && p.st != .fault

/-- The group's block is being stopped, or the group evicted, so that of user code only begun appends go on (R343, R354). -/
def stopsHere (s : State) (g : Group) : Bool :=
  !g.mode && (match s.block? g.bid with | some b => b.st == .stopping || evicted b g | none => false)

/-- A group that runs on its core: its block is resident, and the group has not issued the RTE of its routine (R343, R346). A block that is to
be saved, or a group that is to be evicted, runs its handlers, and the appends that an instruction has begun; an evicted group then its routine. -/
def groupRuns (s : State) (g : Group) : Bool :=
  g.alive && !g.routineDone &&
    (match s.block? g.bid with
      | some b =>
        if evicted b g then (b.st == .running || b.st == .stopping) && (g.mode || g.splits.any midAppend)
        else b.st == .running || b.st == .saving || b.st == .restoring || (b.st == .stopping && (g.mode || g.splits.any midAppend))
      | none => true)

/-- The split is runnable, its core's clock runs, and nothing suspends its fetch (R30, R44, R174, R416) (DEDUCED, log entry 13). -/
def canIssue (s : State) (g : Group) (p : Split) : Bool :=
  groupRuns s g && (!stopsHere s g || midAppend p) && !coreStopped s (s.party g).cluster && !p.frozen && p.hold == 0 &&
    (p.st == .ready || p.st == .super || p.st == .fault || (p.st == .ebb && p.outst == 0) || (p.st == .stop && p.stepOne))

/-- The split waits for responses alone: every page of its unfinished lanes has an outstanding fault (R175, R294) (DEDUCED, log entry 27). -/
def awaitsPages (s : State) (g : Group) (p : Split) : Bool :=
  p.st == .fault && !p.faddr.isEmpty && !p.stopReq && p.faddr.all (fun x => faultPending s (s.party g).asid x.2)

/-! ## Reading an instruction -/

/-- Why a fetch finds no word: a finding of R287, or an uncorrectable error in the sector that holds the word. -/
inductive FetchEnd where
  | trans (t : Trans)
  | sector
deriving DecidableEq, Repr

/-- Four bytes at an address of the group's context, as an instruction fetch reads them (R286, R287) (DEDUCED, log entry 71). -/
def fetchWord (s : State) (P : Party) (pc : Pc) : State × Except FetchEnd Word :=
  match translate s P pc.toNat .fetch with
  | (s1, .ok l) =>
    match homeRead s1 P.tenancy P.view l.pa 4 with
    | some bs => (s1, .ok (BitVec.ofNat 32 (leNat bs)))
    | none => (abortTo s1 P l.pa pc.toNat (abortAction s1 P), .error .sector)
  | (s1, t) => (s1, .error (.trans t))

/-- The split waits for the page of its own instruction: the marker lane 32 stands for the fetch of an instruction that has not begun, and
33 for that of one whose lanes `fmask` are unfinished (DEDUCED, log entry 27). -/
def fetchFaulted (p : Split) : Bool := p.st == .fault && p.faddr.any (fun x => x.1 == 32 || x.1 == 33)

/-- The split is in FAULT, or was stopped in FAULT, with lanes of its instruction unfinished (R349, R358). -/
def faulted (p : Split) : Bool := p.st == .fault || (p.st == .stop && p.fmask != 0)

/-- Park a split whose fetch met a replayable fault: the unfinished lanes of an instruction that is replayed stay unfinished (R52, R293). -/
def parkFetch (s : State) (P : Party) (g : Group) (p : Split) (pc : Pc) : State :=
  let mid := faulted p && !p.faddr.any (fun x => x.1 == 32)
  let s1 := s.mapSplit g.gid p.idx (fun q =>
    let q1 := { q with stepOne := false, stepEnd := q.stepOne }
    if mid then { q1 with st := .fault, faddr := q.faddr.filter (fun x => x.1 != 33) ++ [(33, pc.toNat)] }
    else { q1 with st := .fault, fmask := q.active, faddr := [(32, pc.toNat)] })
  deliverFault { s1 with seq := s1.seq + 1 } P pc.toNat false true false 0 g.index (launchSeq s g)

/-- What a fetch that finds no word does: the trap, the park, or nothing while the page moves. No instruction has issued. TRAPADDR of a failed
sector is its virtual address, that of a walker error the faulting address (R52, R195, R287) (DESIGN CHOICE, log entry 76). -/
def fetchStop (s : State) (P : Party) (g : Group) (p : Split) (t : FetchEnd) (pc : Pc) : Result :=
  let trap (code addr : Nat) : Result := .next (raiseAt s g.gid p.idx p.pc (.mk' code p.active (BitVec.ofNat 64 addr)) (code == 0x11))
  match t with
  | .sector => trap 0x11 (pc.toNat / 64 * 64)
  | .trans .access => trap 0x05 pc.toNat
  | .trans .translation => trap 0x06 pc.toNat
  | .trans .abort => trap 0x11 pc.toNat
  | .trans .replay => .next (parkFetch s P g p pc)
  | .trans _ => .next s

/-- What R64 finds in a word. -/
def readWord (mode : Bool) (w lit : Word) : Except Nat Instr :=
  match decodeWord w lit with
  | .ok i => .ok i
  | .error (.illegalOperand true) => if mode then .error 0x02 else .error 0x03
  | .error (.illegalOperand false) => .error 0x02
  | .error _ => .ok (.illegalOp w)

/-- The split about to run the word it has fetched: an instruction whose fetch had faulted, or that none has begun, begins; one that is replayed goes on
with its unfinished lanes, also in a step of a split that was stopped in FAULT (R359). -/
def begun (g : Group) (p q : Split) : Split :=
  let go := if inHandler g q then .super else .ready
  if (faulted p && p.faddr.any (fun x => x.1 == 32)) || (p.st == .stop && p.fmask == 0) then { q with st := go, fmask := 0, faddr := [] }
  else { q with st := if p.st == .stop then .fault else q.st, faddr := q.faddr.filter (fun x => x.1 != 33) }

/-- Run a word whose literal is `lit`, or raise what R64 finds in it. -/
def runWord (run : Instr → State → Result) (s : State) (g : Group) (p : Split) (w lit : Word) : Result :=
  match readWord g.mode w lit with
  | .ok i => run i s
  | .error c => again s g.gid p.idx (fun g p => trapCode s g p c)

/-- Two results are one next state. -/
def sameNext (a b : Result) : Bool :=
  match a, b with
  | .next s, .next t => decide (s = t)
  | _, _ => false

/-- The literal values on which the check of a word whose literal cannot be read stands: a count, a code, a length, a mask, and a gang of the group alone,
so that for every instruction with a literal that some value makes legal, one of them does. -/
def sampleLiterals (g : Group) : List Word := [0, 1, 8, 64, 128, 192, 256, 0xFFFFFFFF, BitVec.ofNat 32 (1 + 256 * g.index)]

/-- The word raises PRIVILEGE or ILLEGAL_OPERAND whatever its literal word is, which is then not read (R64). -/
def refusedEarly (run : Instr → State → Result) (s : State) (g : Group) (p : Split) (w : Word) : Option Result :=
  [privilege s g p, illegalOperand s g p].find? (fun r => (sampleLiterals g).all (fun lit => sameNext (runWord run s g p w lit) r))

/-- Fetch and run the split's instruction: its first word, and the literal word where it has one (R21, R62, R64) (DEDUCED, log entry 71). -/
def fetchRun (run : Instr → State → Result) (s : State) (g : Group) (p : Split) : Result :=
  let P := s.party g
  let ready (s : State) : State := ({ s with cur := some (g.gid, p.idx) }).mapSplit g.gid p.idx (begun g p)
  match fetchWord s P p.pc with
  | (s1, .error t) => fetchStop s1 P g p t p.pc
  | (s1, .ok w) =>
    if wordHasLiteral w then
      match fetchWord s1 P (p.pc + 4) with
      | (s2, .ok l) => runWord run (ready s2) g p w l
      | (s2, .error t) =>
        match refusedEarly run (ready s1) g p w with
        | some r => r
        | none => fetchStop s2 P g p t (p.pc + 4)
    else runWord run (ready s1) g p w 0

/-! ## The issue slot -/

/-- The mask checks of R378: ACTIVE is not empty, no sibling holds one of its lanes, and it lies within the top entry's mask. -/
def maskOk (g : Group) (p : Split) : Bool :=
  p.active != 0 && g.splits.all (fun q => q.idx == p.idx || q.active &&& p.active == 0) &&
    (p.depth == 0 || p.active &&& ~~~((p.stack.getD (p.depth - 1) StackEntry.zero).mask) == 0)

/-- The enabled comparator that a PC matches (R342, R357) (DEDUCED, log entry 44). -/
def comparator (s : State) (g : Group) (p : Split) : Option Nat :=
  let fn := ((s.block? g.bid).map (fun b => (s.queueOfBlock b).fn)).getD 0
  let w := s.window fn
  (List.range 4).find? (fun n => w.bpen.getD n false && w.bpaddr.getD n 0 == p.pc)

/-- The ECHO that a mismatch has left pending at a split is raised (R376). -/
def raiseEcho (s : State) (gid i : Nat) : State :=
  match s.split? gid i with
  | none => s
  | some (_, p) =>
    match p.echoTrap with
    | some (a, m) => raiseAt (s.mapSplit gid i (fun q => { q with echoTrap := none })) gid i p.pc (.mk' 0x13 m (a.setWidth 64)) true
    | none => s

/-- A split's issue slot: a pending ECHO, a debug stop, a comparator, or the split's instruction (R340, R357, R358, R376). -/
def issueSlot (run : Instr → State → Result) (gid i : Nat) (s : State) : Result :=
  match s.split? gid i with
  | none => .next s
  | some (g, p) =>
    if !canIssue s g p then .next s
    else if p.st == .ebb then .next (settleSplit s gid i)
    else
      match p.echoTrap with
      | some _ => .next (raiseEcho s gid i)
      | none =>
        if !maskOk g p then .next (raiseAt s gid i p.pc (.mk' 0x12 p.active (BitVec.allOnes 64)) true)
        else if ((p.stopReq && !g.mode) || p.stepEnd) && !p.stepOne then .next (s.mapSplit gid i (fun q => { q with st := .stop, stepEnd := false }))
        else
          match (if p.stepOne then none else comparator s g p) with
          | some n => run (.breakpointMatch gid i n) s
          | none =>
            if fetchFaulted p && p.faddr.any (fun x => faultPending s (s.party g).asid x.2) then .next s
            else fetchRun run s g p

end Sys2Proof.Machine
end

