-- ==== Sys2Proof/Machine/Load.lean ====
section
/-! DEFINITION. A machine with one instruction loaded: what stands, in the state `withFetchWord` gives, for the host that has
brought the device up, bound an ASID, loaded an image and launched one group (log entry 1). -/

namespace Sys2Proof.Machine

/-- The physical and virtual address at which the instruction is placed. -/
def loadBase : Nat := 0x100000

/-- Two words, the first at the lower address, with the first word numbered from bit 0. -/
def loadBytes2 (nbits w : Nat) : List Byte :=
  let v := w % 2 ^ nbits
  leBytes (v % 2 ^ 32) 4 ++ leBytes (v / 2 ^ 32) 4

/-- A group as placement leaves it, but for its argument registers (R26, R35, R39) (DESIGN CHOICE, log entry 3; DESIGN CHOICE, log entry 11). -/
def freshGroup (gid bid index count sched : Nat) (pc : Pc) (fmt : Word) (gang : DWord) (tvec saveBase : DWord) (order : Nat) : Group :=
  { gid, bid, index, v := [], s := [], k := [], p := [], fflags := [], count, req := 0, splits := [freshSplit pc fmt order],
    exited := 0, nextId := 0, fcsr := 0, gang, replays := 0, trapCause := 0, trapPc := 0, trapMask := 0, trapAddr := 0, saveBase,
    tvec, mode := false, pmode := false, step := false, sched, pending := [], nextSeq := 0, ended := false, routineDone := false, stopAsked := false }

/-- GANG with COUNT 1 and the group's own index (R39). -/
def ownGang (index : Nat) : DWord := BitVec.ofNat 64 (1 + 2 ^ 8 * index)

/-- The kernel of the loaded instruction: 8 registers, one group, one block (R92). -/
def loadKernel : Kernel :=
  { addr := 0, tenancy := 1, image := 0, mode := 0, entry := BitVec.ofNat 48 loadBase, regs := 8, groups := 1, cohort := 1, gang := 1,
    dimx := 1, dimy := 1, dimz := 1, fmtInit := 0, paramSize := 0, args := [], scratch := [], fifos := [] }

def loadLaunch : Launch :=
  { lid := 1, q := 0, seq := 0, age := 0, kernel := loadKernel, dimx := 1, dimy := 1, dimz := 1, prio := 1, params := [], children := [],
    event := false, started := true, nextBlock := 1, done := [], handTable := [], shared := [], prev := none, complete := false,
    unplaceable := false, item := none, killed := false }

def loadBlock : Block :=
  { bid := 1, lid := 1, index := 0, x := 0, y := 0, z := 0, cohort := 0, member := 0, st := .running, cluster := 0, core := 0, rival := 0,
    view := 0, forkRec := none, keep := false, saveBase := 0, clone := false, evict := [], debug := false, stopBlk := false,
    rollbacks := 0, entry := BitVec.ofNat 48 loadBase, shadow := none, shadowCopy := 2, staleCopy := false, rolled := false,
    committed := false, preempts := 0, asked := none, struck := false }

/-- A machine that is up, with one group of one block about to fetch at `loadBase`, where the given bytes stand (DESIGN CHOICE, log entry 1). -/
def loadState (s : State) (bs : List Byte) : State :=
  { s with
    nextId := 2
    cur := some (1, 0)
    agenda := [.issue 1 0]
    fe :=
      { s.fe with
        queues := [{ Queue.atReset 0 with assigned := true, asid := 1, tenancy := 1, part := 0 }]
        launches := [loadLaunch]
        blocks := [loadBlock]
        groups := [freshGroup 1 1 0 8 0 (BitVec.ofNat 48 loadBase) 0 (ownGang 0) 0 0 0] }
    mm :=
      { s.mm with
        mem := ssetMany s.mm.mem loadBase bs
        tlb := [{ cluster := 0, asid := 1, va := loadBase, size := 4096, pa := loadBase, attr := 0, w := true, x := true }]
        contexts := [{ asid := 1, root := 0x200000, tenancy := 1, pasid := 0, faultDst := 2, lease := 256, mcruise := 0, retiring := false }] }
    sys :=
      { s.sys with
        stage := .ready
        tenancies := [{ Tenancy.atReset 1 with slot := some 1 }]
        slots := [{ KeySlot.atReset 1 with loaded := true, owner := 1, key := 1 }] } }

end Sys2Proof.Machine
end

