-- ==== Sys2Proof/Machine/Dx.lean ====
section
/-! DEFINITION. DX blocks: the value of an element (R107, R108), encoding 32 values (R117), the lane word (R166) and the
packing of a block in memory (R109). -/

namespace Sys2Proof.Machine

/-- m of R107 for the codes 5, 6 and 7. -/
def dxM (code : Nat) : Nat := if code = 5 then 6 else if code = 6 then 4 else 2

/-- The bytes of a block (R109). -/
def dxBytes (code : Nat) : Nat := if code = 5 then 34 else if code = 6 then 26 else 18

/-- The exponent of an element's unit under a block exponent (R108). -/
def dxUnit (m ex : Nat) : Int := (ex : Int) - 127 - ((m : Int) - 1)

/-- The value of an element (R108). -/
def dxValue (m e0 e1 elem : Nat) : Ext :=
  let ex := if (elem / 2 ^ m) % 2 = 0 then e0 else e1
  if ex = 0xFF then .nan false
  else .fin ((elem / 2 ^ (m + 1)) % 2 == 1) (elem % 2 ^ m) (dxUnit m ex) false

/-- One encoded element: its bits, its flags, and whether it goes to the outlier list. -/
structure DxElem where
  bits : Nat
  flags : Flags
  out : Bool
deriving DecidableEq, Repr

/-- fits() of R117. -/
def dxFits (m : Nat) (v : Ext) (ex : Nat) : Bool :=
  match v with
  | .fin _ n e _ =>
    let u := dxUnit m ex
    let l := min e u
    ex != 0xFF && decide (n * 2 ^ (e - l).toNat ≤ (2 ^ m - 1) * 2 ^ (u - l).toNat)
  | _ => false

/-- err() of R117, as an integer in units of 2^(2 l). -/
def dxErr (m : Nat) (l : Int) (v : Ext) (ex : Nat) : Nat :=
  match v with
  | .fin _ n e _ =>
    let u := dxUnit m ex
    let r := splitAt n e u
    let q := r.1 + (roundsUp .rne false false 0 r).toNat
    let a : Int := ((n * 2 ^ (e - l).toNat : Nat) : Int)
    let b : Int := ((q * 2 ^ (u - l).toNat : Nat) : Int)
    ((a - b) * (a - b)).toNat
  | _ => 0

/-- Not a number that an element can hold: NaN or infinity. -/
def dxBad : Ext → Bool
  | .fin _ _ _ _ => false
  | _ => true

/-- The least exponent at which a value fits; 254 if there is none. -/
def dxLeast (m : Nat) (v : Ext) : Nat :=
  ((List.range 254).find? (fun ex => dxFits m v ex)).getD 254

/-- A common unit for the errors of a block. -/
def dxCommon (m : Nat) (xs : List Ext) (ex : Nat) : Int := min ((minExp xs).getD 0) (dxUnit m ex)

/-- The cost of k (R117): an error that no exponent bounds is not taken. -/
def dxCost (m e0 : Nat) (l : Int) (xs : List Ext) (k : Nat) : Nat :=
  xs.foldl (fun t v =>
    t + (if dxFits m v (e0 - k) then min (dxErr m l v e0) (dxErr m l v (e0 - k)) else dxErr m l v e0)) 0

/-- The exponents chosen from the data (R117) (DEDUCED, log entry 29). -/
def dxChoose (m : Nat) (xs : List Ext) : Nat × Nat :=
  let good := xs.filter (fun v => !dxBad v)
  let e0 := good.foldl (fun t v => max t (dxLeast m v)) 0
  if xs.any dxBad then (e0, 0xFF)
  else if e0 = 0 then (0, 0)
  else
    let l := dxCommon m good (e0 - min 8 e0)
    let costs := ((List.range (min 8 e0)).map (fun i => (i + 1, dxCost m e0 l good (i + 1))))
    let best := costs.foldl (fun b c => match b with | none => some c | some y => some (if c.2 < y.2 then c else y))
      (none : Option (Nat × Nat))
    (e0, e0 - (best.map (·.1)).getD 1)

/-- The selector of an element that fits an exponent; `none` where it fits neither (R117). -/
def dxSel (m e0 e1 : Nat) (v : Ext) : Option Bool :=
  let l := min (dxCommon m [v] e0) (dxUnit m e1)
  if dxFits m v e1 && (!dxFits m v e0 || decide (dxErr m l v e1 < dxErr m l v e0)) then some true
  else if dxFits m v e0 then some false
  else none

/-- The field d of an element (R111); an element that is not rounded has 0. -/
def dxD (m e0 e1 : Nat) (v : Ext) : Nat :=
  match v with
  | .fin _ n e _ =>
    match dxSel m e0 e1 v with
    | some sel => discarded (splitAt n e (dxUnit m (if sel then e1 else e0)))
    | none => 0
  | _ => 0

/-- An element saturated at E0 (R114, R117): a NaN takes MAG 0 and raises IV. -/
def dxSaturated (m : Nat) (v : Ext) : Nat × Flags :=
  match v with
  | .nan _ => (0, fIV)
  | .inf neg => ((if neg then 2 ^ (m + 1) else 0) + (2 ^ m - 1), fOF ||| fIX)
  | .fin neg _ _ _ => ((if neg then 2 ^ (m + 1) else 0) + (2 ^ m - 1), fOF ||| fIX)

/-- One element under exponents e0 and e1, with its srhash value (R117). -/
def dxElem (m e0 e1 : Nat) (rm : RMode) (outcap : Bool) (h : Nat) (v : Ext) : DxElem :=
  let lost : DxElem := if outcap then ⟨0, 0, true⟩ else ⟨(dxSaturated m v).1, (dxSaturated m v).2, false⟩
  match v with
  | .fin neg n e sticky =>
    match dxSel m e0 e1 v with
    | none => lost
    | some sel =>
      let r := splitAt n e (dxUnit m (if sel then e1 else e0))
      let mag := r.1 + (roundsUp rm neg sticky h r).toNat
      let inexact := r.2.1 != 0
      ⟨(if neg then 2 ^ (m + 1) else 0) + (if sel then 2 ^ m else 0) + mag,
        (if inexact then fIX else 0) ||| (if n != 0 && mag == 0 then fUF else 0), false⟩
  | .nan iv =>
    if e0 = 0xFF then ⟨0, if iv then fIV else 0, false⟩
    else if e1 = 0xFF then ⟨2 ^ m, if iv then fIV else 0, false⟩
    else lost
  | .inf _ =>
    if e0 = 0xFF then ⟨0, fOF ||| fIX, false⟩
    else if e1 = 0xFF then ⟨2 ^ m, fOF ||| fIX, false⟩
    else lost

/-- dx_encode() of R117: the exponents and the 32 elements. Only a fixed header captures outliers (R170). -/
def dxEncode (xs : List Ext) (m : Nat) (rm : RMode) (sat outcap : Bool) (hdr : Option (Nat × Nat)) :
    Nat × Nat × List DxElem :=
  let ys := if sat then xs.map (fun v => match v with | .inf neg => .fin neg (2 ^ 24 - 1) 104 false | _ => v) else xs
  let ex := hdr.getD (dxChoose m ys)
  let ds := ys.map (dxD m ex.1 ex.2)
  (ex.1, ex.2,
    ys.mapIdx (fun i v => dxElem m ex.1 ex.2 rm (outcap && hdr.isSome) (rowHash (fun j => ds.getD j 0) i) v))

/-- The DX lane word (R166), FIXED set. -/
def dxWord (e0 e1 elem : Nat) : Word := BitVec.ofNat 32 (e0 * 2 ^ 24 + e1 * 2 ^ 16 + 0x8000 + elem)

/-- The bits of a block as they lie in memory, as one number (R109). -/
def dxPack (m e0 e1 : Nat) (elems : List Nat) : Nat :=
  e1 + 2 ^ 8 * e0 + 2 ^ 16 * (elems.mapIdx (fun i x => x * 2 ^ ((m + 2) * i))).sum

/-- Element `i` of a block read as one number (R109). -/
def dxUnpack (m blk i : Nat) : Nat := blk / 2 ^ (16 + (m + 2) * i) % 2 ^ (m + 2)

end Sys2Proof.Machine
end

