-- ==== Sys2Proof/Machine/LaneInt.lean ====
section
/-! DEFINITION. Lane integer, logic, bit-field, compare, select and predicate instructions (06_lane_integer_exchange.md R129
to R140). Each meaning names what one active lane computes; Operands.lean says how lanes read, write and retire. -/

namespace Sys2Proof.Machine

/-! ## Lane functions -/

/-- sat() to int32 (R115). -/
def satI32 (x : Int) : Word := BitVec.ofInt 32 (max (-2 ^ 31) (min (2 ^ 31 - 1) x))

/-- IADD by slot (R129). -/
def addBy (m : SatMode) (x y : Word) : Word :=
  match m with
  | .wrap => x + y
  | .sat => satI32 (x.toInt + y.toInt)
  | .usat => BitVec.ofNat 32 (min (x.toNat + y.toNat) (2 ^ 32 - 1))

/-- ISUB by slot (R129). -/
def subBy (m : SatMode) (x y : Word) : Word :=
  match m with
  | .wrap => x - y
  | .sat => satI32 (x.toInt - y.toInt)
  | .usat => BitVec.ofNat 32 (x.toNat - y.toNat)

/-- IMULH by slot (R129). -/
def mulHigh (u : Bool) (x y : Word) : Word :=
  if u then BitVec.ofNat 32 (x.toNat * y.toNat / 2 ^ 32) else BitVec.ofInt 32 (x.toInt * y.toInt / 2 ^ 32)

/-- IMIN by slot (R129). -/
def minBy (u : Bool) (x y : Word) : Word :=
  if (if u then decide (x.toNat ≤ y.toNat) else decide (x.toInt ≤ y.toInt)) then x else y

/-- IMAX by slot (R129). -/
def maxBy (u : Bool) (x y : Word) : Word :=
  if (if u then decide (y.toNat ≤ x.toNat) else decide (y.toInt ≤ x.toInt)) then x else y

/-- IABS by slot (R129). -/
def absBy (sat : Bool) (x : Word) : Word :=
  let a : Int := if x.toInt < 0 then -x.toInt else x.toInt
  if sat then satI32 a else BitVec.ofInt 32 a

/-- INEG by slot (R129). -/
def negBy (sat : Bool) (x : Word) : Word := if sat then satI32 (-x.toInt) else -x

/-- Shifts by the whole of y (R131). -/
def shlWord (x y : Word) : Word := if y.toNat < 32 then x <<< y.toNat else 0
def shrWord (x y : Word) : Word := if y.toNat < 32 then x >>> y.toNat else 0
def sarWord (x y : Word) : Word :=
  if y.toNat < 32 then x.sshiftRight y.toNat else if x.getLsbD 31 then 0xFFFFFFFF else 0
def rotlWord (x y : Word) : Word := x.rotateLeft (y.toNat % 32)

/-- Position and length of the field that y names (R132). -/
def fieldPos (y : Word) : Nat := y.toNat % 32
def fieldLen (y : Word) : Nat := min (y.toNat / 256 % 64) (32 - fieldPos y)

/-- The mask of a field (R132). -/
def fieldMask (y : Word) : Word := BitVec.ofNat 32 ((2 ^ fieldLen y - 1) * 2 ^ fieldPos y)

/-- BFX (R132). -/
def bfxWord (signed : Bool) (x y : Word) : Word :=
  let v := (x &&& fieldMask y) >>> fieldPos y
  if signed && decide (0 < fieldLen y) && v.getLsbD (fieldLen y - 1) then v - BitVec.ofNat 32 (2 ^ fieldLen y) else v

/-- BFI (R132). -/
def bfiWord (d x y : Word) : Word := (d &&& ~~~ fieldMask y) ||| ((x <<< fieldPos y) &&& fieldMask y)

/-- POPC (R133). -/
def popcount (x : Word) : Word := BitVec.ofNat 32 ((List.range 32).filter (fun i => x.getLsbD i)).length

/-- CLZ (R133). -/
def leadingZeros (x : Word) : Word := if x = 0 then 32 else BitVec.ofNat 32 (31 - Nat.log2 x.toNat)

/-- Reverse the bits of a vector (R133, R134). -/
def reverseBits {n : Nat} (x : BitVec n) : BitVec n :=
  (List.range n).foldl (fun r i => if x.getLsbD i then r ||| (1#n <<< (n - 1 - i)) else r) 0

/-- Result byte j of PRMT (R134). -/
def prmtByte (sel x y : Word) (j : Nat) : Byte :=
  let ctl := (sel >>> (8 * j)).setWidth 8
  let src := (ctl.toNat % 8)
  let c : Byte := (((y ++ x) >>> (8 * src)).setWidth 8)
  match ctl.toNat / 8 % 4 with
  | 0 => c
  | 1 => 0
  | 2 => if c.getLsbD 7 then 0xFF else 0
  | _ => reverseBits c

/-- PRMT (R134). -/
def prmtWord (sel x y : Word) : Word := prmtByte sel x y 3 ++ prmtByte sel x y 2 ++ prmtByte sel x y 1 ++ prmtByte sel x y 0

/-- The tests of ICMP and SCMP (R137). -/
def cmpTest (c : CmpOp) (x y : Word) : Bool :=
  match c with
  | .eq => x == y
  | .ne => x != y
  | .lt => decide (x.toInt < y.toInt)
  | .le => decide (x.toInt ≤ y.toInt)
  | .gt => decide (y.toInt < x.toInt)
  | .ge => decide (y.toInt ≤ x.toInt)
  | .ltu => decide (x.toNat < y.toNat)
  | .leu => decide (x.toNat ≤ y.toNat)

/-- The predicate operations of PSET (R139). -/
def psetBit (o : PsetOp) (a b : Bool) : Bool :=
  match o with
  | .and => a && b
  | .or => a || b
  | .xor => a != b
  | .andn => a && !b
  | .orn => a || !b
  | .nand => !(a && b)
  | .nor => !(a || b)
  | .xnor => a == b

/-! ## Integer arithmetic (R129, R130) -/

/-- Two-source word operations. -/
def laneBinary (i : Instr) (e : Bool) (d : RegNum) (a b : Src) (f : Word → Word → Word) (s : State) : Result :=
  laneWord i e true d [a, b] [] (fun g _ l => f (srcVal g a l) (srcVal g b l)) s

/-- One-source word operations. -/
def laneUnary (i : Instr) (e : Bool) (d : RegNum) (a : Src) (f : Word → Word) (s : State) : Result :=
  laneWord i e true d [a] [] (fun g _ l => f (srcVal g a l)) s

/-- Operations that read d as well (R125). -/
def laneTernary (i : Instr) (e : Bool) (d : RegNum) (a b : Src) (f : Word → Word → Word → Word) (s : State) : Result :=
  laneWord i e true d [a, b, .reg d] [] (fun g _ l => f (readReg g d.toNat l) (srcVal g a l) (srcVal g b l)) s

def execIadd (e : Bool) (m : SatMode) (d : RegNum) (a b : Src) (s : State) : Result :=
  laneBinary (.iadd e m d a b) e d a b (addBy m) s

def execIsub (e : Bool) (m : SatMode) (d : RegNum) (a b : Src) (s : State) : Result :=
  laneBinary (.isub e m d a b) e d a b (subBy m) s

/-- The sum that IADDC takes in a lane (R130). -/
def carrySum (g : Group) (k : PredNum) (a b : Src) (l : Nat) : Nat :=
  (srcVal g a l).toNat + (srcVal g b l).toNat + (predBit g k l).toNat

def execIaddc (e : Bool) (k : PredNum) (d : RegNum) (a b : Src) (s : State) : Result :=
  withIssuer s (fun g p =>
    ifLegal (laneDstOk g d && srcOk g a && srcOk g b) s g p
      (let sum := carrySum g k a b
       let s1 := pushEcho s g p (.iaddc e k d a b)
          ((lanesOf p.active).flatMap (fun l => [srcVal g a l, srcVal g b l, bitWord (predBit g k l)]))
          ((lanesOf p.active).flatMap (fun l => [BitVec.ofNat 32 (sum l), bitWord (decide (2 ^ 32 ≤ sum l))])) []
       retire (.iaddc e k d a b) e s1
        (writePred (writeLanes g d.toNat p.active (fun l => BitVec.ofNat 32 (sum l))) k.toNat p.active
          (testMask (fun l => decide (2 ^ 32 ≤ sum l)))) p))

def execImul (e : Bool) (d : RegNum) (a b : Src) (s : State) : Result :=
  laneBinary (.imul e d a b) e d a b (· * ·) s

def execImulh (e u : Bool) (d : RegNum) (a b : Src) (s : State) : Result :=
  laneBinary (.imulh e u d a b) e d a b (mulHigh u) s

def execImad (e : Bool) (d : RegNum) (a b : Src) (s : State) : Result :=
  laneTernary (.imad e d a b) e d a b (fun z x y => x * y + z) s

def execImin (e u : Bool) (d : RegNum) (a b : Src) (s : State) : Result :=
  laneBinary (.imin e u d a b) e d a b (minBy u) s

def execImax (e u : Bool) (d : RegNum) (a b : Src) (s : State) : Result :=
  laneBinary (.imax e u d a b) e d a b (maxBy u) s

def execIabs (e m : Bool) (d : RegNum) (a : Src) (s : State) : Result := laneUnary (.iabs e m d a) e d a (absBy m) s

def execIneg (e m : Bool) (d : RegNum) (a : Src) (s : State) : Result := laneUnary (.ineg e m d a) e d a (negBy m) s

/-! ## Logic and shifts (R131) -/

def execAnd (e : Bool) (d : RegNum) (a b : Src) (s : State) : Result :=
  laneBinary (.and e d a b) e d a b (· &&& ·) s

def execAndn (e : Bool) (d : RegNum) (a b : Src) (s : State) : Result :=
  laneBinary (.andn e d a b) e d a b (fun x y => x &&& ~~~ y) s

def execOr (e : Bool) (d : RegNum) (a b : Src) (s : State) : Result :=
  laneBinary (.or e d a b) e d a b (· ||| ·) s

def execXor (e : Bool) (d : RegNum) (a b : Src) (s : State) : Result :=
  laneBinary (.xor e d a b) e d a b (· ^^^ ·) s

def execShl (e : Bool) (d : RegNum) (a b : Src) (s : State) : Result :=
  laneBinary (.shl e d a b) e d a b shlWord s

def execShr (e : Bool) (d : RegNum) (a b : Src) (s : State) : Result :=
  laneBinary (.shr e d a b) e d a b shrWord s

def execSar (e : Bool) (d : RegNum) (a b : Src) (s : State) : Result :=
  laneBinary (.sar e d a b) e d a b sarWord s

def execRotl (e : Bool) (d : RegNum) (a b : Src) (s : State) : Result :=
  laneBinary (.rotl e d a b) e d a b rotlWord s

/-! ## Bit fields, bytes and addresses (R132 to R136) -/

def execBfx (e m : Bool) (d : RegNum) (a b : Src) (s : State) : Result :=
  laneBinary (.bfx e m d a b) e d a b (bfxWord m) s

def execBfi (e : Bool) (d : RegNum) (a b : Src) (s : State) : Result :=
  laneTernary (.bfi e d a b) e d a b bfiWord s

def execPopc (e : Bool) (d : RegNum) (a : Src) (s : State) : Result := laneUnary (.popc e d a) e d a popcount s

def execClz (e : Bool) (d : RegNum) (a : Src) (s : State) : Result := laneUnary (.clz e d a) e d a leadingZeros s

def execBrev (e : Bool) (d : RegNum) (a : Src) (s : State) : Result := laneUnary (.brev e d a) e d a reverseBits s

def execPrmt (e : Bool) (d : RegNum) (a b : Src) (s : State) : Result :=
  laneTernary (.prmt e d a b) e d a b prmtWord s

def execLea (e : Bool) (k : BitVec 3) (d : RegNum) (a b : Src) (s : State) : Result :=
  laneBinary (.lea e k d a b) e d a b (fun x y => x + (y <<< k.toNat)) s

/-- MOV, and MOV.b64 on pairs (R136). -/
def execMov (e w : Bool) (d : RegNum) (a : Src) (s : State) : Result :=
  if w then
    withIssuer s (fun g p =>
      ifLegal (laneDst64Ok g d && src64Ok g a) s g p
        (let s1 := pushEcho s g p (.mov e w d a)
            ((lanesOf p.active).flatMap (fun l => [(srcVal64 g a l).setWidth 32, ((srcVal64 g a l) >>> 32).setWidth 32]))
            ((lanesOf p.active).flatMap (fun l => [(srcVal64 g a l).setWidth 32, ((srcVal64 g a l) >>> 32).setWidth 32])) []
         let g1 := if d.toNat = 126 then g else
          writeLanes (writeLanes g d.toNat p.active (fun l => (srcVal64 g a l).setWidth 32)) (d.toNat + 1) p.active
            (fun l => ((srcVal64 g a l) >>> 32).setWidth 32)
         retire (.mov e w d a) e s1 g1 p))
  else laneUnary (.mov e w d a) e d a id s

def execMovi (e : Bool) (d : RegNum) (imm : BitVec 17) (s : State) : Result :=
  laneWord (.movi e d imm) e true d [] [] (fun _ _ _ => imm.signExtend 32) s

/-! ## Compare, select and predicate logic (R137 to R140) -/

def execIcmp (e : Bool) (c : CmpOp) (d : PredNum) (a b : Src) (s : State) : Result :=
  lanePred (.icmp e c d a b) e true d [a, b] [] (fun g _ l => cmpTest c (srcVal g a l) (srcVal g b l)) s

def execIsel (e : Bool) (k : PredNum) (d : RegNum) (a b : Src) (s : State) : Result :=
  laneWord (.isel e k d a b) e true d [a, b] [k] (fun g _ l => if predBit g k l then srcVal g a l else srcVal g b l) s

def execPset (e : Bool) (o : PsetOp) (d a b : PredNum) (s : State) : Result :=
  lanePred (.pset e o d a b) e true d [] [a, b] (fun g _ l => psetBit o (predBit g a l) (predBit g b l)) s

/-- The predicate that a 7-bit field names; a value above 7 is illegal (R126). -/
def predOf (r : RegNum) : Option PredNum := if r.toNat < 8 then some (BitVec.ofNat 3 r.toNat) else none

/-- The predicate that a source field names. -/
def srcPred (a : Src) : Option PredNum :=
  match a with
  | .reg r => predOf r
  | .lit _ => none

/-- A predicate field above 7 raises ILLEGAL_OPERAND (R126). -/
def badPred (s : State) : Result := withIssuer s (fun g p => illegalOperand s g p)

/-- PMOV (R140): `.pw` writes the whole predicate as a word, `.wp` gives each lane its own bit. -/
def execPmov (e : Bool) (o : PmovOp) (d : RegNum) (a : Src) (s : State) : Result :=
  let i := Instr.pmov e o d a
  match o with
  | .pv =>
    match srcPred a with
    | some k => laneWord i e true d [] [k] (fun g _ l => bitWord (predBit g k l)) s
    | none => badPred s
  | .vp =>
    match predOf d with
    | some k => lanePred i e true k [a] [] (fun g _ l => srcVal g a l != 0) s
    | none => badPred s
  | .pw =>
    match srcPred a with
    | some k => laneWord i e true d [] [k] (fun g _ _ => readPred g k.toNat) s
    | none => badPred s
  | .wp =>
    match predOf d with
    | some k => lanePred i e true k [a] [] (fun g _ l => (srcVal g a l).getLsbD l) s
    | none => badPred s

end Sys2Proof.Machine
end

