-- ==== Sys2Proof/Machine/Special.lean ====
section
/-! DEFINITION. The special functions of 07_lane_float_convert.md R157 and R158. A transcendental value is enclosed by
integers at a scale 2^w; where both ends share their first 41 bits, those bits and a sticky mark stand for the exact value,
which is irrational there. A wider scale is tried until they do. -/

namespace Sys2Proof.Machine

/-- Bound, in units of the scale, on the error of every enclosure below. -/
def encError : Nat := 2 ^ 20

/-- The first 41 bits that both ends of the enclosure of `v * 2^-w` share. -/
def enclosed (neg : Bool) (w v : Nat) : Option Ext :=
  if v ≤ 2 * encError then none
  else
    let lo := v - encError
    let hi := v + encError
    let b := Nat.log2 lo - 40
    if Nat.log2 lo < 40 || lo / 2 ^ b != hi / 2 ^ b then none
    else some (.fin neg (lo / 2 ^ b) ((b : Int) - w) true)

/-- Try an enclosure at rising scales. -/
def ziv (f : Nat → Option Ext) : Ext := ([128, 192, 320, 640].findSome? f).getD (.fin false 0 0 false)

/-- Sum of z^(2j+1) / (2j+1) with signs alternating where `alt`: the series of atanh and atan. `p` is z^(2j+1) at scale 2^w. -/
def oddSeries (alt : Bool) (w z2 : Nat) : Nat → Nat → Nat → Int
  | 0, _, _ => 0
  | fuel + 1, j, p =>
    let t : Int := ((p / (2 * j + 1) : Nat) : Int)
    (if alt && j % 2 == 1 then -t else t) + oddSeries alt w z2 fuel (j + 1) (p * z2 / 2 ^ w)

/-- atanh(z) at scale 2^w, for z = `z` at scale 2^w, at most 1/3. -/
def atanhFix (w z : Nat) : Nat := (oddSeries false w (z * z / 2 ^ w) w 0 z).toNat

/-- atan(1/k) at scale 2^w. -/
def atanInv (w k : Nat) : Int := oddSeries true w (2 ^ w / (k * k)) w 0 (2 ^ w / k)

/-- ln 2 = 2 atanh(1/3). -/
def ln2Fix (w : Nat) : Nat := 2 * atanhFix w (2 ^ w / 3)

/-- pi / 2 = 8 atan(1/5) - 2 atan(1/239). -/
def halfPiFix (w : Nat) : Nat := (8 * atanInv w 5 - 2 * atanInv w 239).toNat

/-- Sum of y^n / n! from a term on. -/
def expSeries (w y : Nat) : Nat → Nat → Nat → Nat
  | 0, _, _ => 0
  | fuel + 1, n, t => t + expSeries w y fuel (n + 1) (t * y / 2 ^ w / (n + 1))

/-- exp(y) at scale 2^w for y below 1. -/
def expFix (w y : Nat) : Nat := expSeries w y w 0 (2 ^ w)

/-- Alternating sum of y^(2n+c) / (2n+c)! from a term on: sine for c = 1, cosine for c = 0. -/
def trigSeries (w y2 : Nat) : Nat → Nat → Nat → Bool → Int
  | 0, _, _, _ => 0
  | fuel + 1, n, t, minus =>
    (if minus then -(t : Int) else (t : Int)) + trigSeries w y2 fuel (n + 2) (t * y2 / 2 ^ w / ((n + 1) * (n + 2))) (!minus)

def sinFix (w y : Nat) : Nat := (trigSeries w (y * y / 2 ^ w) w 1 y false).toNat
def cosFix (w y : Nat) : Nat := (trigSeries w (y * y / 2 ^ w) w 0 (2 ^ w) false).toNat

/-- A finite magnitude at scale 2^w, truncated. -/
def fixAt (w n : Nat) (e : Int) : Nat := if 0 ≤ e + w then n * 2 ^ (e + w).toNat else n / 2 ^ (-(e + w)).toNat

/-- A value just below the magnitude n * 2^e. -/
def justBelow (neg : Bool) (n : Nat) (e : Int) : Ext := .fin neg (n * 2 ^ 50 - 1) (e - 50) true

/-- 2^x of a finite nonzero value. -/
def exp2Ext (neg : Bool) (n : Nat) (e : Int) : Ext :=
  let top := e + ilog n
  if 9 ≤ top then .fin false 1 (if neg then -512 else 512) true
  else if top < -60 then (if neg then justBelow false 1 0 else .fin false (2 ^ 50) (-50) true)
  else if 0 ≤ e || n % 2 ^ (-e).toNat == 0 then
    let k : Int := if 0 ≤ e then ((n * 2 ^ e.toNat : Nat) : Int) else ((n / 2 ^ (-e).toNat : Nat) : Int)
    .fin false 1 (if neg then -k else k) false
  else
    ziv (fun w =>
      let x : Int := if neg then -(fixAt w n e : Int) else fixAt w n e
      let k := x / (2 ^ w : Nat)
      let f := (x - k * (2 ^ w : Nat)).toNat
      match enclosed false w (expFix w (f * ln2Fix w / 2 ^ w)) with
      | some (.fin b m g s) => some (.fin b m (g + k) s)
      | r => r)

/-- log2 of a positive finite value. -/
def log2Ext (n : Nat) (e : Int) : Ext :=
  let b := Nat.log2 n
  let k := e + b
  if n == 2 ^ b then Ext.ofInt k
  else
    ziv (fun w =>
      let z := (n - 2 ^ b) * 2 ^ w / (n + 2 ^ b)
      let r : Int := ((2 * atanhFix w z * 2 ^ w / ln2Fix w : Nat) : Int) + k * (2 ^ w : Nat)
      enclosed (decide (r < 0)) w r.natAbs)

/-- Sine or cosine of a finite nonzero value, the argument reduced exactly. -/
def trigExt (cosine neg : Bool) (n : Nat) (e : Int) : Ext :=
  if e + ilog n < -40 then
    if cosine then justBelow false 1 0 else justBelow neg n e
  else
    ziv (fun w =>
      let x := fixAt w n e * 2 ^ 160
      let h := halfPiFix (w + 160)
      let k := x / h
      let r := (x - k * h) / 2 ^ 160
      let q := (k + if cosine then 1 else 0) % 4
      enclosed ((q / 2 == 1) != (neg && !cosine)) w (if q % 2 = 0 then sinFix w r else cosFix w r))

/-- tanh of a finite nonzero value. -/
def tanhExt (neg : Bool) (n : Nat) (e : Int) : Ext :=
  if e + ilog n < -40 then justBelow neg n e
  else if 5 ≤ e + ilog n then justBelow neg 1 0
  else
    ziv (fun w =>
      let y := 2 * fixAt w n e
      let l := ln2Fix w
      let k := y / l
      let ex := expFix w (y - k * l) * 2 ^ k
      enclosed neg w (2 ^ w - 2 * 2 ^ w * 2 ^ w / (ex + 2 ^ w)))

/-- 1 / sqrt(x) of a positive finite value. -/
def rsqrtExt (n : Nat) (e : Int) : Ext :=
  let n1 := if e % 2 != 0 then 2 * n else n
  let e1 := if e % 2 != 0 then e - 1 else e
  let r := isqrt (2 ^ 160 / n1)
  .fin false r (-80 - e1 / 2) (r * r * n1 != 2 ^ 160)

/-- The functions of the F major, by slot (R157). -/
inductive SpecialFn where
  | rcp | rsq | sqrt | ex2 | lg2 | sin | cos | tanh
deriving DecidableEq, Repr

/-- The exact value of a function at x, and the flags that the table of R158 names; `none` marks the value as exact
though it is an infinity. -/
def specialValue (f : SpecialFn) (x : Ext) : Ext × Flags :=
  match x with
  | .nan iv => (.nan iv, 0)
  | .inf neg =>
    match f with
    | .rcp => (.fin neg 0 0 false, 0)
    | .rsq => if neg then (.nan true, 0) else (.fin false 0 0 false, 0)
    | .sqrt => if neg then (.nan true, 0) else (.inf false, 0)
    | .ex2 => if neg then (.fin false 0 0 false, 0) else (.inf false, 0)
    | .lg2 => if neg then (.nan true, 0) else (.inf false, 0)
    | .sin => (.nan true, 0)
    | .cos => (.nan true, 0)
    | .tanh => (.fin neg 1 0 false, 0)
  | .fin neg n e _ =>
    if n = 0 then
      match f with
      | .rcp => (.inf neg, fDZ)
      | .rsq => (.inf neg, 0)
      | .sqrt => (.fin neg 0 0 false, 0)
      | .ex2 => (.fin false 1 0 false, 0)
      | .lg2 => (.inf true, fDZ)
      | .sin => (.fin neg 0 0 false, 0)
      | .cos => (.fin false 1 0 false, 0)
      | .tanh => (.fin neg 0 0 false, 0)
    else
      match f with
      | .rcp => (divExt false 1 0 neg n e, 0)
      | .rsq => if neg then (.nan true, 0) else (rsqrtExt n e, 0)
      | .sqrt => if neg then (.nan true, 0) else (sqrtExt n e, 0)
      | .ex2 => (exp2Ext neg n e, 0)
      | .lg2 => if neg then (.nan true, 0) else (log2Ext n e, 0)
      | .sin => (trigExt false neg n e, 0)
      | .cos => (trigExt true neg n e, 0)
      | .tanh => (tanhExt neg n e, 0)

end Sys2Proof.Machine
end

