-- ==== Sys2Proof/Machine/LaneFloat.lean ====
section
/-! DEFINITION. Lane floating-point instructions, and the conversions that never touch memory
(07_lane_float_convert.md R152 to R163, R165, R167, R169). -/

namespace Sys2Proof.Machine

/-! ## FP32 arithmetic (R152) -/

/-- An instruction that rounds one exact value a lane to FP32. -/
def laneRounded (i : Instr) (e : Bool) (d : RegNum) (srcs : List Src) (rm : Split → RMode)
    (v : RMode → Group → Nat → Ext) (s : State) : Result :=
  laneFloat i e true d srcs (fun g p l => roundLanes32 (rm p) p.active (v (rm p) g) l) s

def execFadd (e : Bool) (r : FRnd) (d : RegNum) (a b : Src) (s : State) : Result :=
  laneRounded (.fadd e r d a b) e d [a, b] (slotRm r) (fun rm g l => sumExt rm [srcF g a l, srcF g b l]) s

def execFsub (e : Bool) (r : FRnd) (d : RegNum) (a b : Src) (s : State) : Result :=
  laneRounded (.fsub e r d a b) e d [a, b] (slotRm r) (fun rm g l => sumExt rm [srcF g a l, (srcF g b l).negate]) s

def execFmul (e : Bool) (r : FRnd) (d : RegNum) (a b : Src) (s : State) : Result :=
  laneRounded (.fmul e r d a b) e d [a, b] (slotRm r) (fun _ g l => mulExt (srcF g a l) (srcF g b l)) s

/-- FFMA: one rounding of the exact product and sum; d is read before it is written. -/
def execFfma (e : Bool) (r : FRnd) (d : RegNum) (a b : Src) (s : State) : Result :=
  laneRounded (.ffma e r d a b) e d [a, b, .reg d] (slotRm r)
    (fun rm g l => sumExt rm [mulExt (srcF g a l) (srcF g b l), fp32 (readReg g d.toNat l)]) s

/-! ## Minimum, maximum, comparison, class (R153 to R155) -/

/-- IV where an operand is a signalling NaN. -/
def snanFlag (l : List Ext) : Flags := if l.contains (.nan true) then fIV else 0

/-- FMIN and FMAX in a lane (R153). -/
def fminWord (isMin nanSlot : Bool) (x y : Word) : Word × Flags :=
  let u := fp32 x
  let v := fp32 y
  let fl := snanFlag [u, v]
  if u.isNan && v.isNan then (0x7FC00000, fl)
  else if u.isNan then (if nanSlot then 0x7FC00000 else y, fl)
  else if v.isNan then (if nanSlot then 0x7FC00000 else x, fl)
  else (if (if isMin then ltExt v u else ltExt u v) then y else x, fl)

def execFmin (e m : Bool) (d : RegNum) (a b : Src) (s : State) : Result :=
  laneFloat (.fmin e m d a b) e true d [a, b] (fun g _ l => fminWord true m (srcVal g a l) (srcVal g b l)) s

def execFmax (e m : Bool) (d : RegNum) (a b : Src) (s : State) : Result :=
  laneFloat (.fmax e m d a b) e true d [a, b] (fun g _ l => fminWord false m (srcVal g a l) (srcVal g b l)) s

/-- x is numerically below y, with -0 = +0. -/
def belowExt (x y : Ext) : Bool := ltExt x y && !eqExt x y

/-- The tests of FCMP and HCMP2 (R154). -/
def fcmpTest (c : FCmpOp) (x y : Ext) : Bool × Flags :=
  let anyNan := x.isNan || y.isNan
  let quiet := snanFlag [x, y]
  let loud : Flags := if anyNan then fIV else 0
  match c with
  | .eq => (eqExt x y, quiet)
  | .ne => (!eqExt x y, quiet)
  | .lt => (belowExt x y, loud)
  | .le => (belowExt x y || eqExt x y, loud)
  | .gt => (belowExt y x, loud)
  | .ge => (belowExt y x || eqExt x y, loud)
  | .un => (anyNan, quiet)
  | .ord => (!anyNan, quiet)

def execFcmp (e : Bool) (c : FCmpOp) (d : PredNum) (a b : Src) (s : State) : Result :=
  laneFloatPred (.fcmp e c d a b) e d.toNat none true [a, b]
    (fun g l => let r := fcmpTest c (srcF g a l) (srcF g b l); (r.1, false, r.2)) s

/-- The class bit of a word (R155). -/
def fclassWord (w : Word) : Word :=
  let normal := (w.toNat / 2 ^ 23) % 256 != 0
  match fp32 w with
  | .nan iv => if iv then 0x100 else 0x200
  | .inf neg => if neg then 0x001 else 0x080
  | .fin neg n _ _ =>
    if n = 0 then (if neg then 0x008 else 0x010)
    else if normal then (if neg then 0x002 else 0x040) else (if neg then 0x004 else 0x020)

def execFclass (e : Bool) (d : RegNum) (a : Src) (s : State) : Result := laneUnary (.fclass e d a) e d a fclassWord s

/-! ## Division and special functions (R156 to R158) -/

/-- The exact quotient and the flags that R156's table names. -/
def quotient (x y : Ext) : Ext × Flags :=
  match x, y with
  | .nan a, .nan b => (.nan (a || b), 0)
  | .nan a, _ => (.nan a, 0)
  | _, .nan b => (.nan b, 0)
  | .inf _, .inf _ => (.nan true, 0)
  | .inf a, .fin b _ _ _ => (.inf (a != b), 0)
  | .fin a _ _ _, .inf b => (.fin (a != b) 0 0 false, 0)
  | .fin a n ea _, .fin b m eb _ =>
    if m = 0 then (if n = 0 then (.nan true, 0) else (.inf (a != b), fDZ))
    else if n = 0 then (.fin (a != b) 0 0 false, 0)
    else (divExt a n ea b m eb, 0)

/-- A value and its own flags, rounded to FP32 in a row of lanes. -/
def roundWith (rm : RMode) (active : LaneMask) (v : Nat → Ext × Flags) (l : Nat) : Word × Flags :=
  let r := roundLanes32 rm active (fun j => (v j).1) l
  (r.1, r.2 ||| (v l).2)

def execFdivs (e : Bool) (d : RegNum) (a b : Src) (s : State) : Result :=
  laneSpecial (.fdivs e d a b) e d [a, b] 31
    (fun g p l => roundWith (fmtRm p) p.active (fun j => quotient (srcF g a j) (srcF g b j)) l) s

/-- The flags a function can raise (R150, R157, R158). -/
def specialFlags (f : SpecialFn) : Flags :=
  match f with
  | .rcp => fIX ||| fUF ||| fOF ||| fDZ ||| fIV
  | .rsq => fIX ||| fIV
  | .sqrt => fIX ||| fIV
  | .ex2 => fIX ||| fUF ||| fOF ||| fIV
  | .lg2 => fIX ||| fDZ ||| fIV
  | .sin => fIX ||| fUF ||| fIV
  | .cos => fIX ||| fIV
  | .tanh => fIX ||| fUF ||| fIV

/-- One function of the F major: FSQRT rounds by FMT.RM, the others by RNE (R157). -/
def laneFunction (i : Instr) (f : SpecialFn) (e : Bool) (d : RegNum) (a : Src) (s : State) : Result :=
  laneSpecial i e d [a] (specialFlags f)
    (fun g p l => roundWith (if f = .sqrt then fmtRm p else .rne) p.active (fun j => specialValue f (srcF g a j)) l) s

def execFrcp (e : Bool) (d : RegNum) (a : Src) (s : State) : Result := laneFunction (.frcp e d a) .rcp e d a s
def execFrsq (e : Bool) (d : RegNum) (a : Src) (s : State) : Result := laneFunction (.frsq e d a) .rsq e d a s
def execFsqrt (e : Bool) (d : RegNum) (a : Src) (s : State) : Result := laneFunction (.fsqrt e d a) .sqrt e d a s
def execFex2 (e : Bool) (d : RegNum) (a : Src) (s : State) : Result := laneFunction (.fex2 e d a) .ex2 e d a s
def execFlg2 (e : Bool) (d : RegNum) (a : Src) (s : State) : Result := laneFunction (.flg2 e d a) .lg2 e d a s
def execFsin (e : Bool) (d : RegNum) (a : Src) (s : State) : Result := laneFunction (.fsin e d a) .sin e d a s
def execFcos (e : Bool) (d : RegNum) (a : Src) (s : State) : Result := laneFunction (.fcos e d a) .cos e d a s
def execFtanh (e : Bool) (d : RegNum) (a : Src) (s : State) : Result := laneFunction (.ftanh e d a) .tanh e d a s

/-! ## Packed 16-bit arithmetic (R159, R160) -/

/-- Element j of a packed word, as an FP16 value (R105). -/
def half (w : Word) (j : Nat) : Ext := decodeFloat (fltFmt 2) (w.toNat / 2 ^ (16 * j) % 65536)

/-- An H instruction: each element is one row (R112). -/
def laneHalf (i : Instr) (e : Bool) (d : RegNum) (srcs : List Src) (v : RMode → Group → Nat → Nat → Ext) (s : State) : Result :=
  laneFloat i e true d srcs
    (fun g p l =>
      let r (j : Nat) := roundLanes (fltFmt 2) (fmtRm p) false p.active (fun k => v (fmtRm p) g k j) l
      (BitVec.ofNat 32 ((r 0).1 + 65536 * (r 1).1), (r 0).2 ||| (r 1).2)) s

def execHadd2 (e : Bool) (d : RegNum) (a b : Src) (s : State) : Result :=
  laneHalf (.hadd2 e d a b) e d [a, b] (fun rm g l j => sumExt rm [half (srcVal g a l) j, half (srcVal g b l) j]) s

def execHmul2 (e : Bool) (d : RegNum) (a b : Src) (s : State) : Result :=
  laneHalf (.hmul2 e d a b) e d [a, b] (fun _ g l j => mulExt (half (srcVal g a l) j) (half (srcVal g b l) j)) s

def execHfma2 (e : Bool) (d : RegNum) (a b : Src) (s : State) : Result :=
  laneHalf (.hfma2 e d a b) e d [a, b, .reg d]
    (fun rm g l j => sumExt rm [mulExt (half (srcVal g a l) j) (half (srcVal g b l) j), half (readReg g d.toNat l) j]) s

/-- HCMP2: element 0 to pd, element 1 to p(d+1); an odd d is illegal (R160). -/
def execHcmp2 (e : Bool) (c : FCmpOp) (d : PredNum) (a b : Src) (s : State) : Result :=
  laneFloatPred (.hcmp2 e c d a b) e d.toNat (some (d.toNat + 1)) (d.toNat % 2 == 0) [a, b]
    (fun g l =>
      let r (j : Nat) := fcmpTest c (half (srcVal g a l) j) (half (srcVal g b l) j)
      ((r 0).1, (r 1).1, (r 0).2 ||| (r 1).2)) s

/-! ## DOT4 (R161) -/

/-- Byte j of a word. -/
def byteOf (w : Word) (j : Nat) : Byte := (w >>> (8 * j)).setWidth 8

/-- The integer slots of DOT4. -/
def dot4Int (signed : Bool) (d x y : Word) : Word :=
  let v (b : Byte) : Int := if signed then b.toInt else b.toNat
  d + BitVec.ofInt 32 (((List.range 4).map (fun j => v (byteOf x j) * v (byteOf y j))).sum)

/-- The terms of the float slots of DOT4. -/
def dot4Terms (code : Nat) (d x y : Word) : List Ext :=
  fp32 d :: (List.range 4).map (fun j =>
    mulExt (decodeFloat (fltFmt code) (byteOf x j).toNat) (decodeFloat (fltFmt code) (byteOf y j).toNat))

def execDot4 (e : Bool) (o : Dot4Op) (d : RegNum) (a b : Src) (s : State) : Result :=
  let i := Instr.dot4 e o d a b
  match o with
  | .i8 => laneTernary i e d a b (dot4Int true) s
  | .u8 => laneTernary i e d a b (dot4Int false) s
  | .e4m3 =>
    laneRounded i e d [a, b, .reg d] fmtRm (fun rm g l => sumExt rm (dot4Terms 3 (readReg g d.toNat l) (srcVal g a l) (srcVal g b l))) s
  | .e5m2 =>
    laneRounded i e d [a, b, .reg d] fmtRm (fun rm g l => sumExt rm (dot4Terms 4 (readReg g d.toNat l) (srcVal g a l) (srcVal g b l))) s

/-! ## Conversions that never touch memory -/

/-- A conversion whose format code is not accepted raises ILLEGAL_OPERAND (R162). -/
def ifCode (ok : Bool) (s : State) (k : Result) : Result := if ok then k else badPred s

/-- The value of the low bits of a word in a format (R163). -/
def narrowValue (code : Nat) (w : Word) : Ext :=
  if code = 8 then Ext.ofInt ((w.setWidth 8 : Byte).toInt)
  else if code = 9 then Ext.ofInt w.toInt
  else decodeFloat (fltFmt code) (w.toNat % 2 ^ (fltFmt code).width)

def execCvti (e : Bool) (d : RegNum) (a : Src) (c : BitVec 4) (s : State) : Result :=
  ifCode ([1, 2, 3, 4, 8, 9].contains c.toNat) s
    (laneRounded (.cvti e d a c) e d [a] fmtRm (fun _ g l => narrowValue c.toNat (srcVal g a l)) s)

/-- SRND: rounded to format f by SR, delivered as FP32 (R165). -/
def srndWord (code : Nat) (sat : Bool) (active : LaneMask) (v : Nat → Ext) (l : Nat) : Word × Flags :=
  let r := roundLanes (fltFmt code) .sr sat active v l
  ((toFp32 .rne 0 (decodeFloat (fltFmt code) r.1)).1, r.2)

def execSrnd (e : Bool) (d : RegNum) (a : Src) (c : BitVec 4) (s : State) : Result :=
  ifCode ([1, 2, 3, 4].contains c.toNat) s
    (laneFloat (.srnd e d a c) e true d [a] (fun g p l => srndWord c.toNat (fmtSat p) p.active (srcF g a) l) s)

/-- The values of a block: an inactive lane counts as +0 (R167, R168). -/
def blockValues (g : Group) (p : Split) (a : Src) : List Ext :=
  (List.range 32).map (fun l => if laneIn p.active l then srcF g a l else .fin false 0 0 false)

/-- DXEXP: the header of R117 for the block's data, in every active lane (R167). It is echoed only for a whole group
(R151) (DEDUCED, log entry 29). -/
def execDxexp (e : Bool) (d : RegNum) (a : Src) (s : State) : Result :=
  withIssuer s (fun g p =>
    ifLegal (fmtNarrow p == 5 || fmtNarrow p == 6 || fmtNarrow p == 7) s g p
      (laneWord (.dxexp e d a) e (p.active == BitVec.allOnes 32) d [a] []
        (fun g p _ => let h := dxChoose (dxM (fmtNarrow p)) (blockValues g p a); dxWord h.1 h.2 0) s))

/-- The value that CVTXD reads from a DX lane word (R166, R169). -/
def dxLaneValue (m : Nat) (w : Word) : Ext :=
  dxValue m (w.toNat / 2 ^ 24) (w.toNat / 2 ^ 16 % 256) (w.toNat % 2 ^ (m + 2))

def execCvtxd (e : Bool) (d : RegNum) (a : Src) (c : BitVec 4) (s : State) : Result :=
  ifCode ([5, 6, 7].contains c.toNat) s
    (laneRounded (.cvtxd e d a c) e d [a] fmtRm (fun _ g l => dxLaneValue (dxM c.toNat) (srcVal g a l)) s)

end Sys2Proof.Machine
end

