-- ==== Sys2Proof/Machine/Convert.lean ====
section
/-! DEFINITION. CVTF and CVTDX, and the outlier lists they append to (07_lane_float_convert.md R164, R168, R170, R171;
05_number_formats.md R118 to R120). -/

namespace Sys2Proof.Machine

/-! ## Appending to an outlier list (R119, R171) -/

/-- What one step of an append gives: the slot reserved; the list found full; the entry stored; a failed check of an address; an
uncorrectable error at a physical address; or a wait. -/
inductive AppendEnd where
  | slot (n : Nat)
  | full
  | stored
  | finding (f : Finding) (va : Nat)
  | abort (pa va : Nat)
  | wait
deriving DecidableEq, Repr

/-- How a run of appends ends: all made, with the elements that found the list full; a trap; a replayable fault; or a wait, with the
progress made. -/
inductive CaptureEnd where
  | done (full : List Nat)
  | trap (code : Nat) (mask : LaneMask) (addr : Nat)
  | park (va : Nat) (a : Appends)
  | wait (a : Appends)
deriving DecidableEq, Repr

/-- The trap code of a failed check (R171) (DEDUCED, log entry 28; DEDUCED, log entry 29). -/
def findingCode (f : Finding) : Nat := ((findingCodes.find? (fun c => c.1 == f)).map (·.2)).getD 0x06

/-- The end that a step of an append other than success gives: `mk` gives the trap mask of some elements. A header's fault belongs to every
element still to append, an entry's to its own (DESIGN CHOICE, log entry 79). A replay reserves a new slot (R171). -/
def captureStop (r : AppendEnd) (mk : List Nat → LaneMask) (mine : List Nat) (a : Appends) : CaptureEnd :=
  match r with
  | .finding .replay va => .park va { a with slot := none }
  | .finding .stall _ => .wait a
  | .finding f va => .trap (findingCode f) (mk mine) va
  | .abort pa _ => .trap 0x11 (mk mine) (pa / 64 * 64)
  | _ => .wait a

/-- Read a word of the list's header where its atomics are performed. -/
def headerWord (s : State) (P : Party) (l : Leaf) (off : Nat) : Option Nat :=
  ((if l.attr = 2 then extRead s P (l.pa + off) 4 else homeSees s P (l.pa + off) 4)).map leNat

/-- The header of a list: its check, and one atomic at DEV scope on COUNT, or on STATUS where the list is full (R119, R171). The split keeps
the completion time that the atomic returns (R120). -/
def appendHeader (P : Party) (gid i list : Nat) (s : State) : State × AppendEnd :=
  match checkOne s P .store true true 16 list with
  | (s1, .ok h) =>
    let pl : Place := .global h.pa list h.attr h.size
    let s2 := settleOlder s1 gid i [(pl, 16)]
    if mustWait s2 gid i [(pl, 16)] then (s2, .wait)
    else
      let s3 := settleCopies s2 P h.pa
      let update (off : Nat) (op : List Byte → List Byte) (r : AppendEnd) : State × AppendEnd :=
        match performAtomic s3 P (list + off) (h.pa + off) h.attr 4 .dev op with
        | (s4, none, _) => (s4, .abort h.pa list)
        | (s4, some _, gw) => (noteGwct s4 gid i h.attr gw, r)
      match headerWord s3 P h 0, headerWord s3 P h 4 with
      | some cap, some cnt =>
        if cnt < cap then update 4 (fun _ => leBytes (cnt + 1) 4) (.slot cnt)
        else update 8 (fun o => leBytes (leNat o ||| 1) 4) .full
      | _, _ => (s3, .abort h.pa list)
  | (s1, f) => (s1, .finding f list)

/-- The entry of a reserved slot: its check, then one 64-bit store at DEV scope, performed before the instruction goes on, so that its
error is the instruction's own (R119, R171). -/
def appendEntry (P : Party) (gid i list slot : Nat) (bs : List Byte) (s : State) : State × AppendEnd :=
  let va := list + 16 + 8 * slot
  match checkOne s P .store true true 8 va with
  | (s1, .ok en) =>
    let pl : Place := .global en.pa va en.attr en.size
    let s2 := settleOlder s1 gid i [(pl, 8)]
    if mustWait s2 gid i [(pl, 8)] then (s2, .wait)
    else if storeFails s2 P pl 8 then (s2, .abort en.pa va)
    else (storeNow .dev P gid i pl bs s2, .stored)
  | (s1, f) => (s1, .finding f va)

/-- An uncorrectable error that ends a run of appends is recorded as every abort completion is (R371, R392). -/
def noteAppend (P : Party) (r : State × AppendEnd) : State :=
  match r.2 with
  | .abort pa va => abortTo r.1 P pa va (abortAction r.1 P)
  | _ => r.1

/-- Append elements in order: the header, then the entry (R119, R171). `slot` is the first element's where it is reserved already. All
appends of one issue are made in one step, so that those of two instructions to one list do not interleave unless one of them waits or
faults (DESIGN CHOICE, log entry 79). -/
def capture (P : Party) (gid i list : Nat) (mk : List Nat → LaneMask) (idx : Nat → Word) (val : Nat → Word) :
    List Nat → List Nat → Option Nat → State → State × CaptureEnd
  | [], full, _, s => (s, .done full)
  | l :: r, full, slot, s =>
    let h := match slot with | some n => (s, AppendEnd.slot n) | none => appendHeader P gid i list s
    match h.2 with
    | .full => capture P gid i list mk idx val r (full ++ [l]) none h.1
    | .slot n =>
      let en := appendEntry P gid i list n (leBytes (idx l).toNat 4 ++ leBytes (val l).toNat 4) h.1
      if en.2 == .stored then capture P gid i list mk idx val r full none en.1
      else (noteAppend P en, captureStop en.2 mk [l] ⟨l :: r, full, some n⟩)
    | e => (noteAppend P h, captureStop e mk (l :: r) ⟨l :: r, full, none⟩)

/-- A conversion in which lanes `out` are captured (R170, R171): `res` gives each lane's word and flags, `lost` those of a
lane that finds the list full. The FP trap is decided before any append, from the lanes that are not captured (R149); a lane that found
the list full ORs its flags into FFLAGS without a trap (R119). A wait or a fault leaves the lanes that are not in the list unfinished
(DEDUCED, log entry 29). -/
def withCapture (i : Instr) (e : Bool) (d : RegNum) (out : LaneMask) (res lost : Nat → Word × Flags) (val : Nat → Word)
    (s : State) (g : Group) (p : Split) : Result :=
  let fl (l : Nat) : Flags := if laneIn out l then 0 else (res l).2
  let list := (readReg g 125 0 ++ readReg g 124 0).toNat
  let base := readReg g 123 0
  let P := s.party g
  let todo := out &&& unfinished p
  let a := p.appends.getD ⟨lanesOf todo, [], none⟩
  let mid := p.appends.isSome || todo != out &&& p.active
  let left (x : Appends) : LaneMask := maskOf (x.left ++ x.full)
  let run : Result :=
    match capture P g.gid p.idx list maskOf (fun l => base + BitVec.ofNat 32 l) val a.left a.full a.slot s with
    | (s1, .done full) =>
      let w (l : Nat) : Word := if full.contains l then (lost l).1 else (res l).1
      let f (l : Nat) : Flags := if full.contains l then fOF ||| fIX else fl l
      again s1 g.gid p.idx (fun g p => retire i e s1 (orLanes (writeLanes g d.toNat p.active w) p.active f) p)
    | (s1, .trap code m a) => again s1 g.gid p.idx (fun g p => trapHere s1 g p (.mk' code m (BitVec.ofNat 64 a)))
    | (s1, .park va x) =>
      .next ((parkFault s1 P g.gid p.idx true false (x.left.map (fun l => (l, va)))).mapSplit g.gid p.idx (fun q =>
        { q with appends := some x, fmask := left x }))
    | (s1, .wait x) =>
      suspend (if x == ⟨lanesOf todo, [], none⟩ then s1
        else s1.mapSplit g.gid p.idx (fun q => { q with appends := some x, st := .fault, fmask := left x, faddr := [] }))
  if p.st == .fault && p.faddr.any (fun x => faultPending s P.asid x.2) then .next s
  else if mid then run
  else unlessFp s g p fl run

/-! ## CVTF (R164) -/

/-- FP32 to format `code` in a lane of a row, as the low bits of a word (R106, R111, R114, R164). Under SR a captured element's discarded bits
serve its neighbours as any other's do (DESIGN CHOICE, log entry 80). -/
def cvtfWord (code : Nat) (rm : RMode) (sat : Bool) (active : LaneMask) (w : Nat → Word) (l : Nat) : Word × Flags :=
  let v (j : Nat) : Ext := fp32 (w j)
  if code = 0 then
    match v l with
    | .nan iv => (0x7FC00000, if iv then fIV else 0)
    | _ => (w l, 0)
  else if code = 8 || code = 9 then
    let bits := if code = 8 then 8 else 32
    let h := match rm with
      | .sr => rowHash (fun j => if laneIn active j then dFieldInt (v j) else 0) l
      | _ => 0
    let r := roundInt (-(2 ^ (bits - 1))) (2 ^ (bits - 1) - 1) rm h (v l)
    (BitVec.ofNat 32 ((r.1 % (2 ^ bits)).toNat), r.2)
  else
    let r := roundLanes (fltFmt code) rm sat active v l
    (BitVec.ofNat 32 r.1, r.2)

/-- A lane whose overflow CVTF captures (R164). -/
def cvtfCaptured (code : Nat) (w : Word) (r : Word × Flags) : Bool :=
  (code == 3 || code == 4) && r.2 &&& fOF != 0 && !(code == 4 && (fp32 w == .inf true || fp32 w == .inf false))

def execCvtf (e : Bool) (d : RegNum) (a : Src) (c : BitVec 4) (s : State) : Result :=
  let i := Instr.cvtf e d a c
  ifCode ([0, 1, 2, 3, 4, 8, 9].contains c.toNat) s
    (withIssuer s (fun g p =>
      let res (g : Group) (p : Split) := cvtfWord c.toNat (fmtRm p) (fmtSat p) p.active (fun l => srcVal g a l)
      if fmtOutcap p then
        ifLegal (laneDstOk g d && srcOk g a) s g p
          (let out := if fmtSat p then 0 else testMask (fun l => laneIn p.active l && cvtfCaptured c.toNat (srcVal g a l) (res g p l))
           withCapture i e d out (fun l => if laneIn out l then (0, 0) else res g p l) (res g p) (fun l => srcVal g a l) s g p)
      else laneFloat i e true d [a] (fun g p l => res g p l) s))

/-! ## CVTDX (R168) -/

/-- The header of a CVTDX: fixed where bit 15 of d in the lowest active lane is 1 (R166, R168). -/
def dxHeader (g : Group) (p : Split) (d : RegNum) : Option (Nat × Nat) :=
  let h := readReg g d.toNat (lowest p.active)
  if h.getLsbD 15 then some (h.toNat / 2 ^ 24, h.toNat / 2 ^ 16 % 256) else none

/-- The block that CVTDX encodes. -/
def dxBlock (m : Nat) (outcap : Bool) (g : Group) (p : Split) (d : RegNum) (a : Src) : Nat × Nat × List DxElem :=
  dxEncode (blockValues g p a) m (fmtRm p) (fmtSat p) outcap (dxHeader g p d)

/-- A lane's word and flags of an encoded block. -/
def dxLane (b : Nat × Nat × List DxElem) (l : Nat) : Word × Flags :=
  let x := b.2.2.getD l ⟨0, 0, false⟩
  (dxWord b.1 b.2.1 x.bits, x.flags)

/-- CVTDX (R168). What is captured is the lane's FP32 input as it stands, an infinity that FMT.SAT would replace too (DESIGN CHOICE, log entry 80). -/
def execCvtdx (e : Bool) (d : RegNum) (a : Src) (c : BitVec 4) (s : State) : Result :=
  let i := Instr.cvtdx e d a c
  let m := dxM c.toNat
  ifCode ([5, 6, 7].contains c.toNat) s
    (withIssuer s (fun g p =>
      if fmtOutcap p then
        ifLegal (laneDstOk g d && srcOk g a) s g p
          (let b := dxBlock m true g p d a
           let b0 := dxBlock m false g p d a
           let out := testMask (fun l => laneIn p.active l && (b.2.2.getD l ⟨0, 0, false⟩).out)
           withCapture i e d out (dxLane b) (dxLane b0) (fun l => srcVal g a l) s g p)
      else
        laneFloat i e (p.active == BitVec.allOnes 32) d [a] (fun g p l => dxLane (dxBlock m false g p d a) l) s))

end Sys2Proof.Machine
end

