-- ==== Sys2Proof/Machine/Engine.lean ====
section
/-! DEFINITION. The shared matrix engine as hardware: tile records, the tile fetch unit and its pins, admission, the array and
the closing of chunks (10_matrix_engine_instructions.md R218, R220, R225 to R227; 17 R323 to R338; 05 R121 to R123). -/

namespace Sys2Proof.Machine

/-! ## Banks (R218) -/

def Tag.elem (t : Tag) (i j : Nat) : Word := sget t.bank (bankKey i j)

/-! ## Tile records (R220) -/

/-- The record at uniform registers sq .. sq+3. -/
def tileRec (g : Group) (q : Nat) : TileRec :=
  let r (k : Nat) : Nat := (readReg g (96 + q + k) 0).toNat
  { base := r 0 + 2 ^ 32 * (r 1 % 2 ^ 16), dxhdr := BitVec.ofNat 16 (r 1 / 2 ^ 16), rows := r 2 % 2 ^ 16, cols := r 2 / 2 ^ 16,
    stride := r 3 % 2 ^ 24, fmt := r 3 / 2 ^ 24 % 16, isLocal := r 3 / 2 ^ 28 % 2 == 1, outpair := r 3 / 2 ^ 29 }

/-- A DX format. -/
def isDx (fmt : Nat) : Bool := fmt == 5 || fmt == 6 || fmt == 7

/-- Bytes of an element of a scalar format; 1 for DX. -/
def elemBytes (fmt : Nat) : Nat :=
  match fmt with
  | 0 => 4
  | 1 => 2
  | 2 => 2
  | 9 => 4
  | _ => 1

/-- Bytes of a row of `cols` elements. -/
def rowBytes (fmt cols : Nat) : Nat := if isDx fmt then (cols + 31) / 32 * dxBytes fmt else cols * elemBytes fmt

/-- The record passes R220 for an instruction that accepts the format codes up to `top`. -/
def tileOk (r : TileRec) (top : Nat) : Bool :=
  r.rows != 0 && r.cols != 0 && decide (rowBytes r.fmt r.cols ≤ r.stride) && r.base % elemBytes r.fmt == 0 &&
    r.stride % elemBytes r.fmt == 0 && (!r.isLocal || decide (r.base < 2 ^ 25)) && decide (r.fmt ≤ top)

/-! ## Reading operands (R227, R333) -/

/-- How an operand read ends: bytes, a cause and its address, a page that is waited for, or a wait. -/
inductive OpEnd where
  | ok (bs : List Byte)
  | void (code addr : Nat)
  | fault (va : Nat)
  | wait
deriving DecidableEq, Repr

/-- The pieces of a byte range that lie in one 64-byte sector each. -/
def pieces : Nat → Nat → Nat → List (Nat × Nat)
  | 0, _, _ => []
  | f + 1, a, n => if n = 0 then [] else let k := min n (64 - a % 64); (a, k) :: pieces f (a + k) (n - k)

/-- The pieces of `n` bytes at `a`. -/
def piecesOf (a n : Nat) : List (Nat × Nat) := pieces (n / 64 + 2) a n

/-- A request other than `me` owns the line (R273). -/
def ownedElse (s : State) (me pa : Nat) : Bool := s.mm.owned.any (fun x => x.1 == lineOf pa && x.2 != me)

/-- An abort completion reaches an engine's read. -/
def engineAbort (s : State) (P : Party) (pa va : Nat) : State × OpEnd := (abortTo s P pa va (abortAction s P), .void 0x11 va)

/-- Read one piece of global memory for an engine, for request `me` or for none (0): through the cluster's L2 where the partition
has one (R280, R333). A page whose fault is unanswered is waited for (R293, R295). -/
def engineRead (s : State) (P : Party) (me va n : Nat) : State × OpEnd :=
  if !addrInRange va then (s, .void 0x05 va)
  else if faultPending s P.asid va then (s, .fault va)
  else
    match translate s P va .load with
    | (s1, .ok l) =>
      if P.view != 0 && l.attr == 2 then (s1, .void 0x0E va)
      else if l.attr != 2 && ownedElse s1 me l.pa then (s1, .wait)
      else if l.attr == 2 then
        match extRead s1 P l.pa n with
        | some bs => (s1, .ok bs)
        | none => engineAbort s1 P l.pa va
      else if l.attr == 1 then
        match homeRead s1 P.tenancy P.view l.pa n with
        | some bs => (s1, .ok bs)
        | none => engineAbort s1 P l.pa va
      else
        match fillL2 s1 P l.pa 0 with
        | (s2, some c) => (s2, .ok (sectorBytes c.data (l.pa % 64) n))
        | (s2, none) => engineAbort s2 P l.pa va
    | (s1, .access) => (s1, .void 0x05 va)
    | (s1, .translation) => (s1, .void 0x06 va)
    | (s1, .abort) => (s1, .void 0x11 va)
    | (s1, .replay) => (s1, .fault va)
    | (s1, .stall) => (s1, .wait)

/-- Read one piece of a pool for an engine, through the block's segment map. -/
def engineLocal (s : State) (P : Party) (b : Block) (la n : Nat) : State × OpEnd :=
  match locate s b la with
  | none => (s, .void 0x08 la)
  | some (a, j) =>
    if a.size < j + n then (s, .void 0x08 la)
    else if expired s a j then (s, .void 0x07 la)
    else if poolFails s (byteKey a j) n then (poolAbort s P, .void 0x11 la)
    else (s, .ok (poolRead s (byteKey a j) n))

/-- Read pieces in order, up to the first that gives no bytes. -/
def readPieces (s : State) (P : Party) (b : Block) (me : Nat) (isLocal : Bool) : List (Nat × Nat) → State × OpEnd
  | [] => (s, .ok [])
  | x :: r =>
    match (if isLocal then engineLocal s P b x.1 x.2 else engineRead s P me x.1 x.2) with
    | (s1, .ok bs) =>
      match readPieces s1 P b me isLocal r with
      | (s2, .ok cs) => (s2, .ok (bs ++ cs))
      | e => e
    | e => e

/-- Where element (i, j) of a tile begins, and the bytes that hold it: its DX block, or the element itself. -/
def elemPlace (t : TileRec) (i j : Nat) : Nat × Nat :=
  if isDx t.fmt then (t.base + i * t.stride + j / 32 * dxBytes t.fmt, dxBytes t.fmt)
  else (t.base + i * t.stride + j * elemBytes t.fmt, elemBytes t.fmt)

/-- An element as a word, from the bytes that hold it: a DX lane word, or the element's bits. -/
def elemWord (t : TileRec) (j : Nat) (bs : List Byte) : Word :=
  if isDx t.fmt then
    let v := leNat bs
    dxWord (v / 2 ^ 8 % 256) (v % 256) (dxUnpack (dxM t.fmt) v (j % 32))
  else BitVec.ofNat 32 (leNat bs)

/-- Read elements in order. -/
def readElems (s : State) (P : Party) (b : Block) (t : TileRec) : List (Nat × Nat) → State × Except OpEnd (List Word)
  | [] => (s, .ok [])
  | x :: r =>
    let pl := elemPlace t x.1 x.2
    match readPieces s P b 0 t.isLocal (piecesOf pl.1 pl.2) with
    | (s1, .ok bs) =>
      match readElems s1 P b t r with
      | (s2, .ok ws) => (s2, .ok (elemWord t x.2 bs :: ws))
      | e => e
    | (s1, e) => (s1, .error e)

/-! ## The cruise pass (R295) -/

/-- The addresses of a range, one for each 4 KiB page it touches. -/
def rangeAddrs (a n : Nat) : List Nat :=
  a :: (List.range ((a % 4096 + n - 1) / 4096)).map (fun k => (a / 4096 + k + 1) * 4096)

/-- The base of the page that maps an address, where the cluster's TLB knows it. -/
def mappedPage (s : State) (P : Party) (va : Nat) : Nat :=
  match s.mm.tlb.find? (fun x => x.cluster == P.cluster && x.asid == P.asid && x.va ≤ va && va < x.va + x.size) with
  | some x => x.va
  | none => va / 4096 * 4096

/-- The 4 KiB page of an address, as a fault names it (R293). -/
def faultPage (va : Nat) : Nat := va / 4096 * 4096

/-- Translate the next `n` pages of a list of addresses (`true` for a write), posting replayable faults; gives the pages that have one. A page
in `failed` has had its answer. -/
def cruisePass (P : Party) (src : Nat) (launch : DWord) (failed : List Nat) : List (Nat × Bool) → Nat → List Nat → State → State × List Nat
  | [], _, _, s => (s, [])
  | x :: r, n, seen, s =>
    if seen.contains (mappedPage s P x.1) then cruisePass P src launch failed r n seen s
    else
      match n with
      | 0 => (s, [])
      | m + 1 =>
        if !addrInRange x.1 || failed.contains (faultPage x.1) then cruisePass P src launch failed r m (mappedPage s P x.1 :: seen) s
        else
          match translate s P x.1 (if x.2 then .store else .load) with
          | (s1, .replay) =>
            let s2 := deliverFault s1 P x.1 x.2 false true src 0 launch
            let y := cruisePass P src launch failed r m (mappedPage s2 P x.1 :: seen) s2
            (y.1, faultPage x.1 :: y.2)
          | (s1, _) => cruisePass P src launch failed r m (mappedPage s1 P x.1 :: seen) s1

/-! ## Waves and packs (R328) -/

/-- The waves of a pack, and the cycles for which it holds its ports. -/
def packOf (afmt bfmt : Nat) : Nat × Nat :=
  let row (f : Nat) : Nat := if f = 0 then 0 else if f = 1 || f = 2 then 1 else if f = 7 then 3 else 2
  match min (row afmt) (row bfmt) with
  | 0 => (1, 2)
  | 1 => (1, 1)
  | 2 => (4, 1)
  | _ => (8, 1)

/-- The end of the chunk that holds wave `k` of an MMA: exclusive. -/
def chunkEnd (m : Mma) (k : Nat) : Nat := min m.a.cols (k / 32 * 32 + 32)

/-- The waves of the pack that begins at `k`: exclusive end. -/
def packEnd (t : Tag) (m : Mma) (k : Nat) : Nat := min (k + (packOf t.afmt.toNat t.bfmt.toNat).1) (chunkEnd m k)

/-- The party that fetches an MMA's operands. -/
def mmaParty (s : State) (b : Block) (m : Mma) : Party := { s.partyOf b with asid := m.asid, view := m.view, engine := 3 }

/-- The global addresses of a wave's operands, one at least for each page they touch. -/
def waveAddrs (m : Mma) (k : Nat) : List Nat :=
  (if m.a.isLocal then [] else (List.range m.a.rows).flatMap (fun i => rangeAddrs (elemPlace m.a i k).1 (elemPlace m.a i k).2)) ++
    (if m.b.isLocal then [] else rangeAddrs (m.b.base + k * m.b.stride) (rowBytes m.b.fmt m.b.cols))

/-- A wave has an operand on a page. -/
def waveOn (m : Mma) (page k : Nat) : Bool := (waveAddrs m k).any (fun a => faultPage a == page)

/-- Form wave `k`: its operands, or the cause that makes it void (R227, R335); an error says what its fetch waits for. -/
def formWave (s : State) (b : Block) (m : Mma) (k : Nat) : State × Except OpEnd Wave :=
  let P := mmaParty s b m
  let last := k + 1 == m.a.cols
  let void (c : Nat) : Wave := { k, last, void := some (BitVec.ofNat 6 c), a := [], b := [] }
  if m.voided.contains k || m.failed.any (fun p => waveOn m p k) then (s, .ok (void 0x06)) else
  match readElems s P b m.a ((List.range m.a.rows).map (fun i => (i, k))) with
  | (s1, .error (.void c _)) => (s1, .ok (void c))
  | (s1, .error e) => (s1, .error e)
  | (s1, .ok xs) =>
    match readElems s1 P b m.b ((List.range m.b.cols).map (fun j => (k, j))) with
    | (s2, .error (.void c _)) => (s2, .ok (void c))
    | (s2, .error e) => (s2, .error e)
    | (s2, .ok ys) => (s2, .ok { k, last, void := none, a := xs, b := ys })

/-- Form the `n` waves from `k`; every one of them, or what the fetch waits for (R337). -/
def formWaves (s : State) (b : Block) (m : Mma) (k : Nat) : Nat → State × Except OpEnd (List Wave)
  | 0 => (s, .ok [])
  | n + 1 =>
    match formWave s b m k with
    | (s1, .ok w) =>
      match formWaves s1 b m (k + 1) n with
      | (s2, .ok r) => (s2, .ok (w :: r))
      | e => e
    | (s1, .error e) => (s1, .error e)

/-! ## Chunks and tags -/

/-- The open chunk's waves still to be admitted: a chunk is open from its first admission, or from a wait of its fetch on a replayable fault while it
is the next to be admitted (R329, R337). -/
def openLeft (t : Tag) : Nat :=
  match t.queue with
  | m :: _ => if m.admitK % 32 = 0 && m.opened != m.admitK + 1 then 0 else chunkEnd m m.admitK - m.admitK
  | [] => 0

/-- No wave of the tag is in flight (R329). -/
def drained (t : Tag) : Bool := t.inflight.isEmpty && t.chunk.isEmpty && openLeft t == 0

/-- Every wave of every MMA accepted on the tag has ended (R228). -/
def allEnded (t : Tag) : Bool := drained t && t.queue.isEmpty

/-- What a bank instruction waits for: every wave of every MMA accepted on the tag; on a FROZEN tag, every wave in flight (section rule of R229). -/
def waited (t : Tag) : Bool := allEnded t || (t.st == .frozen && drained t)

/-- The tag's MMA whose waves are latched next. -/
def nextMma (t : Tag) : Option Mma := t.queue.find? (fun m => decide (m.latchK < m.a.cols))

/-- The chunks of a tag's queue that have waves to admit, in the order of admission. -/
def chunksLeft (t : Tag) : List (Nat × Nat) :=
  t.queue.flatMap (fun m => ((List.range ((m.a.cols + 31) / 32)).filter (fun c => decide (m.admitK / 32 ≤ c))).map (fun c => (m.no, c)))

/-- The place of the chunk of an MMA's next fetch among them. -/
def fetchPlace (t : Tag) (m : Mma) : Nat := (chunksLeft t).findIdx (fun x => x == (m.no, m.latchK / 32))

/-- Fetch of the tag's next pack may run: in the open chunk and at most two chunks ahead of it, and for a FROZEN tag only within its open
chunk (R331, R333). -/
def fetchOpen (t : Tag) (m : Mma) : Bool :=
  match t.st with
  | .bound => decide (fetchPlace t m < if openLeft t = 0 then 2 else 3)
  | .frozen => fetchPlace t m == 0 && openLeft t != 0
  | _ => false

/-- Change an MMA of a tag. -/
def State.mapMma (s : State) (cluster p no : Nat) (f : Mma → Mma) : State :=
  s.mapTag cluster p (fun t => { t with queue := t.queue.map (fun x => if x.no == no then f x else x) })

/-- A pin as long as a wave needs it: it ends with the last wave that is neither admitted nor void, and is gone where none is left (R226, R334). -/
def trimPin (m : Mma) (x : Pin) : Option Pin :=
  if x.mma != m.no then some x
  else
    (((List.range (x.last + 1 - x.first)).map (x.first + ·)).filter (fun k => m.admitK ≤ k && !m.voided.contains k)).getLast?.map (fun k =>
      { x with last := k })

/-- Pins added to those held, each once. -/
def addPins (held new : List Pin) : List Pin := new.foldl (fun r x => if r.contains x then r else r ++ [x]) held

/-- Pins held, cut to what an MMA still needs. -/
def trimPins (m : Mma) (xs : List Pin) : List Pin := addPins [] (xs.filterMap (trimPin m))

/-- Append latched waves of an MMA to a tag: the void ones need no pins, and a chunk ahead of admission that waited for a fault waits no more
(R227, R334, R337). -/
def Tag.latch (t : Tag) (m : Mma) (ws : List Wave) : Tag :=
  let ahead := fetchPlace t m != 0
  let upd (x : Mma) : Mma :=
    { x with latchK := x.latchK + ws.length, opened := if ahead then 0 else x.opened,
             voided := x.voided ++ ((ws.filter (fun w => w.void.isSome)).map (·.k)).filter (fun k => !x.voided.contains k) }
  { t with
    latched := t.latched ++ ws
    queue := t.queue.map (fun x => if x.no == m.no then upd x else x)
    pins := (t.queue.filter (fun x => x.no == m.no)).foldl (fun ps x => trimPins (upd x) ps) t.pins }

/-- The addresses of an MMA's operands from wave `k` on, in the order of their chunks. -/
def mmaAddrs (m : Mma) (k : Nat) : List (Nat × Bool) :=
  let from_ (c : Nat) : List (Nat × Bool) :=
    (if m.a.isLocal then [] else (List.range m.a.rows).map (fun i => ((elemPlace m.a i c).1, false))) ++
      (if m.b.isLocal then [] else
        (List.range (chunkEnd m c - c)).flatMap (fun j => (rangeAddrs (m.b.base + (c + j) * m.b.stride) (rowBytes m.b.fmt m.b.cols)).map (fun a => (a, false))))
  ((List.range ((m.a.cols - k + 31) / 32)).map (fun c => if c = 0 then k else (k / 32 + c) * 32)).flatMap from_

/-- The tile fetch unit translates ahead by the context's MCRUISE (R226, R333). -/
def mmaCruise (s : State) (b : Block) (m : Mma) : State × Mma :=
  let n := ((s.context? m.asid).map (·.mcruise)).getD 0
  if n = 0 then (s, m)
  else
    let y := cruisePass (mmaParty s b m) 2 (((s.launch? b.lid).map (·.seq)).getD 0) m.failed (mmaAddrs m m.latchK) (n + 1) [] s
    (y.1, { m with met := m.met ++ (y.2.filter (fun p => m.met.all (fun x => x.1 != p))).map (fun p => (p, false)) })

/-- The waves of the chunk that is fetched next, which an INVALID response has not made void. -/
def fetching (m : Mma) : List Nat :=
  ((List.range (chunkEnd m m.latchK - m.latchK)).map (· + m.latchK)).filter (fun k => !m.voided.contains k)

/-- Report the replayable faults of a chunk's fetch, which reads all of the chunk's operands; the MMA has met their pages, and the chunk is open once
it is the tag's next (R293, R333, R337) (DEDUCED, log entry 38). -/
def fetchFaults (s : State) (b : Block) (m : Mma) : State × Mma :=
  let P := mmaParty s b m
  let m0 := { m with opened := m.latchK / 32 * 32 + 1 }
  (((fetching m).flatMap (waveAddrs m)).filter (fun a => addrInRange a && !m.failed.contains (faultPage a))).foldl (fun st a =>
    match translate st.1 P a .load with
    | (s1, .replay) =>
      (deliverFault s1 P a false false false 2 0 (((s.launch? b.lid).map (·.seq)).getD 0),
        { st.2 with met := (faultPage a, true) :: st.2.met.filter (fun x => x.1 != faultPage a) })
    | (s1, _) => (s1, st.2)) (s, m0)

/-- A response reaches an MMA that has met its page. INVALID makes void the waves whose fetch waits there; where only the cruise pass has met the page,
the waves that touch it become void as their fetch comes to them (R227, R294, R295, R338) (DEDUCED, log entry 38). -/
def Mma.answered (m : Mma) (asid page : Nat) (invalid : Bool) : Mma :=
  if m.asid != asid || m.met.all (fun x => x.1 != page) then m
  else
    let waits := m.met.contains (page, true)
    { m with
      met := m.met.filter (fun x => x.1 != page)
      voided := if invalid && waits then m.voided ++ (fetching m).filter (waveOn m page) else m.voided
      failed := if invalid && !waits then m.failed ++ [page] else m.failed }

/-- A response reaches a tag: the pins of the waves that it makes void end (R294, R334). -/
def Tag.answered (t : Tag) (asid page : Nat) (invalid : Bool) : Tag :=
  let q := t.queue.map (fun m => m.answered asid page invalid)
  { t with queue := q, pins := q.foldl (fun ps m => trimPins m ps) t.pins }

/-! ## Pins (R226, R334) -/

/-- The pins on a range of a tile for the waves from `k0` to `k1`: whole rows of a pool, whole lines of global memory, and, where an address does not
translate yet, its line by its virtual address; a byte that cannot be reached has none (R226). -/
def rangePins (s : State) (P : Party) (b : Block) (isLocal : Bool) (addr n no k0 k1 : Nat) : List Pin :=
  let pin (kind : PinKind) (addr len : Nat) : Pin := { kind, addr, len, mma := no, first := k0, last := k1 }
  (piecesOf addr n).filterMap (fun x =>
    if isLocal then (keyAt s b x.1).map (fun key => pin .pool (key / 128 * 128) 128)
    else if !addrInRange x.1 then none
    else
      match translate s P x.1 .load with
      | (_, .ok l) => some (pin .line (l.pa / 512 * 512) 512)
      | _ => some (pin (.page P.asid) (x.1 / 512 * 512) 512))

/-- The pins of the chunk that holds wave `k`: the rows of A, and each row of B. -/
def chunkPins (s : State) (b : Block) (m : Mma) (k : Nat) : List Pin :=
  let P := mmaParty s b m
  let c := k / 32 * 32
  let fin := chunkEnd m k
  trimPins m
    ((List.range m.a.rows).flatMap (fun i =>
      let x := elemPlace m.a i c
      let y := elemPlace m.a i (fin - 1)
      rangePins s P b m.a.isLocal x.1 (y.1 + y.2 - x.1) m.no c (fin - 1)) ++
    (List.range (fin - c)).flatMap (fun j =>
      rangePins s P b m.b.isLocal (m.b.base + (c + j) * m.b.stride) (rowBytes m.b.fmt m.b.cols) m.no (c + j) (c + j)))

/-- Every pin of an MMA at its acceptance (R226) (DEDUCED, log entry 38). -/
def mmaPins (s : State) (b : Block) (m : Mma) : List Pin :=
  addPins [] ((List.range ((m.a.cols + 31) / 32)).flatMap (fun c => chunkPins s b m (32 * c)))

/-! ## Fetch (R333, R337) -/

/-- The tile fetch unit latches the next pack of a tag, whose chunk's lines and rows it pins, or reports the faults it waits for (R293, R333, R334,
R337). -/
def execTileFetchLatch (cluster p : Nat) (s : State) : Result :=
  let t := s.tag cluster p
  match nextMma t with
  | none => .next s
  | some m =>
    if !fetchOpen t m || matrixStopped s cluster then .next s
    else
      match s.block? m.bid with
      | none => .next s
      | some b =>
        let c := mmaCruise s b m
        let s0 := c.1.mapTag cluster p (fun t => { t with pins := addPins t.pins (chunkPins c.1 b m m.latchK) })
        match formWaves s0 b c.2 m.latchK (packEnd t m m.latchK - m.latchK) with
        | (s1, .ok ws) => .next ((s1.mapMma cluster p m.no (fun _ => c.2)).mapTag cluster p (fun t => t.latch m ws))
        | (s1, .error (.fault _)) => let y := fetchFaults s1 b c.2; .next (y.1.mapMma cluster p m.no (fun _ => y.2))
        | (s1, .error _) => .next (s1.mapMma cluster p m.no (fun _ => c.2))

/-! ## Admission (R330, R331) -/

/-- The quadrants a tag holds. -/
def tagQuads (t : Tag) : List Nat := quadsOf t.fuse (t.p / 8)

/-- The tags of a cluster that are not FREE, each named once. -/
def liveTags (s : State) (cluster : Nat) : List Tag := s.en.tags.filter (fun t => t.cluster == cluster && !t.member && t.st != .free)

/-- The quadrants joined to those given by a tag that spans both (R330); three rounds reach all of them. -/
def domainFrom (ts : List Tag) : Nat → List Nat → List Nat
  | 0, d => d
  | f + 1, d => domainFrom ts f ((List.range 4).filter (fun q => d.contains q || ts.any (fun t => (tagQuads t).contains q && (tagQuads t).any d.contains)))

/-- The pack a ready tag admits next (R331). -/
def nextPack (t : Tag) : List Wave :=
  match t.queue with
  | [] => []
  | m :: _ =>
    let n := packEnd t m m.admitK - m.admitK
    let ws := t.latched.take n
    if ws.length = n && (t.st == .bound || (t.st == .frozen && openLeft t != 0)) then ws else []

def tagReady (t : Tag) : Bool := !(nextPack t).isEmpty

/-- Update the void record for a void wave (R227). -/
def noteVoid (t : Tag) (k : Nat) (code : BitVec 6) : Tag :=
  { t with vk := if t.vcount = 0 then BitVec.ofNat 32 k else t.vk, vcause := if t.vcount = 0 then code else t.vcause,
           vcount := min (t.vcount + 1) 255, void := true }

/-- Admit a tag's next pack: its waves enter the array, its bytes are consumed, and the pins that end with it are released
(R227, R328, R334). -/
def admitPack (t : Tag) : Tag :=
  let ws := nextPack t
  let t1 := ws.foldl (fun t w => match w.void with | some c => noteVoid t w.k c | none => t) t
  match t.queue with
  | [] => t
  | m :: r =>
    let m' := { m with admitK := m.admitK + ws.length }
    { t1 with
      latched := t1.latched.drop ws.length
      inflight := t1.inflight ++ ws
      queue := if m'.admitK < m.a.cols then m' :: r else r
      pins := trimPins m' t1.pins }

/-- The ready tag of the domain with the largest deficit whose ports are free; ties go to the lower p. -/
def bestTag (ts : List Tag) (free : List Nat) (done : List Nat) : Option Tag :=
  (ts.filter (fun t => tagReady t && !done.contains t.p && (tagQuads t).all free.contains)).foldl (fun best t =>
    match best with
    | none => some t
    | some x => if decide (x.deficit < t.deficit) || (x.deficit == t.deficit && decide (t.p < x.p)) then some t else some x) none

/-- The repeat of R331: gives the tags admitted this cycle, in order (DESIGN CHOICE, log entry 4; DESIGN CHOICE, log entry 39). -/
def admitRound (wsum : Nat) : Nat → List Tag → List Nat → List Nat → List Tag × List Nat
  | 0, ts, _, done => (ts, done)
  | f + 1, ts, free, done =>
    match bestTag ts free done with
    | none => (ts, done)
    | some c =>
      admitRound wsum f (ts.map (fun t => if t.p == c.p then { admitPack t with deficit := t.deficit - (wsum : Int) } else t))
        (free.filter (fun q => !(tagQuads c).contains q)) (done ++ [c.p])

/-- One cycle of the arbitration domain that holds a quadrant (R331) (DESIGN CHOICE, log entry 39). -/
def execWaveAdmission (cluster quadrant : Nat) (s : State) : Result :=
  let all := if matrixStopped s cluster then [] else liveTags s cluster
  let dom := domainFrom all 3 [quadrant]
  let ts := all.filter (fun t => (tagQuads t).any dom.contains)
  let wsum := ((ts.filter tagReady).map (·.weight)).sum
  let ts1 := ts.map (fun t => { t with deficit := if tagReady t then t.deficit + (t.weight : Int) else 0 })
  let busy (q : Nat) : Bool := s.en.held.any (fun x => x.1 == 4 * cluster + q)
  let r := admitRound wsum 32 ts1 (dom.filter (fun q => !busy q)) []
  let two := (ts.filter (fun t => r.2.contains t.p && (packOf t.afmt.toNat t.bfmt.toNat).2 == 2)).flatMap tagQuads
  let held := s.en.held.filter (fun x => !(dom.map (fun q => 4 * cluster + q)).contains x.1) ++ two.map (fun q => (4 * cluster + q, 1))
  let s1 := r.1.foldl (fun s t => s.mapTag cluster t.p (fun _ => t)) { s with en := { s.en with held } }
  .next ((ts.filter (fun t => r.2.contains t.p)).foldl (fun s t =>
    match s.block? t.owner with
    | some b =>
      let ten := (s.partyOf b).tenancy
      (s.count 0x0B ten (nextPack t).length).count 0x0C ten ((nextPack t).filter (fun w => w.void.isSome)).length
    | none => s) s1)

/-! ## Leaving the array (R324, R326) -/

/-- An operand element's value: a format of code `fmt`. -/
def elemValue (fmt : Nat) (w : Word) : Ext := if isDx fmt then dxLaneValue (dxM fmt) w else narrowValue fmt w

/-- Clamp to INT32: the word, and OF alone where it saturates (R115, R123) (DESIGN CHOICE, log entry 81). -/
def satInt32 (v : Int) : Word × Flags :=
  if v < -(2 ^ 31) then (0x80000000, fOF) else if (2 ^ 31 - 1 : Int) < v then (0x7FFFFFFF, fOF) else (BitVec.ofInt 32 v, 0)

/-- The chunk's effect on element (i, j) (R122): products of the chunk's waves that are not void. -/
def chunkElem (t : Tag) (ws : List Wave) (i j : Nat) : Word × Flags :=
  let acc := t.elem i j
  if t.acc == 1 then
    let s : Int := (ws.map (fun w =>
      ((w.a.getD i 0).setWidth 8).toInt * ((w.b.getD j 0).setWidth 8).toInt)).sum
    satInt32 (acc.toInt + s)
  else
    let x := toFp32 .rne 0 (sumExt .rne (ws.map (fun w => mulExt (elemValue t.afmt.toNat (w.a.getD i 0)) (elemValue t.bfmt.toNat (w.b.getD j 0)))))
    let y := addRne acc x.1
    (y.1, x.2 ||| y.2)

/-- Close a chunk: its sum enters the bank, unless every wave of it was void (R326). -/
def closeChunk (t : Tag) : Tag :=
  let ws := t.chunk.filter (fun w => w.void.isNone)
  match ws with
  | [] => { t with chunk := [] }
  | w0 :: _ =>
    let cells := (List.range w0.a.length).flatMap (fun i => (List.range w0.b.length).map (fun j => (i, j)))
    let res := cells.map (fun x => (x, chunkElem t ws x.1 x.2))
    { t with
      chunk := []
      bank := res.foldl (fun m x => sset m (bankKey x.1.1 x.1.2) x.2.1) t.bank
      flags := res.foldl (fun f x => f ||| (x.2.2 &&& ~~~fDZ)) t.flags }

/-- The oldest wave of a tag leaves its region; the last of a chunk closes it (R326). A killed tag's waves leave without
accumulation (R237) (DESIGN CHOICE, log entry 39). -/
def execWaveExit (cluster p : Nat) (s : State) : Result :=
  let t := s.tag cluster p
  match (if matrixStopped s cluster then [] else t.inflight) with
  | [] => .next s
  | w :: r =>
    if t.st == .killing then .next (s.mapTag cluster p (fun t => { t with inflight := r }))
    else
      let t1 := { t with inflight := r, chunk := t.chunk ++ [w] }
      .next (s.mapTag cluster p (fun _ => if w.k % 32 == 31 || w.last then closeChunk t1 else t1))

/-- A killed tag has drained and is FREE (R237). -/
def execTagkillDrainComplete (cluster p : Nat) (s : State) : Result :=
  let t := s.tag cluster p
  if t.st == .killing && !t.member && t.inflight.isEmpty then .next (clearTag s cluster p) else .next s

/-- The bank element that a PE of quadrant `q` holds, for a fusion (R218). -/
def quadElem (f : Fusion) (q row col : Nat) : Nat × Nat :=
  (row % 64 + (if bankRows f = 128 && 2 ≤ q then 64 else 0), col % 64 + (if bankCols f = 128 && q % 2 = 1 then 64 else 0))

/-- The check of the PE at a row and column of the quadrant of tag slot `p` fails (R327): a corrected error only writes its record. -/
def execAccumulatorError (cluster p row col : Nat) (corrected : Bool) (s : State) : Result :=
  let p0 := primaryTag s cluster p
  let t := s.tag cluster p0
  let at_ := quadElem t.fuse (p / 8) row col
  match s.block? t.owner with
  | none => .next s
  | some b =>
    if t.st == .free || t.st == .killing then .next s
    else
      let resilient := s.modeOf b == 1 && b.shadow.isSome && decide (b.rollbacks < 3)
      let info : ErrInfo :=
        { unit := 7, sev := if corrected then 0 else 1, action := if corrected then 0 else if resilient then 2 else 3,
          cause := if corrected then 0 else 0x11, tenancy := some (s.partyOf b).tenancy, va := none, cluster, core := p / 8, slot := p % 8,
          pa := 0, launch := ((s.launch? b.lid).map (·.seq)).getD 0, block := b.index.toNat }
      let s1 := writeError s info
      if corrected then .next s1
      else
        let s2 := s1.mapTag cluster p0 (fun t =>
          noteVoid { t with bank := sset t.bank (bankKey at_.1 at_.2) (if t.acc == 1 then 0 else 0x7FC00000) } 0xFFFFFFFF 0x11)
        match b.shadow with
        | some sh => if resilient then .next (rollback s2 b sh) else .next s2
        | none => .next s2

end Sys2Proof.Machine
end

