-- ==== Sys2Proof/Machine/Uniform.lean ====
section
/-! DEFINITION. Uniform scalar arithmetic, loads and stores (09_control_sync_system.md R189 to R192). -/

namespace Sys2Proof.Machine

/-- A uniform instruction that writes one word (R189): legal operands, the echo entry, one write and the retirement. -/
def uniWord (i : Instr) (e echo : Bool) (d : RegNum) (srcs : List Src) (f : Group → Split → Word) (s : State) : Result :=
  withIssuer s (fun g p =>
    ifLegal (uniDstOk g d && srcs.all (srcOk g)) s g p
      (let s1 := if echo then pushEcho s g p i (srcs.map (uniVal g p)) [f g p] [] else s
       retire i e s1 (writeUni g p d (f g p)) p))

/-- The S major (R190). -/
def uniArith (i : Instr) (e : Bool) (d : RegNum) (a b : Src) (f : Word → Word → Word) (s : State) : Result :=
  uniWord i e true d [a, b] (fun g p => f (uniVal g p a) (uniVal g p b)) s

def execSadd (e : Bool) (d : RegNum) (a b : Src) (s : State) : Result := uniArith (.sadd e d a b) e d a b (· + ·) s
def execSsub (e : Bool) (d : RegNum) (a b : Src) (s : State) : Result := uniArith (.ssub e d a b) e d a b (· - ·) s
def execSmul (e : Bool) (d : RegNum) (a b : Src) (s : State) : Result := uniArith (.smul e d a b) e d a b (· * ·) s
def execSand (e : Bool) (d : RegNum) (a b : Src) (s : State) : Result := uniArith (.sand e d a b) e d a b (· &&& ·) s
def execSor (e : Bool) (d : RegNum) (a b : Src) (s : State) : Result := uniArith (.sor e d a b) e d a b (· ||| ·) s
def execSxor (e : Bool) (d : RegNum) (a b : Src) (s : State) : Result := uniArith (.sxor e d a b) e d a b (· ^^^ ·) s
def execSshl (e : Bool) (d : RegNum) (a b : Src) (s : State) : Result := uniArith (.sshl e d a b) e d a b shlWord s
def execSshr (e : Bool) (d : RegNum) (a b : Src) (s : State) : Result := uniArith (.sshr e d a b) e d a b shrWord s

/-- SCMP (R191). -/
def execScmp (e : Bool) (c : CmpOp) (d : RegNum) (a b : Src) (s : State) : Result :=
  uniWord (.scmp e c d a b) e true d [a, b] (fun g p => bitWord (cmpTest c (uniVal g p a) (uniVal g p b))) s

/-- SMOV.b64 (R23, R191). -/
def uniMove64 (i : Instr) (e : Bool) (d : RegNum) (a : Src) (s : State) : Result :=
  withIssuer s (fun g p =>
    ifLegal (uniDst64Ok g d && src64Ok g a) s g p
      (let w := uniVal64 g p a
       let s1 := pushEcho s g p i [w.setWidth 32, (w >>> 32).setWidth 32] [w.setWidth 32, (w >>> 32).setWidth 32] []
       retire i e s1 (writeUni64 g p d w) p))

/-- SMOV (R191): `w` is the .b64 form. -/
def execSmov (e w : Bool) (d : RegNum) (a : Src) (s : State) : Result :=
  if w then uniMove64 (.smov e w d a) e d a s else uniWord (.smov e w d a) e true d [a] (fun g p => uniVal g p a) s

/-- The register number of a UI d field (R59). A d of 30 or 31 names no register (R18, R66): 127 stands for it, which is no destination. -/
def uiReg (d : BitVec 5) : RegNum := if d.toNat < 30 then 96 + d.setWidth 7 else 127

/-- SLI (R191). -/
def execSli (e : Bool) (d : BitVec 5) (i : BitVec 19) (s : State) : Result :=
  uniWord (.sli e d i) e true (uiReg d) [] (fun _ _ => i.signExtend 32) s

/-! ## SLD and SST (R192) -/

/-- An address base: an even pair or zero (DEDUCED, log entry 62). -/
def baseOk (g : Group) (a : Src) : Bool :=
  match a with
  | .reg _ => src64Ok g a
  | .lit _ => false

/-- The address of SLD and SST. -/
def uniAddr (g : Group) (p : Split) (a b : Src) : Nat := (uniVal64 g p a).toNat + (uniVal g p b).toNat

/-- The one address of an access of the whole split: a replay keeps the address that faulted. -/
def wholeAddr (p : Split) (va : Nat) : List (Nat × Nat) :=
  [(lowest p.active, if p.st == .fault then ((p.faddr.head?).map (·.2)).getD va else va)]

/-- A fault of the one access leaves every active lane unfinished. -/
def wholeRest (p : Split) (rest : List (Nat × Nat)) : List (Nat × Nat) :=
  match rest with
  | [] => []
  | x :: _ => (lanesOf p.active).map (fun l => (l, x.2))

/-- The words of a uniform load: one register, or a pair; zero takes none. -/
def wholeDests (g : Group) (p : Split) (d : RegNum) (w : Bool) : List (List RegDest) :=
  if w then [uniDests g p d.toNat, uniDests g p (d.toNat + 1)] else [uniDests g p d.toNat]

/-- The parts of a uniform load: one for each register it writes, so that each word goes to its register's places. -/
def wholeParts (g : Group) (p : Split) (d : RegNum) (w : Bool) (pl : Place) : List LaneResult :=
  match pl with
  | .global pa va attr page =>
    (wholeDests g p d w).mapIdx (fun k ds =>
      { lane := lowest p.active, dests := ds, vals := [], load := some (.global (pa + 4 * k) (va + 4 * k) attr page, 4), sext := false, scope := .dev,
        flags := 0 : LaneResult })
  | .pool _ => []

/-- The register numbers that a uniform load leaves outstanding. -/
def wholeRegs (d : RegNum) (w : Bool) : RegSet := if d == 126 then 0 else regRange d.toNat (if w then 2 else 1)

/-- SLD. -/
def execSld (e w : Bool) (d : RegNum) (a b : Src) (s : State) : Result :=
  withIssuer s (fun g p =>
    ifLegal ((if w then uniDst64Ok g d else uniDstOk g d) && baseOk g a && srcOk g b) s g p
      (let P := s.party g
       let n := if w then 8 else 4
       withChecked s g p P .load true false n (some p.active) (wholeAddr p (uniAddr g p a b)) (fun s1 oks rest =>
         match oks with
         | [] => endAccess (.sld e w d a b) e P false g.gid p.idx (wholeRest p rest) s1
         | x :: _ =>
           let pl : Place := .global x.2.2.pa x.2.1 x.2.2.attr x.2.2.size
           let atOnce := x.2.2.attr == 1 || d == 126
           let s2 := if atOnce then settleOlder s1 g.gid p.idx [(pl, n)] else s1
           if atOnce && mustWait s2 g.gid p.idx [(pl, n)] then suspend s2
           else
             again s2 g.gid p.idx (fun g p =>
               let x0 : Pending := { seq := s2.seq, after := p.past, sp := p.idx, view := P.view, regs := 0, parts := [] }
               let r := if atOnce then
                   (wholeParts g p d w pl).foldl (fun (st : State × List LaneResult) y =>
                     match performPart st.1 P g p x0 y with
                     | (s', some ws, _) => (s', st.2 ++ [{ y with vals := ws, load := none }])
                     | (s', none, pa) => (noteAbort s' g.gid p.idx pa, st.2)) (s2, [])
                 else (s2, wholeParts g p d w pl)
               again r.1 g.gid p.idx (fun g p =>
                 let q := if d == 126 || r.2.isEmpty then (g, p) else addPending r.1 g p P.view (wholeRegs d w) r.2
                 endAccess (.sld e w d a b) e P false g.gid p.idx (wholeRest p rest)
                   (addLinks (r.1.put q.1 q.2) g.gid p.idx r.1.seq false (if d == 126 then [] else [x])))))))

/-- The bytes of a uniform store's data. -/
def wholeData (g : Group) (p : Split) (d : Src) (w : Bool) : List Byte :=
  if w then leBytes (uniVal64 g p d).toNat 8 else leBytes (uniVal g p d).toNat 4

/-- SST. -/
def execSst (e w : Bool) (d a b : Src) (s : State) : Result :=
  withIssuer s (fun g p =>
    ifLegal ((if w then src64Ok g d else srcOk g d) && baseOk g a && srcOk g b) s g p
      (let P := s.party g
       let n := if w then 8 else 4
       withChecked s g p P .store false true n (some p.active) (wholeAddr p (uniAddr g p a b)) (fun s1 oks rest =>
         storeChecked (.sst e w d a b) e .dev P g p n (some p.active) (fun _ => wholeData g p d w) s1 oks (wholeRest p rest))))

end Sys2Proof.Machine
end

