-- ==== Sys2Proof/Machine/Matrix.lean ====
section
/-! DEFINITION. The matrix instructions (10_matrix_engine_instructions.md R217 to R237), but for GANG. -/

namespace Sys2Proof.Machine

/-! ## Tags and gangs (R217, R219, R223, R224) -/

/-- The tag `t` of the issuing block, where it may be used; none where R219 gives TAG. -/
def ownTag (s : State) (b : Block) (t : Nat) : Option Tag :=
  let x := s.tag b.cluster (physTag b.core t)
  if t < 8 && !x.member && (x.st == .bound || x.st == .frozen) && x.owner == b.bid then some x else none

/-- Go on with the issuing group's block and its tag, or raise TAG. -/
def withTag (s : State) (g : Group) (p : Split) (t : Nat) (k : Block → Tag → Result) : Result :=
  let tag := trapHere s g p (.mk' 0x0B p.active (BitVec.ofNat 64 t))
  match s.block? g.bid with
  | none => tag
  | some b =>
    match ownTag s b t with
    | none => tag
    | some x => k b x

/-- The first COUNT members of a gang, in order (R39). -/
def gangMembers (v : DWord) : List Nat := (List.range (v.toNat % 8)).map (fun k => v.toNat / 2 ^ (8 + 5 * k) % 32)

/-- Two gangs have the same set of members. -/
def sameGang (x y : List Nat) : Bool := x.length == y.length && x.all y.contains

/-- The number of groups of a block. -/
def blockGroups (s : State) (b : Block) : Nat := ((s.launch? b.lid).map (·.kernel.groups)).getD 1

/-- A value that GANG may take (R39). -/
def gangOk (s : State) (g : Group) (v : DWord) : Bool :=
  let n := ((s.block? g.bid).map (blockGroups s)).getD 1
  let ms := gangMembers v
  v.toNat % 8 != 0 && v.toNat % 8 != 7 && v.toNat / 8 % 32 == 0 && v.toNat / 2 ^ 38 == 0 && ms.all (fun m => decide (m < n)) &&
    decide ms.Nodup

/-- GANG sets the gang register (R223). -/
def execGang (e : Bool) (a : Src) (s : State) : Result :=
  withIssuer s (fun g p =>
    ifLegal (src64Ok g a) s g p
      (let v := uniVal64 g p a
       if gangOk s g v && (gangMembers v).contains g.index then retire (.gang e a) e s { g with gang := v } p
       else illegalOperand s g p))

/-! ## TAGBIND, TAGFREE, MFREEZE, MTHAW, TAGKILL -/

/-- The formats of a tag may be paired (R121). -/
def pairOk (a b acc : Nat) : Bool := if a == 8 || b == 8 then a == 8 && b == 8 && acc == 1 else acc == 0

/-- The refusal of TAGBIND, or 0 (R221) (DEDUCED, log entry 38). -/
def bindStatus (s : State) (b : Block) (f : Fusion) (slot : Nat) (fmt : Word) : Nat :=
  let qs := quadsOf f b.core
  if qs.any (fun q => (s.tag b.cluster (8 * q + slot)).st != .free) then 1
  else if qs.any (fun q => (s.quarter (4 * b.cluster + q)).serves != (s.partyOf b).part) then 2
  else if !pairOk (fmt.toNat / 2 ^ 8 % 16) (fmt.toNat / 2 ^ 12 % 16) (fmt.toNat / 2 ^ 16 % 4) then 3
  else 0

/-- Bind a slot in every member quadrant; the tag of the core's own quadrant holds the contents. -/
def bindTag (s : State) (b : Block) (f : Fusion) (slot : Nat) (fmt : Word) : State :=
  let prio := ((s.launch? b.lid).map (·.prio)).getD 1
  (quadsOf f b.core).foldl (fun s q =>
    s.mapTag b.cluster (8 * q + slot) (fun _ =>
      { Tag.atReset b.cluster (8 * q + slot) with
        st := .bound, owner := b.bid, fuse := f, member := q != b.core, afmt := BitVec.ofNat 4 (fmt.toNat / 2 ^ 8),
        bfmt := BitVec.ofNat 4 (fmt.toNat / 2 ^ 12), acc := BitVec.ofNat 2 (fmt.toNat / 2 ^ 16), weight := prio })) s

/-- TAGBIND (R221). -/
def execTagbind (e : Bool) (o : Fusion) (d : RegNum) (a : Src) (s : State) : Result :=
  withIssuer s (fun g p =>
    ifLegal (uniDstOk g d && srcOk g a) s g p
      (let t := (uniVal g p a).toNat
       if inRival s g then viewState s g p
       else if 7 < t then illegalOperand s g p
       else
         match s.block? g.bid with
         | none => illegalOperand s g p
         | some b =>
           let st := bindStatus s b o t p.fmt
           let s1 := if st = 0 then bindTag s b o t p.fmt else s
           retire (.tagbind e o d a) e s1 (writeUni g p d (BitVec.ofNat 32 st)) p))

/-- Stop a tag for good: at once where nothing of it is in the array, else as its waves run out (R336) (DEDUCED, log entry 38). -/
def endTag (s : State) (x : Tag) : State := if x.inflight.isEmpty then clearTag s x.cluster x.p else killTag s x.cluster x.p

/-- TAGFREE (R222): `phase` 1 waits for the tag to be FREE. -/
def execTagfree (e : Bool) (a : Src) (s : State) : Result :=
  withIssuer s (fun g p =>
    ifLegal (srcOk g a) s g p
      (let t := (uniVal g p a).toNat
       if p.phase = 1 then
         match s.block? g.bid with
         | none => retire (.tagfree e a) e s g p
         | some b =>
           let x := s.tag b.cluster (physTag b.core t)
           if x.st == .killing && x.owner == b.bid then suspend s else retire (.tagfree e a) e s g p
       else
         withTag s g p t (fun _ x =>
           if x.inflight.isEmpty then retire (.tagfree e a) e (endTag s x) g p
           else suspend ((endTag s x).mapSplit g.gid p.idx (fun q => { q with phase := 1 })))))

/-- MFREEZE (R236, R336): `phase` 1 waits for the waves in flight, also of a tag that an MTHAW has made BOUND since (DEDUCED, log entry 38). -/
def execMfreeze (e : Bool) (t : BitVec 5) (s : State) : Result :=
  withIssuer s (fun g p =>
    withTag s g p t.toNat (fun _ x =>
      if p.phase != 1 && x.st == .bound then
        let s1 := s.mapTag x.cluster x.p (fun y => { y with st := .frozen })
        if drained x then retire (.mfreeze e t) e s1 g p
        else suspend (s1.mapSplit g.gid p.idx (fun q => { q with phase := 1 }))
      else if p.phase = 1 && !drained x then suspend s
      else retire (.mfreeze e t) e s g p))

/-- MTHAW (R236). -/
def execMthaw (e : Bool) (t : BitVec 5) (s : State) : Result :=
  withIssuer s (fun g p =>
    withTag s g p t.toNat (fun _ x =>
      retire (.mthaw e t) e (s.mapTag x.cluster x.p (fun y => { y with st := .bound })) g p))

/-- The tag field of an MMA word (R225). -/
def wordTag (w : Word) : Nat := (w.toNat / 2 ^ 19) % 32

/-- The splits of a block parked at a rendezvous latch (R224). -/
def atLatch (s : State) (bid : Nat) : List (Group × Split × Word) :=
  (s.groupsOf bid).flatMap (fun g => g.splits.filterMap (fun q => match q.park with | .latch w => some (g, q, w) | _ => none))

/-- Raise a cause in splits parked at a latch, each at its own instruction with its own mask. -/
def raiseParked (s : State) (code addr : Nat) (contain : Bool) (ms : List (Group × Split × Word)) : State :=
  ms.foldl (fun s m =>
    match s.split? m.1.gid m.2.1.idx with
    | some (_, q) => if q.park == .none then s else raiseReleased s m.1.gid m.2.1.idx code addr contain
    | none => s) s

/-- The splits of a block that wait for a tag, at a latch or in a bank instruction: group, split, and the tag as the split names it (R237). -/
def tagUsers (s : State) (bid : Nat) : List (Nat × Nat × Nat) :=
  (atLatch s bid).map (fun m => (m.1.gid, m.2.1.idx, wordTag m.2.2)) ++
    (s.groupsOf bid).flatMap (fun g => g.splits.filterMap (fun q => q.tagWait.map (fun t => (g.gid, q.idx, t))))

/-- TAGKILL (R237). -/
def execTagkill (e : Bool) (t : BitVec 5) (s : State) : Result :=
  withIssuer s (fun g p =>
    if !g.mode then privilege s g p
    else
      match s.block? g.bid with
      | none => illegalOperand s g p
      | some b =>
        let n := physTag b.core t.toNat
        if (s.quarter (4 * b.cluster + n / 8)).serves != (s.partyOf b).part then illegalOperand s g p
        else
          let x := s.tag b.cluster (primaryTag s b.cluster n)
          if x.st == .free || x.st == .killing then retire (.tagkill e t) e s g p
          else
            let owner := (s.block? x.owner).getD b
            let hit := (tagUsers s x.owner).filter (fun m => physTag owner.core m.2.2 == x.p)
            let drop (q : Split) : Split := { q with fmask := 0, faddr := [], appends := none }
            let s1 := hit.foldl (fun s m => raiseReleased (s.mapSplit m.1 m.2.1 drop) m.1 m.2.1 0x0B m.2.2 false) (endTag s x)
            again s1 g.gid p.idx (fun g p => retire (.tagkill e t) e s1 g p))

/-! ## MMA (R224 to R226) -/

/-- The records of an MMA fit its tag (R225). -/
def mmaShape (x : Tag) (a b : TileRec) : Bool :=
  tileOk a 8 && tileOk b 8 && a.fmt == x.afmt.toNat && b.fmt == x.bfmt.toNat && a.dxhdr == 0 && b.dxhdr == 0 && a.outpair == 0 &&
    b.outpair == 0 && b.rows == a.cols && decide (a.rows ≤ bankRows x.fuse) && decide (b.cols ≤ bankCols x.fuse)

/-- Accept an MMA into its tag's queue, and pin its operands (R225, R226). -/
def acceptMma (s : State) (b : Block) (x : Tag) (ra rb : TileRec) : State :=
  let P := s.partyOf b
  let m : Mma := { no := s.nextId, a := ra, b := rb, asid := P.asid, view := P.view, bid := b.bid, latchK := 0, admitK := 0, voided := [], met := [],
                   failed := [], opened := 0 }
  let pins := mmaPins s b m
  let c := mmaCruise s b m
  { c.1 with nextId := s.nextId + 1 }.mapTag x.cluster x.p (fun y => { y with queue := y.queue ++ [c.2], pins := addPins y.pins pins })

/-- Run the MMA of a latch whose members have all arrived: the checks of R219, the release of every member (R226), room in the
queue, then acceptance, and every member goes on. -/
def runLatch (s : State) (b : Block) (ms : List (Group × Split × Word)) : State :=
  match ms with
  | [] => s
  | m0 :: _ =>
    let w := m0.2.2
    match ownTag s b (wordTag w) with
    | none => raiseParked s 0x0B (wordTag w) false ms
    | some x =>
      let lead := ((s.groupsOf b.bid).find? (fun g => g.index == ((gangMembers m0.1.gang).headD 0))).getD m0.1
      let ra := tileRec lead (w.toNat / 2 ^ 14 % 32)
      let rb := tileRec lead (w.toNat / 2 ^ 9 % 32)
      if !mmaShape x ra rb then raiseParked s 0x09 0 false ms
      else
        let r := ms.foldl (fun (st : State × List (Group × Split × Word × Nat) × Bool) m =>
          match releaseAt st.1 m.1.gid m.2.1.idx .clu with
          | (s', .done) => (s', st.2)
          | (s', .wait) => (s', st.2.1, true)
          | (s', .failed sec) => (s', st.2.1 ++ [(m.1, m.2.1, m.2.2, sec)], st.2.2)) (s, [], false)
        match r.2.1 with
        | f :: _ => raiseParked r.1 0x11 f.2.2.2 true ms
        | [] =>
          if r.2.2 || decide (4 ≤ (r.1.tag x.cluster x.p).queue.length) then r.1
          else ms.foldl (fun s m => releaseSplit s m.1.gid m.2.1.idx) (acceptMma r.1 b x ra rb)

/-- Run every latch of a block at which all members that have not ended have arrived (R224). -/
def latchStep (s : State) (bid : Nat) : State :=
  match s.block? bid with
  | none => s
  | some b =>
    (List.range 32).foldl (fun s k =>
      let held := atLatch s bid
      match held.find? (fun m => m.1.index == k) with
      | none => s
      | some m =>
        let set := gangMembers m.1.gang
        let ms := held.filter (fun y => sameGang set (gangMembers y.1.gang))
        let here := set.all (fun i =>
          (s.groupsOf bid).all (fun g => !(g.index == i && g.alive) || ms.any (fun y => y.1.gid == g.gid)))
        if here && ms.all (fun y => decide (k ≤ y.1.index)) then runLatch s b ms else s) s

/-- The gang conditions of an arriving MMA (R224) (DEDUCED, log entry 38). -/
def gangArrives (s : State) (g : Group) (p : Split) (w : Word) : Bool :=
  let set := gangMembers g.gang
  set.contains g.index && p.active == g.live &&
    (atLatch s g.bid).all (fun m =>
      let other := gangMembers m.1.gang
      if sameGang set other then m.2.2 == w else !set.contains m.1.index && !other.contains g.index)

/-- MMA (R225). -/
def execMma (e : Bool) (t a b : BitVec 5) (s : State) : Result :=
  let i := Instr.mma e t a b
  withIssuer s (fun g p =>
    ifLegal (a.toNat % 4 == 0 && decide (a.toNat ≤ 24) && b.toNat % 4 == 0 && decide (b.toNat ≤ 24)) s g p
      (if inRival s g then viewState s g p
       else if 2 ≤ g.gang.toNat % 8 then
         if gangArrives s g p (encodeWord i) then
           .next (latchStep (parkTo i e .bar (.latch (encodeWord i)) (pcAfter i p) s g p) g.bid)
         else trapCode s g p 0x0A
       else
         withTag s g p t.toNat (fun blk x =>
           let ra := tileRec g a.toNat
           let rb := tileRec g b.toNat
           if !((gangMembers g.gang).contains g.index && p.active == g.live) then trapCode s g p 0x0A
           else if !mmaShape x ra rb then trapCode s g p 0x09
           else
             afterFence (releaseAt s g.gid p.idx .clu) g.gid p.idx (fun s1 g p =>
               let y := s1.tag x.cluster x.p
               if 4 ≤ y.queue.length then suspend s1
               else retire i e (acceptMma s1 blk y ra rb) g p))))

/-! ## The bank (R228 to R233) -/

/-- The address that MATRIX_WAVE reports (R228). -/
def voidRecord (x : Tag) (t : Nat) : DWord :=
  BitVec.ofNat 64 (x.vk.toNat + 2 ^ 32 * t + 2 ^ 40 * x.vcause.toNat + 2 ^ 48 * x.vcount)

/-- Raise MATRIX_WAVE: the void record is reported and cleared (R228). -/
def matrixWave (s : State) (g : Group) (p : Split) (x : Tag) (t : Nat) : Result :=
  trapHere (s.mapTag x.cluster x.p (fun y => { y with void := false, vk := 0, vcause := 0, vcount := 0 })) g p
    (.mk' 0x0C p.active (voidRecord x t))

/-- Wait for the tag's waves, then go on, or raise MATRIX_WAVE where `reads` and a void record is pending. Until the instruction retires, a TAGKILL of
the tag reaches its split (R237). -/
def afterWaves (s : State) (g : Group) (p : Split) (x : Tag) (t : Nat) (reads : Bool) (k : State → Result) : Result :=
  let s1 := s.mapSplit g.gid p.idx (fun q => { q with tagWait := some t })
  if !waited x then suspend s1
  else if reads && x.void then matrixWave s1 g p x t else k s1

/-- ACCZ (R232). -/
def execAccz (e : Bool) (t : BitVec 5) (s : State) : Result :=
  withIssuer s (fun g p =>
    if inRival s g then viewState s g p
    else
      withTag s g p t.toNat (fun _ x =>
        afterWaves s g p x t.toNat false (fun s1 =>
          retire (.accz e t) e (s1.mapTag x.cluster x.p (fun y => { y with bank := [], flags := 0 })) g p)))

/-- The registers that a call of ACCRD or ACCWR reaches. -/
def accRegs (x : Tag) : Nat := bankCols x.fuse / 32 * (bankRows x.fuse / 64)

/-- The bank rows of a call, and its 32-column runs in register order: row, first column (R229). -/
def accRuns (x : Tag) (r : Nat) : List (Nat × Nat) :=
  let rows := if bankRows x.fuse = 64 then [r] else [r, r + 64]
  rows.flatMap (fun i => (List.range (bankCols x.fuse / 32)).map (fun q => (i, 32 * q)))

/-- The row a call names, or none where the group is no member (R229). -/
def accRow (g : Group) (w : BitVec 6) : Option Nat :=
  ((gangMembers g.gang).findIdx? (· == g.index)).map (fun j => j + g.gang.toNat % 8 * w.toNat)

/-- What ACCRD and ACCWR share: their operands, TAG, GANG, SHAPE, registers, the wait and MATRIX_WAVE (R219, R229), which no save routine
meets (R361). -/
def withRow (s : State) (g : Group) (p : Split) (t : BitVec 5) (d : RegNum) (w : BitVec 6) (reads : Bool)
    (k : State → Tag → Nat → Result) : Result :=
  ifLegal (decide (d.toNat < 96) && regExists g d.toNat) s g p
    (if !reads && inRival s g then viewState s g p
     else
       withTag s g p t.toNat (fun _ x =>
         match accRow g w with
         | none => trapCode s g p 0x0A
         | some r =>
           if 63 < r then trapCode s g p 0x09
           else if min 96 g.count < d.toNat + accRegs x then illegalOperand s g p
           else afterWaves s g p x t.toNat (reads && !inRoutine g) (fun s1 => k s1 x r)))

/-- ACCWR (R231). -/
def execAccwr (e : Bool) (t : BitVec 5) (a : RegNum) (w : BitVec 6) (s : State) : Result :=
  withIssuer s (fun g p =>
    withRow s g p t a w false (fun s x r =>
      let cells := (accRuns x r).mapIdx (fun n run => (List.range 32).map (fun l => (bankKey run.1 (run.2 + l), readReg g (a.toNat + n) l)))
      retire (.accwr e t a w) e
        (s.mapTag x.cluster x.p (fun y => { y with bank := cells.flatten.foldl (fun m c => sset m c.1 c.2) y.bank })) g p))

/-! ## Converting rows (R230) -/

/-- The exact value of a bank element. -/
def accValue (x : Tag) (w : Word) : Ext := if x.acc == 1 then Ext.ofInt w.toInt else fp32 w

/-- One run of up to 32 columns as converted: block exponents for a DX code, and each element's bits, flags, and whether it is
captured. -/
structure RunOut where
  e0 : Nat
  e1 : Nat
  els : List (Nat × Flags × Bool)
deriving DecidableEq, Repr

/-- Convert a run to format `code`: raw where it is the accumulator's own, else as CVTF or CVTDX convert (R164, R230, R233). -/
def accConvert (x : Tag) (code : Nat) (rm : RMode) (sat outcap : Bool) (hdr : Option (Nat × Nat)) (ws : List Word) : RunOut :=
  let v (j : Nat) : Ext := accValue x (ws.getD j 0)
  let all : LaneMask := BitVec.allOnes 32
  if code = (if x.acc == 1 then 9 else 0) then ⟨0, 0, ws.map (fun w => (w.toNat, 0, false))⟩
  else if isDx code then
    let r := dxEncode ((List.range 32).map v) (dxM code) rm sat outcap hdr
    ⟨r.1, r.2.1, r.2.2.map (fun y => (y.bits, y.flags, y.out))⟩
  else if code = 8 || code = 9 then
    let bits := if code = 8 then 8 else 32
    ⟨0, 0, (List.range ws.length).map (fun l =>
      let h := match rm with | .sr => rowHash (fun j => dFieldInt (v j)) l | _ => 0
      let r := roundInt (-(2 ^ (bits - 1))) (2 ^ (bits - 1) - 1) rm h (v l)
      ((r.1 % (2 ^ bits)).toNat, r.2, false))⟩
  else
    ⟨0, 0, (List.range ws.length).map (fun l =>
      let r := roundLanes (fltFmt code) rm sat all v l
      let inf := code == 4 && (v l == .inf true || v l == .inf false)
      (r.1, r.2, outcap && !sat && (code == 3 || code == 4) && r.2 &&& fOF != 0 && !inf))⟩

/-- The bits and flags of element `l` of a run: a captured one is 0, or its saturated form where the list was full (R119). -/
def accElem (cap plain : RunOut) (full : Bool) (l : Nat) : Nat × Flags :=
  let x := cap.els.getD l (0, 0, false)
  if !x.2.2 then (x.1, x.2.1) else if full then ((plain.els.getD l (0, 0, false)).1, fOF ||| fIX) else (0, 0)

/-- The FP32 bits that the outlier list records (R118). -/
def accRecord (x : Tag) (w : Word) : Word := if x.acc == 1 then (toFp32 .rne 0 (Ext.ofInt w.toInt)).1 else w

/-- OR flags into a tag's sticky flags; DZ is never raised there (R123). -/
def tagFlags (s : State) (x : Tag) (f : Flags) : State :=
  s.mapTag x.cluster x.p (fun y => { y with flags := y.flags ||| (f &&& ~~~fDZ) })

/-- Append the elements `outs` to an outlier list before going on (R171): their progress is kept with the split. The save area has no place for it: a
split that a pre-emption saves amid its appends appends every captured element again once it is restored (DESIGN CHOICE, log entry 86). -/
def withAppends (s : State) (g : Group) (p : Split) (list : Nat) (idx val : Nat → Word) (outs : List Nat)
    (k : State → Group → Split → List Nat → Result) : Result :=
  let P := s.party g
  let a := p.appends.getD ⟨outs, [], none⟩
  if a.left.isEmpty then k s g p a.full
  else
    match capture P g.gid p.idx list (fun _ => p.active) idx val a.left a.full a.slot s with
    | (s1, .done full) =>
      let s2 := s1.mapSplit g.gid p.idx (fun q => { q with appends := some ⟨[], full, none⟩ })
      again s2 g.gid p.idx (fun g p => k s2 g p full)
    | (s1, .trap code m a) => again s1 g.gid p.idx (fun g p => trapHere s1 g p (.mk' code m (BitVec.ofNat 64 a)))
    | (s1, .park va x) =>
      .next (parkFault (s1.mapSplit g.gid p.idx (fun q => { q with appends := some x })) P g.gid p.idx true false
        (x.left.map (fun l => (2 ^ 20 + l, va))))
    | (s1, .wait x) => suspend (s1.mapSplit g.gid p.idx (fun q => { q with appends := some x }))

/-- The split waits for the answer to a fault of its own access. -/
def faultsLeft (s : State) (g : Group) (p : Split) : Bool :=
  p.st == .fault && p.faddr.any (fun x => faultPending s (s.party g).asid x.2)

/-- ACCRD (R230). -/
def execAccrd (e : Bool) (t : BitVec 5) (d : RegNum) (w : BitVec 6) (s : State) : Result :=
  withIssuer s (fun g p =>
    if faultsLeft s g p then .next s
    else
      withRow s g p t d w true (fun s x r =>
        let code := fmtNarrow p
        let runs := accRuns x r
        let words (run : Nat × Nat) : List Word := (List.range 32).map (fun l => x.elem run.1 (run.2 + l))
        let conv (cap : Bool) : List RunOut := runs.map (fun run => accConvert x code (fmtRm p) (fmtSat p) cap none (words run))
        let caps := conv (fmtOutcap p)
        let plain := conv false
        let number (run : Nat × Nat) (l : Nat) : Nat := run.1 * bankCols x.fuse + run.2 + l
        let outs := ((runs.zip caps).map (fun y =>
          ((List.range 32).filter (fun l => (y.2.els.getD l (0, 0, false)).2.2)).map (number y.1))).flatten
        let list := (readReg g 125 0 ++ readReg g 124 0).toNat
        let cols := bankCols x.fuse
        withAppends s g p list (fun n => readReg g 123 0 + BitVec.ofNat 32 n) (fun n => accRecord x (x.elem (n / cols) (n % cols))) outs
          (fun s1 g p full =>
            let res (n l : Nat) : Word × Flags :=
              let c := caps.getD n ⟨0, 0, []⟩
              let y := accElem c (plain.getD n ⟨0, 0, []⟩) (full.contains (number (runs.getD n (0, 0)) l)) l
              (if isDx code then dxWord c.e0 c.e1 y.1 else BitVec.ofNat 32 y.1, y.2)
            let ns := List.range runs.length
            let fl := ns.foldl (fun f n => (List.range 32).foldl (fun f l => f ||| (res n l).2) f) 0
            let parts := (List.range 32).map (fun l =>
              { lane := l, dests := ns.map (fun n => .vec (d.toNat + n) l), vals := ns.map (fun n => (res n l).1), load := none,
                sext := false, scope := .blk, flags := 0 : LaneResult })
            let q := addPending s1 g p 0 (regRange d.toNat runs.length) parts
            retire (.accrd e t d w) e (tagFlags s1 x fl) q.1 q.2)))

/-! ## ACCST (R233, R234) -/

/-- The 32-column runs of a row of a tile: first column and its elements. -/
def tileRuns (x : Tag) (r : TileRec) (i : Nat) : List (Nat × List Word) :=
  (List.range ((r.cols + 31) / 32)).map (fun q => (32 * q, (List.range (min 32 (r.cols - 32 * q))).map (fun l => x.elem i (32 * q + l))))

/-- The fixed header of a record (R220). -/
def fixedHeader (r : TileRec) : Option (Nat × Nat) :=
  if r.dxhdr == 0 then none else some (r.dxhdr.toNat / 256, r.dxhdr.toNat % 256)

/-- A run of a tile converted, with and without capture. -/
def tileConvert (x : Tag) (r : TileRec) (p : Split) (cap : Bool) (ws : List Word) : RunOut :=
  accConvert x r.fmt (fmtRm p) (fmtSat p) cap (fixedHeader r) ws

/-- The captured elements of a tile, as i × COLS + j. -/
def tileCaptured (x : Tag) (r : TileRec) (p : Split) : List Nat :=
  (List.range r.rows).flatMap (fun i => (tileRuns x r i).flatMap (fun y =>
    let c := tileConvert x r p true y.2
    ((List.range y.2.length).filter (fun l => (c.els.getD l (0, 0, false)).2.2)).map (fun l => i * r.cols + y.1 + l)))

/-- The bytes and flags of a row of a tile (DEDUCED, log entry 30). -/
def tileRow (x : Tag) (r : TileRec) (p : Split) (cap : Bool) (full : List Nat) (i : Nat) : List Byte × Flags :=
  let outs := (tileRuns x r i).map (fun y =>
    let c := tileConvert x r p cap y.2
    let c0 := tileConvert x r p false y.2
    let els := (List.range (if isDx r.fmt then 32 else y.2.length)).map (fun l => accElem c c0 (full.contains (i * r.cols + y.1 + l)) l)
    let bytes := if isDx r.fmt then leBytes (dxPack (dxM r.fmt) c.e0 c.e1 (els.map (·.1))) (dxBytes r.fmt)
      else els.flatMap (fun z => leBytes z.1 (elemBytes r.fmt))
    (bytes, (els.take y.2.length).foldl (fun f z => f ||| z.2) 0))
  (outs.flatMap (·.1), outs.foldl (fun f z => f ||| z.2) 0)

/-- The pieces of a tile: row, address, offset in the row, length. -/
def tilePieces (r : TileRec) : List (Nat × Nat × Nat × Nat) :=
  (List.range r.rows).flatMap (fun i =>
    let a := r.base + i * r.stride
    (piecesOf a (rowBytes r.fmt r.cols)).map (fun y => (i, y.1, y.1 - a, y.2)))

/-- Check addresses with their own alignment and view rule: number, address, alignment, whether an EXT page is refused (DEDUCED, log entry 30). -/
def checkEach (s : State) (P : Party) : List (Nat × Nat × Nat × Bool) → State × List (Nat × Nat × Finding)
  | [] => (s, [])
  | x :: r =>
    let c := checkOne s P .store x.2.2.2 true x.2.2.1 x.2.1
    let q := checkEach c.1 P r
    (q.1, (x.1, x.2.1, c.2) :: q.2)

/-- Store a tile's rows that are ready to a local region. -/
def storeTileLocal (i : Instr) (e : Bool) (b : Block) (ps : List (Nat × Nat × Nat × Nat)) (data : Nat → List Byte) (s : State)
    (g : Group) (p : Split) : Result :=
  let lanes := ps.mapIdx (fun n y => (64 + n, y.2.1))
  match localTrap s b false 1 lanes with
  | some (c, _, a) => trapHere s g p (.mk' c p.active (BitVec.ofNat 64 a))
  | none =>
    match ownLanes s b lanes with
    | (s1, x :: _) => trapHere s1 g p (.mk' 0x0D p.active (BitVec.ofNat 64 x.2))
    | (s1, []) =>
      let entries := ps.mapIdx (fun n y =>
        { seq := s1.seq, after := pastOf g p, place := .pool ((keyAt s1 b y.2.1).getD 0), scope := .blk, bytes := data n, view := 0,
          held := pinned s1 (.pool ((keyAt s1 b y.2.1).getD 0)) (data n).length : BufStore })
      retire i e s1 g { p with buffer := p.buffer ++ entries, past := pastOf g p ++ [s1.seq] }

/-- ACCST (R233, R234): nothing is stored until every byte has passed its check (DEDUCED, log entry 30). -/
def execAccst (e : Bool) (t q : BitVec 5) (s : State) : Result :=
  let ins := Instr.accst e t q
  withIssuer s (fun g p =>
    ifLegal (q.toNat % 4 == 0 && decide (q.toNat ≤ 24)) s g p
      (if faultsLeft s g p then .next s
       else
         withTag s g p t.toNat (fun b x =>
           let r := tileRec g q.toNat
           if !(tileOk r 9 && decide (r.rows ≤ bankRows x.fuse) && decide (r.cols ≤ bankCols x.fuse)) then trapCode s g p 0x09
           else
             afterWaves s g p x t.toNat true (fun s =>
               let P := s.party g
                let cap := fmtOutcap p && r.outpair != 0
                let list := (readReg g (111 + 2 * r.outpair) 0 ++ readReg g (110 + 2 * r.outpair) 0).toNat
                let ps := tilePieces r
                let todo := List.range ps.length
                let ask : List (Nat × Nat × Nat × Bool) :=
                  (if r.isLocal then [] else todo.map (fun n => (64 + n, (ps.getD n (0, 0, 0, 0)).2.1, 1, false))) ++
                    (if cap then [(63, list, 16, true)] else [])
                let c := checkEach s P ask
                let here := if r.isLocal then localTrap c.1 b false 1 (todo.map (fun n => (64 + n, (ps.getD n (0, 0, 0, 0)).2.1))) else none
                match here <|> findingTrap c.2 with
                | some (code, _, va) => again c.1 g.gid p.idx (fun g p => trapHere c.1 g p (.mk' code p.active (BitVec.ofNat 64 va)))
                | none =>
                  if c.2.any (fun y => y.2.2 == .stall) then suspend c.1
                  else
                    let late := replayLanes c.2
                    if !late.isEmpty then .next (parkFault { c.1 with seq := c.1.seq + 1 } P g.gid p.idx true false late)
                    else
                      again c.1 g.gid p.idx (fun g p =>
                        withAppends c.1 g p list (fun n => BitVec.ofNat 32 n) (fun n => accRecord x (x.elem (n / r.cols) (n % r.cols)))
                          (if cap then tileCaptured x r p else []) (fun s2 g p full =>
                            let rows := (List.range r.rows).map (tileRow x r p cap full)
                            let fl := rows.foldl (fun f y => f ||| y.2) 0
                            let data (n : Nat) : List Byte :=
                              let y := ps.getD n (0, 0, 0, 0)
                              (((rows.getD y.1 ([], 0)).1).drop y.2.2.1).take y.2.2.2
                            let s3 := tagFlags s2 x fl
                            if r.isLocal then storeTileLocal ins e b ps data s3 g p
                            else
                              let oks := (okLanes c.2).filter (fun y => decide (64 ≤ y.1))
                              storeChecked ins e .dev P g p 64 (some p.active) (fun l => data (l - 64)) s3 oks []))))))

/-! ## MSTAT (R235) -/

def tagCode : TagState → Nat
  | .free => 0
  | .bound => 1
  | .frozen => 2
  | .killing => 3

def fuseCode : Fusion → Nat
  | .q => 0
  | .h => 1
  | .v => 2
  | .all => 3

/-- The status word of a tag, as a group of a block reads it. -/
def statusWord (s : State) (b : Block) (mode : Bool) (t : Nat) : Word :=
  let n := physTag b.core t
  let x := s.tag b.cluster (primaryTag s b.cluster n)
  if (s.quarter (4 * b.cluster + n / 8)).serves != (s.partyOf b).part then 0
  else
    let own := x.st != .free && x.owner == b.bid
    let open_ := tagCode x.st + 2 ^ 30 * fuseCode x.fuse
    if !mode && !own && x.st != .free then BitVec.ofNat 32 open_
    else
      BitVec.ofNat 32
        (open_ + 2 ^ 2 * x.void.toNat + 2 ^ 3 * own.toNat + 2 ^ 4 * x.flags.toNat + 2 ^ 9 * (!x.queue.isEmpty).toNat +
          2 ^ 10 * min 63 (x.inflight.length + openLeft x) + 2 ^ 16 * x.vcount + 2 ^ 24 * x.vcause.toNat)

/-- MSTAT (R235): `x` is the trapping form, which waits on a FROZEN tag too for every accepted wave (R228). -/
def execMstat (e : Bool) (t d : BitVec 5) (x : Bool) (s : State) : Result :=
  withIssuer s (fun g p =>
    ifLegal (decide (d.toNat < 30)) s g p
      (let fin : Result :=
        match s.block? g.bid with
        | none => trapHere s g p (.mk' 0x0B p.active (BitVec.ofNat 64 t.toNat))
        | some b =>
          let part : LaneResult :=
            { lane := lowest p.active, dests := [uniHome g.mode (96 + d.toNat)], vals := [statusWord s b g.mode t.toNat], load := none,
              sext := false, scope := .blk, flags := 0 }
          let q := addPending s g p 0 (regRange (96 + d.toNat) 1) [part]
          retire (.mstat e t d x) e s q.1 q.2
       if x then
         withTag s g p t.toNat (fun _ y => if !y.void then fin else if allEnded y then matrixWave s g p y t.toNat else suspend s)
       else fin))

end Sys2Proof.Machine
end

