-- ==== Sys2Proof/Machine/SaveArea.lean ====
section
/-! DEFINITION. The save region: what the hardware writes into it and reads back (19_traps_preemption_debug.md R347 to R351; 21
R370). -/

namespace Sys2Proof.Machine

/-! ## Pieces -/

/-- Bytes at an address, as pieces of one sector each. -/
def asPieces (a : Nat) (bs : List Byte) : List (Nat × List Byte) := (piecesOf a bs.length).map (fun x => (x.1, (bs.drop (x.1 - a)).take x.2))

/-- Pad bytes with zeros to a length. -/
def padTo (n : Nat) (bs : List Byte) : List Byte := bs ++ List.replicate (n - bs.length) 0

/-- The party through which the hardware writes a block's region: view 0 of its ASID (DEDUCED, log entry 32). -/
def saveParty (s : State) (b : Block) : Party := { s.partyOf b with view := 0 }

/-- The party that reads a block's region for the hardware: in the block's view, where its routine has written (R242, R254, R351, R352) (DEDUCED, log entry 32). -/
def regionParty (s : State) (b : Block) : Party := s.partyOf b

/-! ## Split records and stacks (R349) -/

/-- STATE of a split record: STOP only for a split that the debugger stopped. -/
def recordState (p : Split) : Nat :=
  match p.st with
  | .fault => 2
  | .join => 8
  | .stop => 9
  | _ => if p.stopReq then 9 else 0

/-- The 32 bytes of a split's record. -/
def splitBytes (p : Split) : List Byte :=
  padTo 32 (leBytes p.pc.toNat 8 ++ leBytes p.active.toNat 4 ++ leBytes p.fmt.toNat 4 ++ leBytes p.sig.toNat 4 ++
    leBytes (recordState p) 1 ++ leBytes p.depth 1 ++ leBytes 0 2 ++ leBytes (if p.st == .fault then p.fmask.toNat else 0) 4)

/-- The record of an unused index. -/
def unusedBytes : List Byte := padTo 32 (List.replicate 20 0 ++ [0xFF])

/-- The 32 bytes of a stack entry. -/
def entryBytes (x : StackEntry) : List Byte :=
  leBytes (x.jpc.toNat + 2 ^ 56 * x.id.toNat) 8 ++ leBytes x.ppc.toNat 8 ++ leBytes x.mask.toNat 4 ++ leBytes x.pmask.toNat 4 ++
    leBytes x.fmt.toNat 4 ++ leBytes x.sig.toNat 4

/-- The reserved bytes of a group area, and those of registers the group does not have (R348). -/
def reservedZeros (g : Group) (base : Nat) : List (Nat × List Byte) :=
  [(0x18, 0x80), (0x178, 0x180), (0x19C, 0x200), (0x280, 0x400), (0xC00 + 128 * g.count, 0x4000)].flatMap (fun x =>
    asPieces (base + x.1) (List.replicate (x.2 - x.1) 0))

/-- What the hardware writes into a group area at `base` (R348). -/
def groupHardware (g : Group) (base : Nat) : List (Nat × List Byte) :=
  asPieces base (leBytes 1 4) ++ reservedZeros g base ++
  (List.range 4).flatMap (fun i =>
    match g.split? i with
    | some p =>
      asPieces (base + 0x80 + 32 * i) (splitBytes p) ++
        asPieces (base + 0x400 + 0x200 * i) ((List.range 16).flatMap (fun e => entryBytes (p.entry e)))
    | none =>
      asPieces (base + 0x80 + 32 * i) unusedBytes ++ asPieces (base + 0x400 + 0x200 * i) (List.replicate 0x200 0))

/-- A whole group area, as a checkpoint's shadow holds it (R370). -/
def groupImage (g : Group) (base : Nat) : List (Nat × List Byte) :=
  groupHardware g base ++
  asPieces (base + 4) (leBytes g.count 4 ++ leBytes g.fcsr.toNat 4 ++ leBytes g.replays.toNat 4 ++ leBytes g.gang.toNat 8) ++
  asPieces (base + 0x100) ((List.range 30).flatMap (fun j => leBytes (sget g.s j).toNat 4)) ++
  asPieces (base + 0x180) ((List.range 7).flatMap (fun j => leBytes (sget g.p j).toNat 4)) ++
  asPieces (base + 0x200) ((List.range 32).flatMap (fun l => leBytes (sget g.fflags l).toNat 4)) ++
  asPieces (base + 0xC00) ((List.range (32 * g.count)).flatMap (fun k => leBytes (sget g.v k).toNat 4))

/-! ## Tile records and tags (R220, R350) -/

/-- A tile record in its register layout. -/
def tileBytes (r : TileRec) : List Byte :=
  leBytes (r.base % 2 ^ 32) 4 ++ leBytes (r.base / 2 ^ 32 + 2 ^ 16 * r.dxhdr.toNat) 4 ++ leBytes (r.rows + 2 ^ 16 * r.cols) 4 ++
    leBytes (r.stride + 2 ^ 24 * r.fmt + 2 ^ 28 * r.isLocal.toNat + 2 ^ 29 * r.outpair) 4

def tileOfBytes (bs : List Byte) : TileRec :=
  { base := field bs 0 4 + 2 ^ 32 * field bs 4 2, dxhdr := BitVec.ofNat 16 (field bs 6 2), rows := field bs 8 2, cols := field bs 10 2,
    stride := field bs 12 3, fmt := field bs 15 1 % 16, isLocal := field bs 15 1 / 16 % 2 == 1, outpair := field bs 15 1 / 32 }

/-- A queued MMA's records from its first wave that is not admitted (R350). -/
def mmaRest (m : Mma) : TileRec × TileRec :=
  let k := m.admitK
  let step := if isDx m.a.fmt then k / 32 * dxBytes m.a.fmt else k * elemBytes m.a.fmt
  ({ m.a with base := m.a.base + step, cols := m.a.cols - k }, { m.b with base := m.b.base + k * m.b.stride, rows := m.b.rows - k })

/-- The tags of a block in the order of their slots. -/
def blockTags (s : State) (b : Block) : List Tag :=
  (List.range 8).filterMap (fun t =>
    let x := s.tag b.cluster (physTag b.core t)
    if (x.st == .bound || x.st == .frozen) && !x.member && x.owner == b.bid then some x else none)

/-- The 256 bytes of tag entry `i`. -/
def tagBytes (i : Nat) (x : Tag) : List Byte :=
  padTo 256
    (leBytes (x.p % 8 + 2 ^ 3 * fuseCode x.fuse + 2 ^ 5 * (!(x.thawing || x.st == .bound)).toNat + 2 ^ 6 * x.void.toNat + 2 ^ 7 * x.flags.toNat + 2 ^ 12 * x.vcount +
        2 ^ 20 * x.vcause.toNat) 4 ++
      leBytes (x.afmt.toNat + 2 ^ 4 * x.bfmt.toNat + 2 ^ 8 * x.acc.toNat + 2 ^ 10 * x.queue.length) 4 ++ leBytes x.vk.toNat 4 ++
      leBytes (0x84000 + 0x10000 * i) 4 ++
      x.queue.flatMap (fun m => tileBytes (mmaRest m).1 ++ tileBytes (mmaRest m).2))

/-! ## The block area (R350) -/

/-- The allocations that a block's save holds: its own, and for member 0 its cohort's. -/
def savedAllocs (s : State) (b : Block) : List Alloc := s.mm.allocs.filter (fun a => mine b a && (!a.cohortOwned || b.member == 0))

/-- Allocations with the offsets of their images. -/
def withOffsets : List Alloc → Nat → List (Alloc × Nat)
  | [], _ => []
  | a :: r, o => (a, o) :: withOffsets r ((o + a.size + ((a.segs.length + 7) / 8 + 63) / 64 * 64 + 511) / 512 * 512)

/-- The 16 bytes of an allocation entry. -/
def allocBytes (s : State) (keep : Bool) (x : Alloc × Nat) : List Byte :=
  let old := x.1.segs.any (fun g => decide (x.1.life * ageMicro ≤ lookupD s.mm.segAge g))
  leBytes x.1.base 4 ++ leBytes x.1.size 4 ++ leBytes x.1.life 1 ++ leBytes (x.1.cohortOwned.toNat + 2 * keep.toNat + 4 * old.toNat) 1 ++
    leBytes 0 2 ++ leBytes (if keep then 0 else x.2) 4

/-- The block area of a save that begins now, with VALID. -/
def blockArea (s : State) (b : Block) (keep : Bool) : List Byte :=
  let al := withOffsets (savedAllocs s b) 0x104000
  let tags := blockTags s b
  let seq := ((s.launch? b.lid).map (·.seq)).getD 0
  padTo 0x100
    (leBytes (1 + 2 * keep.toNat) 4 ++ leBytes (al.length + 2 ^ 8 * tags.length) 4 ++ leBytes s.clock 8 ++ leBytes seq.toNat 8 ++
      leBytes b.index.toNat 4 ++ leBytes (b.cluster + 2 ^ 7 * b.core) 4) ++
  padTo 0x800 (al.flatMap (allocBytes s keep)) ++
  (tags.mapIdx (fun i x => tagBytes i x)).flatten

/-- Everything the hardware writes for a save of a block, of whose groups `gs` are on its core: the area of an evicted one is written. -/
def savePieces (s : State) (b : Block) (gs : List Group) (keep : Bool) : List (Nat × List Byte) :=
  gs.flatMap (fun g => groupHardware g (groupArea b.saveBase g.index)) ++
    asPieces b.saveBase (blockArea s b keep)

/-- Everything a checkpoint writes into shadow copy `c` before its claim: VALID is not set yet (R370). -/
def shadowPieces (s : State) (b : Block) (gs : List Group) (c : Nat) : List (Nat × List Byte) :=
  let base := shadowBase b c
  gs.flatMap (fun g => groupImage g (groupArea base g.index)) ++
    ((blockTags s b).mapIdx (fun i x =>
      (List.range (bankRows x.fuse)).flatMap (fun r =>
        asPieces (base + 0x84000 + 0x10000 * i + 4 * r * bankCols x.fuse)
          ((List.range (bankCols x.fuse)).flatMap (fun j => leBytes (x.elem r j).toNat 4))))).flatten ++
    asPieces base (leBytes 0 4) ++ asPieces (base + 4) ((blockArea s b false).drop 4)

/-! ## Reading the region back (R351) -/

/-- An allocation entry read back: the allocation without segments, KEPT, and the offset of its image. -/
def allocOfBytes (b : Block) (bs : List Byte) : Alloc × Bool × Nat :=
  ({ cohortOwned := field bs 9 1 % 2 == 1, owner := if field bs 9 1 % 2 == 1 then (if b.forkRec.isSome then rivalKey b else cohortKey b) else b.bid, cluster := b.cluster,
     base := field bs 0 4, size := field bs 4 4, life := field bs 8 1, segs := [] }, field bs 9 1 / 2 % 2 == 1, field bs 12 4)

/-- The fusion of a code. -/
def fuseOf (n : Nat) : Fusion := if n = 0 then .q else if n = 1 then .h else if n = 2 then .v else .all

/-- A tag entry read back: slot, fusion, UFROZEN, and the tag FROZEN with its queue (R351). -/
def tagOfBytes (s : State) (b : Block) (prio : Nat) (bs : List Byte) : Tag :=
  let h := field bs 0 4
  let f := field bs 4 4
  let p := physTag b.core (h % 8)
  let P := s.partyOf b
  { Tag.atReset b.cluster p with
    st := .frozen, owner := b.bid, fuse := fuseOf (h / 8 % 4), afmt := BitVec.ofNat 4 f, bfmt := BitVec.ofNat 4 (f / 2 ^ 4), acc := BitVec.ofNat 2 (f / 2 ^ 8),
    weight := prio, flags := BitVec.ofNat 5 (h / 2 ^ 7), void := h / 2 ^ 6 % 2 == 1, vk := BitVec.ofNat 32 (field bs 8 4),
    vcause := BitVec.ofNat 6 (h / 2 ^ 20), vcount := h / 2 ^ 12 % 256, thawing := h / 2 ^ 5 % 2 == 0,
    queue := (List.range (f / 2 ^ 10 % 8)).map (fun q =>
      { no := s.nextId + q, a := tileOfBytes ((bs.drop (0x10 + 32 * q)).take 16), b := tileOfBytes ((bs.drop (0x20 + 32 * q)).take 16), asid := P.asid,
        view := P.view, bid := b.bid, latchK := 0, admitK := 0, voided := [], met := [], failed := [], opened := 0 }) }

end Sys2Proof.Machine
end

