-- ==== Sys2Proof/Machine/Commit.lean ====
section
/-! DEFINITION. Commits of views: verifying, storing, the release and the outbox (11_views.md R248, R249, R252; 21 R368). -/

namespace Sys2Proof.Machine

/-! ## What a commit works on -/

/-- The sectors in which a view has written bytes. -/
def written (s : State) (v : Nat) : List ViewSector := s.mm.sectors.filter (fun x => x.view == v && !x.dead && x.mask != 0)

/-- Clean every line of a view to its sector (R368). -/
def cleanView (s : State) (b : Block) (v : Nat) : State :=
  let P := s.partyOf b
  let s1 := (s.mm.l1.filter (fun x => x.view == v && x.dirty != 0)).foldl (fun s x =>
    (cleanL1 s { P with cluster := x.cluster, core := x.core, asid := x.asid, view := v } x true).1) s
  (s1.mm.l2.filter (fun x => x.view == v && x.dirty != 0)).foldl (fun s x => (cleanL2 s x).1) s1

/-- The first sector of a view that fails its check: one whose bytes were lost before they reached it among them, and one whose flit failed
(R368, R371, R373). -/
def badSector (s : State) (v : Nat) : Option ViewSector :=
  s.mm.sectors.find? (fun x => x.view == v && !x.dead && (x.bad || flitFails s (64 * x.pa)))

/-- The verify pass of a block's commit has met a failed sector: an abort completion, whose record says that the commit is refused (R368, R372, R379,
R392). -/
def refuseCommit (s : State) (b : Block) (x : ViewSector) : State :=
  let P := s.partyOf b
  let u := failedUnit s x.view (64 * x.pa)
  partyError (clearFlit (s.count 0x42 P.tenancy 1) (64 * x.pa)) P u 10 0x11 (64 * x.pa) (some (64 * x.va, P.asid % 4096))

/-- A dirty line of a view holds bytes whose clean must wait (R226, R273). -/
def viewCleanHeld (s : State) (v : Nat) : Bool :=
  s.mm.l1.any (fun x => x.view == v && x.dirty != 0 && cleanHeld s x.pa) || s.mm.l2.any (fun x => x.view == v && x.dirty != 0 && cleanHeld s x.pa)

/-- A byte of the view cannot be stored now: it is pinned, an engine owns its line, or its page is moving. -/
def commitHeld (s : State) (asid v : Nat) : Bool :=
  (written s v).any (fun x => pinned s (.global (64 * x.pa) 0 0 4096) 64 || lineOwned s (64 * x.pa) || pageMoving s asid (64 * x.va))

/-- Every access that a block's groups issued is performed, as far as nothing holds it: results have returned and buffers are
empty. -/
def quietStep (s : State) (bid : Nat) : State :=
  (s.groupsOf bid).foldl (fun s g =>
    let s1 := drainGroup s g.gid
    (List.range 4).foldl (fun s i => performBuffer s g.gid i) s1) s

/-- Nothing of a block's groups is outstanding or buffered. -/
def isQuiet (s : State) (bid : Nat) : Bool := (s.groupsOf bid).all (fun g => g.pending.isEmpty && (groupBuffer g).isEmpty)

/-! ## The store pass (R368) -/

/-- The wider of two scopes. -/
def wider (a b : Scope) : Scope := if a.code.toNat ≤ b.code.toNat then b else a

/-- The store of a sector meets an uncorrectable error in committed memory that it does not cover, no key, or a flit that failed. -/
def sectorUnstorable (s : State) (t : Nat) (x : ViewSector) : Bool :=
  (keyOf s t).isNone || flitFails s (64 * x.pa) || (sectorFails s (64 * x.pa) && x.mask != BitVec.allOnes 64)

/-- Store one sector's masked bytes into the parent, their writers with them; into view 0 past the block's own copies, whose older bytes they
replace (R276, R368, R373). -/
def commitSector (s : State) (P : Party) (parent : Nat) (x : ViewSector) : State :=
  if parent = 0 then
    if sectorUnstorable s P.tenancy x then s
    else
      let s1 :=
        if x.mask == BitVec.allOnes 64 then dramWrite s P.tenancy (64 * x.pa) (sectorBytes x.data 0 64)
        else (dirtyBytes x.data x.mask).foldl (fun s y => dramWrite s P.tenancy (64 * x.pa + y.1) [y.2]) s
      mergeCopies (moveWriters s1 x.view 0 x.pa (x.mask == BitVec.allOnes 64)) { P with view := 0 } (64 * x.pa) x.data x.mask
  else
    let s1 := moveWriters s x.view parent x.pa (x.mask == BitVec.allOnes 64)
    match s1.viewSector? parent x.pa with
    | some y =>
      let y' := { y with data := mergeSector y.data x.data x.mask, mask := y.mask ||| x.mask, scope := wider y.scope x.scope,
                         bad := y.bad && x.mask != BitVec.allOnes 64 }
      wakeSector { s1 with mm := { s1.mm with sectors := s1.mm.sectors.map (fun z => if z == y then y' else z) } } parent x.pa
    | none => wakeSector { s1 with mm := { s1.mm with sectors := s1.mm.sectors ++ [{ x with view := parent }] } } parent x.pa

/-- Stores of a commit that failed are reported as a store error of the block's lowest split, each with its abort's record (R176, R379) (DEDUCED, log
entry 25). -/
def noteStores (s : State) (b : Block) (xs : List ViewSector) : State :=
  let s1 := xs.foldl (fun s x => abortTo s { s.partyOf b with view := 0 } (64 * x.pa) (64 * x.va) 1) s
  match (s1.groupsOf b.bid).find? Group.alive with
  | none => s1
  | some g =>
    match g.splits with
    | [] => s1
    | p :: _ => s1.mapSplit g.gid p.idx (fun q => { q with storeErrs := q.storeErrs ++ xs.map (fun x => (64 * x.pa, x.scope)) })

/-- The outbox entries of a view. -/
def outboxOf (s : State) (v : Nat) : List OutboxEntry := ((s.view? v).map (·.outbox)).getD []

/-- Change a view's record. -/
def State.mapView (s : State) (v : Nat) (f : View → View) : State :=
  { s with mm := { s.mm with views := updWhere (fun x => x.id == v) f s.mm.views } }

/-- Store every sector into the parent, drop the view's lines and sectors, and hand the outbox to a parent view. The view keeps the
tick that its release waits for (R248, R252, R368) (DEDUCED, log entry 25). -/
def commitStore (s : State) (b : Block) (v parent : Nat) : State :=
  let t := (s.partyOf b).tenancy
  let xs := written s v
  let g := xs.foldl (fun m x => max m (leaseGwct s (64 * x.pa))) s.clock
  let s1 := { s with mm := { s.mm with sectors := s.mm.sectors.filter (fun x => !(x.view == v && !x.dead)) } }
  let s2 := xs.foldl (fun s x => commitSector s (s.partyOf b) parent x) s1
  let s3 := if parent = 0 then noteStores s2 b (xs.filter (sectorUnstorable s t)) else s2
  let s4 := dropViewLines s3 v
  let s5 := if parent = 0 then s4 else (outboxOf s4 v).foldl (fun s e => outboxPush s parent e) s4
  s5.mapView v (fun x => { x with commit := some g, outbox := if parent = 0 then x.outbox else [] })

/-! ## The outbox at commit (R252) -/

/-- Perform an EXT store of an outbox: its address translates, and its store is performed, as they would at an STG of the block in view 0; what it
returns raises the tick that later releases wait for (R174, R252, R264, R384) (DEDUCED, log entry 25). -/
def performOutboxStore (s : State) (P : Party) (v va : Nat) (bs : List Byte) : State × FeEnd :=
  match translate s P va .store with
  | (s1, .ok l) =>
    if pageMoving s1 P.asid va || heldLine s1 (.global l.pa va l.attr l.size) || pinned s1 (.global l.pa va l.attr l.size) bs.length then (s1, .wait)
    else if storeFails s1 P (.global l.pa va l.attr l.size) bs.length then (abortTo s1 P l.pa va 7, .failed)
    else
      let r := performStore s1 P va l.pa l.attr .sys bs
      (r.1.mapView v (fun x => { x with commit := some (max r.2 (x.commit.getD 0)) }), .ok [])
  | (s1, .replay) => (deliverFault s1 P va true false false 0 0 0, .wait)
  | (s1, .stall) => (s1, .wait)
  | (s1, _) => (s1, .failed)

/-- Perform one entry of a view's outbox under its own instruction's rules, for the block that commits (R252). -/
def performOutboxOp (s : State) (b : Block) (v : Nat) (op : OutboxOp) : State × FeEnd :=
  let P := { s.partyOf b with view := 0 }
  let q := s.queueOfBlock b
  match op with
  | .send code payload who =>
    postEvent s q.q (recordBytes code.toNat payload.toNat (((s.launch? b.lid).map (·.seq)).getD 0) b.index.toNat who.toNat s.clock)
  | .launch addr len =>
    if addr % 64 != 0 || 256 < len then (s, .failed) else
    match partyReads P addr (len / 64) s with
    | (s1, .ok bs) => if childOk s1 P.tenancy len bs then (postChild s1 q.q bs, .ok []) else (s1, .failed)
    | r => r
  | .ext _ va _ bs => performOutboxStore s P v va bs
  | .release =>
    match s.launch? b.lid with
    | some l => (releaseStage s l b.index.toNat, .ok [])
    | none => (s, .ok [])

/-- Take the first entry of a view's outbox away. -/
def popOutbox (s : State) (v : Nat) : State := s.mapView v (fun x => { x with outbox := x.outbox.drop 1 })

/-- The tick that a commit's releases wait for: that of its store pass, and of the EXT stores of its outbox performed so far. -/
def commitTick (s : State) (v : Nat) : Nat := ((s.view? v).bind (·.commit)).getD 0

/-- An entry other than a store contains a release, which waits for every store before it (R215, R216, R252). -/
def outboxWaits (s : State) (v : Nat) (op : OutboxOp) : Bool :=
  match op with
  | .ext _ _ _ _ => false
  | _ => decide (s.clock < commitTick s v)

/-- Perform the entries of an outbox in order: whether all are gone. A failing entry is dropped with an error record. -/
def performOutbox (b : Block) (v : Nat) : List OutboxEntry → State → State × Bool
  | [], s => (s, true)
  | e :: r, s =>
    if outboxWaits s v e.op then (s, false)
    else
      match performOutboxOp s b v e.op with
      | (s1, .ok _) => performOutbox b v r (popOutbox s1 v)
      | (s1, .wait) => (s1, false)
      | (s1, .failed) => performOutbox b v r (popOutbox (blockError s1 b 9 1 7 0 0) v)

/-- A view's record ends. Its identifier stays held while dead sectors carry it (R366). -/
def closeView (s : State) (v : Nat) : State :=
  { s with mm :=
    { s.mm with
      views := s.mm.views.filter (fun x => x.id != v)
      heldIds := if s.mm.sectors.any (fun x => x.view == v) then v :: s.mm.heldIds else s.mm.heldIds } }

/-- Go on with a commit after its claim: the store pass, the release at the largest completion time, the outbox, and the end of
the view. The flag says that it is done. -/
def advanceCommit (s : State) (b : Block) (v : Nat) : State × Bool :=
  match s.view? v with
  | none => (s, true)
  | some x =>
    let s1 := if x.commit.isNone then commitStore s b v x.parent else s
    if s1.clock < commitTick s1 v then (s1, false)
    else
      match performOutbox b v (outboxOf s1 v) s1 with
      | (s2, true) => (closeView s2 v, true)
      | r => r

/-! ## Before the claim -/

/-- How the verify pass ends. -/
inductive VerifyEnd where
  | ready | wait
  | bad (x : ViewSector)
deriving DecidableEq, Repr

/-- Make the block quiet, clean its lines and verify its sectors (R248, R368). -/
def verifyView (s : State) (b : Block) (v : Nat) : State × VerifyEnd :=
  let s1 := quietStep s b.bid
  if !isQuiet s1 b.bid || viewCleanHeld s1 v then (s1, .wait)
  else
    let s2 := cleanView s1 b v
    match badSector s2 v with
    | some x => (s2, .bad x)
    | none => (s2, if commitHeld s2 (s2.partyOf b).asid v then .wait else .ready)

/-- Raise a cause at parked splits, each at its own instruction; the first may bring a rollback or an abort in place of the trap. -/
def raiseAll (s : State) (code addr : Nat) (contain : Bool) (ps : List (Nat × Nat)) : State :=
  ps.foldl (fun s x =>
    match s.split? x.1 x.2 with
    | some (_, q) =>
      if q.park == .none then s
      else raiseReleased s x.1 x.2 code addr contain
    | none => s) s

end Sys2Proof.Machine
end

