-- ==== Sys2Proof/Machine/Barrier.lean ====
section
/-! DEFINITION. Block and cohort barriers, checkpoints, and VCOMMIT (09_control_sync_system.md R197, R198; 11_views.md R256, R258,
R260; 21 R370). Barrier numbers: 0..15 BAR, 16 CBAR, 17 VCOMMIT. -/

namespace Sys2Proof.Machine

/-! ## Who has arrived (R197, R198) -/

/-- The blocks that a barrier spans: the block, or its cohort. -/
def barrierBlocks (s : State) (b : Block) (n : Nat) : List Block :=
  if n = 16 then s.fe.blocks.filter (fun x => x.lid == b.lid && x.cohort == b.cohort && x.st != .ended) else [b]

/-- The groups of blocks. -/
def groupsOfAll (s : State) (bs : List Block) : List Group := bs.flatMap (fun b => s.groupsOf b.bid)

/-- The splits parked at barrier `n`: group and index. -/
def parkedAt (gs : List Group) (n : Nat) : List (Nat × Nat) :=
  gs.flatMap (fun g => (g.splits.filter (fun q => q.park == .barrier n)).map (fun q => (g.gid, q.idx)))

/-- Every live lane of a group is in a split parked at barrier `n`. -/
def groupArrived (g : Group) (n : Nat) : Bool :=
  g.live &&& ~~~((g.splits.filter (fun q => q.park == .barrier n)).foldl (fun m q => m ||| q.active) 0) == 0

/-- Every group with a live lane has arrived; a block that is not on its cores, or has a group evicted, has not. -/
def barrierMet (s : State) (bs : List Block) (n : Nat) : Bool :=
  bs.all (fun b => b.st == .running && b.evict.isEmpty) && (groupsOfAll s bs).all (fun g => !g.alive || groupArrived g n)

/-- Every parked split goes on. -/
def releaseParked (s : State) (ps : List (Nat × Nat)) : State := ps.foldl (fun s x => releaseSplit s x.1 x.2) s

/-- A view of the block has been committed: its splits' loads are served by no copy filled before (R268, R274). -/
def remark (s : State) (bid : Nat) : State :=
  { s.mapGroups (fun g => if g.bid == bid then g.mapSplits (fun q => { q with scClu := s.seq, scDev := s.seq }) else g) with seq := s.seq + 1 }

/-! ## Checkpoints (R256, R370) -/

/-- The block's copy requests are finished, and every wave of its tags has ended. -/
def enginesIdle (s : State) (b : Block) : Bool :=
  !s.en.copies.any (fun c => c.bid == b.bid) && (blockTags s b).all (fun t => drained t && t.queue.isEmpty)

/-- The image of a tag that a shadow keeps. -/
def tagImage (t : Tag) : TagImage :=
  { p := t.p, fuse := t.fuse, afmt := t.afmt, bfmt := t.bfmt, acc := t.acc, frozen := t.st == .frozen, flags := t.flags, bank := t.bank }

/-- What a checkpoint keeps of a block now (DEDUCED, log entry 35). -/
def takeShadow (s : State) (b : Block) (tags : Bool) : Shadow :=
  { cluster := b.cluster, core := b.core, groups := s.groupsOf b.bid, allocs := s.mm.allocs.filter (mine b),
    tags := if tags then (blockTags s b).map tagImage else [] }

/-- An error met by a commit at a barrier before its claim: it rolls the block back or aborts it, else it is MEM_ABORT at every
parked split (R257, R260, R368). -/
def commitError (s : State) (b : Block) (x : ViewSector) (ps : List (Nat × Nat)) : State :=
  raiseAll (refuseCommit s b x) 0x11 (64 * x.pa) true ps

/-- Write the shadow; then set its VALID and claim the interval view's commit in one step. The other copy's VALID is to be cleared (R370). -/
def claimCheckpoint (s : State) (b : Block) (ps : List (Nat × Nat)) : State :=
  let c := if b.shadowCopy = 0 then 1 else 0
  let gs := ((s.groupsOf b.bid).filter Group.alive).map resumed
  match partyWrites (saveParty s b) .dev (shadowPieces s b gs c) s with
  | (s1, .wait) => s1
  | (s1, .failed) => raiseAll s1 0x11 (shadowBase b c) true ps
  | (s1, .ok _) =>
    let s2 := (commitStore s1 b b.view 0).mapBlock b.bid (fun x => { x with shadow := some (takeShadow s1 b true), shadowCopy := c, staleCopy := true })
    (partyWrite s2 (saveParty s2 b) .dev (shadowBase b c) (leBytes 1 4)).1

/-- Clear the VALID of the shadow's other copy; an error there rolls the block back to the new checkpoint (R370). -/
def clearStale (s : State) (b : Block) (ps : List (Nat × Nat)) : State :=
  let done (s : State) : State := s.mapBlock b.bid (fun x => { x with staleCopy := false })
  match partyWrite s (saveParty s b) .dev (shadowBase b (1 - b.shadowCopy)) (leBytes 0 4) with
  | (s1, .wait) => s1
  | (s1, .ok _) => done s1
  | (s1, .failed) => raiseAll (done s1) 0x11 (shadowBase b (1 - b.shadowCopy)) true ps

/-- After a checkpoint's commit: a new interval view once an identifier is free, then the barrier's splits go on (R256). -/
def reopen (s : State) (b : Block) (ps : List (Nat × Nat)) : State :=
  match freeViewIds s with
  | [] => s
  | v :: _ => releaseParked ((openView (remark s b.bid) v 0 .interval).mapBlock b.bid (fun x => { x with view := v, rollbacks := 0 })) ps

/-- A checkpoint at a barrier that every group has reached, as far as it can go now (DEDUCED, log entry 35). -/
def checkpointStep (s : State) (b : Block) (ps : List (Nat × Nat)) : State :=
  if b.staleCopy then clearStale s b ps
  else if b.view = 0 then reopen s b ps
  else
    match (s.view? b.view).bind (·.commit) with
    | some _ =>
      match advanceCommit s b b.view with
      | (s1, true) => reopen (s1.mapBlock b.bid (fun x => { x with view := 0 })) b ps
      | (s1, false) => s1
    | none =>
      if !enginesIdle s b then s
      else
        match verifyView s b b.view with
        | (s1, .wait) => s1
        | (s1, .bad x) => commitError s1 b x ps
        | (s1, .ready) => claimCheckpoint s1 b ps

/-! ## The commit of an atomic block (R259, R260) -/

/-- Go on with the commit of an atomic block's view into view 0; the claim records the block complete. Done once its view is 0 (DEDUCED, log entry 35). -/
def commitAtomic (s : State) (b : Block) (ps : List (Nat × Nat)) : State :=
  match (s.view? b.view).bind (·.commit) with
  | some _ =>
    match advanceCommit s b b.view with
    | (s1, true) => s1.mapBlock b.bid (fun x => { x with view := 0 })
    | (s1, false) => s1
  | none =>
    if !enginesIdle s b then s
    else
      match verifyView s b b.view with
      | (s1, .wait) => s1
      | (s1, .bad x) => commitError s1 b x ps
      | (s1, .ready) =>
        let s2 := (commitStore s1 b b.view 0).mapBlock b.bid (fun x => { x with committed := true })
        match advanceCommit s2 b b.view with
        | (s3, true) => s3.mapBlock b.bid (fun x => { x with view := 0 })
        | (s3, false) => s3

/-! ## Completion -/

/-- The block takes checkpoints now: a resilient block outside a live FORK (R256). -/
def checkpoints (s : State) (b : Block) : Bool := s.modeOf b == 1 && b.forkRec.isNone

/-- Complete barrier `n` of a block where every group has arrived. -/
def tryBarrier (s : State) (bid n : Nat) : State :=
  match s.block? bid with
  | none => s
  | some b =>
    let bs := barrierBlocks s b n
    let ps := parkedAt (groupsOfAll s bs) n
    if ps.isEmpty || !barrierMet s bs n then s
    else if n != 16 && checkpoints s b then checkpointStep s b ps
    else if n = 17 && b.view != 0 then
      let s1 := commitAtomic s b ps
      match s1.block? bid with
      | some b1 => if b1.view = 0 && b1.committed then releaseParked (remark s1 bid) ps else s1
      | none => s1
    else releaseParked s ps

/-- Try every barrier of a block. -/
def tryBarriers (s : State) (bid : Nat) : State := (List.range 18).foldl (fun s n => tryBarrier s bid n) s

/-! ## Arriving -/

/-- BARRIER at an arriving split (R197): a sibling is parked at another barrier, or every live lane of the group is in BAR or JOIN
with one in JOIN. -/
def barrierClash (g : Group) (p : Split) (n : Nat) : Bool :=
  let others := g.splits.filter (fun q => q.idx != p.idx)
  let waits := others.filter (fun q => q.st == .bar || q.st == .join)
  others.any (fun q => match q.park with | .barrier m => m != n | _ => false) ||
    (g.live &&& ~~~(waits.foldl (fun m q => m ||| q.active) p.active) == 0 && others.any (fun q => q.st == .join))

/-- Arrive at barrier `n` after a fence of both parts at a scope. -/
def arrive (i : Instr) (e : Bool) (n : Nat) (sc : Scope) (s : State) (g : Group) (p : Split) : Result :=
  afterFence (fenceBoth s g.gid p.idx sc) g.gid p.idx (fun s1 g p =>
    if barrierClash g p n then trapHere s1 g p (.mk' 0x15 p.active (BitVec.ofNat 64 n))
    else .next (tryBarrier (parkTo i e .bar (.barrier n) (pcAfter i p) s1 g p) g.bid n))

/-- BAR (R197). -/
def execBar (e : Bool) (b : BitVec 4) (s : State) : Result :=
  withIssuer s (fun g p => arrive (.bar e b) e b.toNat .blk s g p)

/-- CBAR (R198, R254). -/
def execCbar (e : Bool) (s : State) : Result :=
  withIssuer s (fun g p => if inRival s g then viewState s g p else arrive (.cbar e) e 16 .clu s g p)

/-- VCOMMIT (R258, R260). -/
def execVcommit (e : Bool) (s : State) : Result :=
  withIssuer s (fun g p =>
    match s.block? g.bid with
    | none => viewState s g p
    | some b =>
      if b.forkRec.isNone && (s.modeOf b == 1 || (s.modeOf b == 2 && !b.committed)) then arrive (.vcommit e) e 17 .blk s g p
      else viewState s g p)

end Sys2Proof.Machine
end

