-- ==== Sys2Proof/Machine/Copy.lean ====
section
/-! DEFINITION. Copy requests: KICK, and the request engine's pieces, counts and stops (10_matrix_engine_instructions.md R238 to
R241; 12 R273; 13 R295). -/

namespace Sys2Proof.Machine

/-! ## Requests (R238, R239) -/

/-- The fields of a request's 32 bytes. -/
def copyFields (bs : List Byte) (r : CopyReq) : CopyReq :=
  let f (o n : Nat) : Nat := leNat ((bs.drop o).take n)
  let c := f 24 4
  { r with
    src := f 0 6, dst := f 8 6, rows := f 14 2, sstride := f 16 4, dstride := f 20 4, rowBytes := c % 2 ^ 24, cruise := c / 2 ^ 24 % 16,
    slocal := c / 2 ^ 28 % 2 == 1, dlocal := c / 2 ^ 29 % 2 == 1, bar := f 28 4 }

/-- Every field is as R238 allows. -/
def copyOk (bs : List Byte) (r : CopyReq) : Bool :=
  let f (o n : Nat) : Nat := leNat ((bs.drop o).take n)
  f 6 2 == 0 && r.rows != 0 && r.rowBytes != 0 && f 24 4 / 2 ^ 30 == 0 && decide (r.bar < 2 ^ 25) &&
    (!r.slocal || decide (r.src < 2 ^ 25)) && (!r.dlocal || decide (r.dst < 2 ^ 25)) && decide (r.rowBytes * r.rows < 2 ^ 32)

/-- The party of a request. -/
def copyParty (s : State) (r : CopyReq) : Party :=
  match s.block? r.bid with
  | some b => { s.partyOf b with cluster := r.cluster, core := r.core, asid := r.asid, view := r.view, engine := 4 }
  | none => { cluster := r.cluster, core := r.core, asid := r.asid, tenancy := 255, view := r.view, part := 63, bid := r.bid, engine := 4 }

/-- The launch sequence of a request's block. -/
def copyLaunch (s : State) (r : CopyReq) : DWord := (((s.block? r.bid).bind (fun b => s.launch? b.lid)).map (·.seq)).getD 0

/-- The first byte, in row order, that is not performed yet. -/
def copyPointer (r : CopyReq) : Nat × Nat :=
  let row := ((List.range r.rows).find? (fun i => ((r.done.filter (fun x => x.1 == i)).map (·.2.2)).sum < r.rowBytes)).getD 0
  let ps := r.done.filter (fun x => x.1 == row)
  let free (o : Nat) : Bool := !ps.any (fun x => decide (x.2.1 ≤ o) && decide (o < x.2.1 + x.2.2))
  (row, if free 0 then 0 else ((ps.map (fun x => x.2.1 + x.2.2)).filter free).foldl min r.rowBytes)

/-- Change a request. -/
def State.mapCopy (s : State) (id : Nat) (f : CopyReq → CopyReq) : State :=
  { s with en := { s.en with copies := s.en.copies.map (fun c => if c.id == id then f c else c) } }

/-- A request has met a replayable fault on a page; its data waits there where `data` says at which address (R295). -/
def CopyReq.meet (r : CopyReq) (page : Nat) (data : Option Nat) : CopyReq :=
  match r.met.find? (fun x => x.1 == page) with
  | some x => { r with met := (page, data <|> x.2) :: r.met.filter (fun y => y.1 != page) }
  | none => { r with met := (page, data) :: r.met }

/-- The cruise pass of a request over its source, then its destination (R240, R295). -/
def copyCruise (s : State) (r : CopyReq) : State :=
  if r.cruise = 0 then s
  else
    let P := copyParty s r
    let ptr := copyPointer r
    let rows := (List.range (r.rows - ptr.1)).map (fun k => (ptr.1 + k, if k = 0 then ptr.2 else 0))
    let addrs (loc : Bool) (base stride : Nat) (wr : Bool) : List (Nat × Bool) :=
      if loc then [] else rows.flatMap (fun x => (rangeAddrs (base + x.1 * stride + x.2) (r.rowBytes - x.2)).map (fun a => (a, wr)))
    let x := cruisePass P 1 (copyLaunch s r) r.failed (addrs r.slocal r.src r.sstride false) (r.cruise + 1) [] s
    let y := cruisePass P 1 (copyLaunch s r) r.failed (addrs r.dlocal r.dst r.dstride true) (r.cruise + 1) [] x.1
    y.1.mapCopy r.id (fun c => (x.2 ++ y.2).foldl (fun c p => c.meet p none) c)

/-- The requests of a core that are not finished. -/
def coreCopies (s : State) (b : Block) : Nat := (s.en.copies.filter (fun c => c.cluster == b.cluster && c.core == b.core)).length

/-- A core's kick register takes an address (R239). -/
def setKick (s : State) (b : Block) (w : Word) : State :=
  let core := 4 * b.cluster + b.core
  { s with en := { s.en with kicks := s.en.kicks.filter (fun x => x.1 != core) ++ (if w == 0 then [] else [(core, w)]) } }

/-- KICK (R239). -/
def execKick (e : Bool) (a : Src) (s : State) : Result :=
  withIssuer s (fun g p =>
    ifLegal (srcOk g a) s g p
      (let la := (uniVal g p a).toNat
       if inRival s g then viewState s g p
       else
         afterFence (releaseAt s g.gid p.idx .clu) g.gid p.idx (fun s0 g p =>
           match s0.block? g.bid with
           | none => trapHere s0 g p (.mk' 0x08 p.active (BitVec.ofNat 64 la))
           | some b =>
             let s1 := setKick s0 b (BitVec.ofNat 32 la)
             match localTrap s1 b true 32 [(lowest p.active, la)] with
             | some (c, _, x) => trapHere s1 g p (.mk' c p.active (BitVec.ofNat 64 x))
             | none =>
               let bs := poolRead s1 ((keyAt s1 b la).getD 0) 32
               let r := copyFields bs
                 { id := s1.nextId, cluster := b.cluster, core := b.core, bid := b.bid, asid := (s1.partyOf b).asid, view := b.view, src := 0, dst := 0,
                   rows := 0, sstride := 0, dstride := 0, rowBytes := 0, cruise := 0, slocal := false, dlocal := false, bar := 0, done := [], met := [], failed := [] }
               if !copyOk bs r then trapHere s1 g p (.mk' 0x02 p.active (BitVec.ofNat 64 la))
               else
                 match localTrap s1 b true 16 [(lowest p.active, r.bar)] with
                 | some (c, _, x) => trapHere s1 g p (.mk' c p.active (BitVec.ofNat 64 x))
                 | none =>
                   if !(readBarrier s1 ((keyAt s1 b r.bar).getD 0)).usable then barrierTrap s1 g p r.bar
                   else if 16 ≤ coreCopies s1 b then suspend s1
                   else
                     let s2 := copyCruise { s1 with nextId := s1.nextId + 1, en := { s1.en with copies := s1.en.copies ++ [r] } } r
                     again s2 g.gid p.idx (fun g p => retire (.kick e a) e s2 g p))))

/-! ## The end of a request -/

/-- A request is gone from the engine, with the lines it owned. -/
def dropCopy (s : State) (r : CopyReq) : State :=
  { s with
    en := { s.en with copies := s.en.copies.filter (fun c => c.id != r.id) }
    mm := { s.mm with owned := s.mm.owned.filter (fun x => x.2 != r.id) } }

/-- The scratch key of a request's object, in a segment the block owns. -/
def copyObject (s : State) (r : CopyReq) : State × Option Nat :=
  match s.block? r.bid with
  | none => (s, none)
  | some b => match ownAt s b r.bar with
    | some s1 => (s1, keyAt s1 b r.bar)
    | none => (s, none)

/-- A request stops: its object becomes invalid and its waiters raise BARRIER with the failing address (R241). A MEM_ABORT, whose record
stands, reaches a resilient or atomic block as R257 and R260 give (DEDUCED, log entry 64). -/
def stopCopy (s : State) (r : CopyReq) (code addr : Nat) : State :=
  let s1 := dropCopy s r
  match (s1.block? r.bid).bind (fun b => containment s1 (some b) (code == 0x11)) with
  | some s2 => s2
  | none =>
    match copyObject s1 r with
    | (s2, some key) =>
      let o := readBarrier s2 key
      trapWaiters (writeBarrier s2 key { o with flags := o.flags / 2 * 2 }) key 0x15 (fun _ => addr)
    | (s2, none) => s2

/-- Count arrived bytes down on a request's object (R202, R240). -/
def countDown (s : State) (r : CopyReq) (n : Nat) : State :=
  match copyObject s r with
  | (s1, none) => s1
  | (s1, some key) =>
    let o := readBarrier s1 key
    if o.bytes < n then writeBarrier s1 key { o with bytes := 0, flags := o.flags ||| 2 }
    else
      let s2 := writeBarrier s1 key { o with bytes := o.bytes - n }
      if o.bytes == n && o.arrive == 0 then completeObject s2 key else s2

/-! ## Pieces (R240, R273) -/

/-- The piece lies in the request, in one line of its destination and one page of its source, and no byte of it is performed yet (DEDUCED, log
entry 64). -/
def pieceOk (r : CopyReq) (row off len : Nat) : Bool :=
  decide (row < r.rows) && decide (0 < len) && decide (off + len ≤ r.rowBytes) &&
    decide ((r.dst + row * r.dstride + off) % 512 + len ≤ 512) && decide ((r.src + row * r.sstride + off) % 4096 + len ≤ 4096) &&
    r.done.all (fun x => !(x.1 == row && overlaps off len x.2.1 x.2.2))

/-- A piece is performed: recorded, counted, and the request finishes with its last byte. -/
def pieceDone (s : State) (r : CopyReq) (row off len : Nat) : State :=
  let r' := { r with done := r.done ++ [(row, off, len)] }
  let s0 := s.mapCopy r.id (fun _ => r')
  let s1 : State := { s0 with mm := { s0.mm with owned := s0.mm.owned.filter (fun x => x.2 != r.id) } }
  let s2 := if (r'.done.map (·.2.2)).sum = r.rows * r.rowBytes then dropCopy s1 r else copyCruise s1 r'
  countDown s2 r' len

/-- Write a piece to a local destination. -/
def writeLocal (s : State) (r : CopyReq) (la row off : Nat) (bs : List Byte) : State :=
  match s.block? r.bid with
  | none => s
  | some b =>
    match (piecesOf la bs.length).find? (fun x => (locate s b x.1).isNone) with
    | some x => stopCopy s r 0x08 x.1
    | none =>
      match ownLanes s b ((piecesOf la bs.length).map (fun x => (0, x.1))) with
      | (s1, x :: _) => stopCopy s1 r 0x0D x.2
      | (s1, []) =>
        let keys := piecesOf la bs.length
        if keys.any (fun x => pinned s1 (.pool ((keyAt s1 b x.1).getD 0)) x.2) then s1
        else
          let s2 := keys.foldl (fun s x =>
            { s with mm := { s.mm with scratch := ssetMany s.mm.scratch ((keyAt s1 b x.1).getD 0) ((bs.drop (x.1 - la)).take x.2) } }) s1
          pieceDone s2 r row off bs.length

/-- Check one sector of a piece: a line that the request owns already has passed, whatever page is moving (R277). -/
def checkDest (s : State) (r : CopyReq) (P : Party) (va : Nat) : State × Finding :=
  match translate s P va .store with
  | (s1, .ok l) => if s1.mm.owned.contains (lineOf l.pa, r.id) then (s1, .ok l) else checkOne s1 P .store true true 1 va
  | _ => checkOne s P .store true true 1 va

/-- Check every sector of a piece: the address and finding of the first that fails, else of the last. -/
def checkPieces (s : State) (r : CopyReq) (P : Party) : List (Nat × Nat) → State × Nat × Finding
  | [] => (s, 0, .stall)
  | [x] => let c := checkDest s r P x.1; (c.1, x.1, c.2)
  | x :: y =>
    match checkDest s r P x.1 with
    | (s1, .ok _) => checkPieces s1 r P y
    | (s1, f) => (s1, x.1, f)

/-- The dirty bytes of a line that the cluster's L2 holds for a party reach the home before the line is owned (R273). -/
def cleanLine (s : State) (P : Party) (pa : Nat) : State :=
  (s.mm.l2.filter (fun x => sameL2Line P pa x && x.dirty != 0)).foldl (fun s x => (cleanL2 s x).1) s

/-- A request's data has reached a page with a replayable fault: it waits for the answer (R293, R295). -/
def waitPage (s : State) (r : CopyReq) (P : Party) (va : Nat) (wr : Bool) : State :=
  (deliverFault s P va wr false false 1 0 (copyLaunch s r)).mapCopy r.id (fun c => c.meet (faultPage va) (some va))

/-- The ways in which a checked access stops a request. -/
def stopFinding (f : Finding) : Nat :=
  match f with
  | .access => 0x05
  | .external => 0x0E
  | .exhausted => 0x0D
  | .abort => 0x11
  | _ => 0x06

/-- Write a piece to a global destination: ownership of its line first, then, once every lease on it has ended, the bytes (DEDUCED, log entry 24). -/
def writeGlobal (s : State) (r : CopyReq) (P : Party) (va row off : Nat) (bs : List Byte) : State :=
  if !addrInRange va then stopCopy s r 0x05 va
  else if r.failed.contains (faultPage va) then stopCopy s r 0x06 va
  else if faultPending s r.asid va then waitPage s r P va true
  else
    let ps := piecesOf va bs.length
    match checkPieces s r P ps with
    | (s1, x, .ok l0) =>
      let l : Leaf := { l0 with pa := l0.pa - (x - va) }
      let sector (y : Nat × Nat) : Nat := l.pa + (y.1 - va)
      if l.attr == 2 then
        if extOk s1 P l.pa bs.length then pieceDone (extWrite s1 P.tenancy l.pa bs) r row off bs.length
        else stopCopy (abortTo s1 P l.pa va (abortAction s1 P)) r 0x11 va
      else if pinned s1 (.global l.pa va l.attr l.size) bs.length || ownedElse s1 r.id l.pa then s1
      else
        match ps.find? (fun y => storeFails s1 P (.global (sector y) y.1 l.attr l.size) y.2) with
        | some y => stopCopy (abortTo s1 P (sector y) y.1 (abortAction s1 P)) r 0x11 y.1
        | none =>
          let s2 := cleanLine s1 P l.pa
          let s3 := { s2 with mm := { s2.mm with owned := s2.mm.owned.filter (fun x => x.2 != r.id) ++ [(lineOf l.pa, r.id)] } }
          if s3.clock < leaseGwct s3 l.pa then s3
          else
            pieceDone (ps.foldl (fun s y => homeWrite s P.tenancy P.view y.1 (sector y) ((bs.drop (y.1 - va)).take y.2) .clu) s3) r row off bs.length
    | (s1, x, .replay) => waitPage s1 r P x true
    | (s1, _, .stall) => s1
    | (s1, x, f) => stopCopy s1 r (stopFinding f) x

/-- What the engine's action on one piece of a request brings about. -/
def actPiece (s : State) (r : CopyReq) (b : Block) (row off len : Nat) : State :=
  let P := copyParty s r
  let src := r.src + row * r.sstride + off
  let dst := r.dst + row * r.dstride + off
  if !r.slocal && r.failed.contains (faultPage src) then stopCopy s r 0x06 src
  else
    match readPieces s P b r.id r.slocal (piecesOf src len) with
    | (s1, .ok bs) => if r.dlocal then writeLocal s1 r dst row off bs else writeGlobal s1 r P dst row off bs
    | (s1, .void code va) => stopCopy s1 r code va
    | (s1, .fault va) => waitPage s1 r P va false
    | (s1, .wait) => s1

/-- The request goes on in a state: it has not stopped there, and waits at no page that it did not wait at before. -/
def goesOn (r : CopyReq) (t : State) : Bool :=
  match t.en.copies.find? (fun c => c.id == r.id) with
  | some c => c.met.all (fun x => x.2.isNone || r.met.contains x)
  | none => false

/-- The engine acts on one destination piece of a request. A piece ahead of the data pointer is performed only where nothing stops it or holds it at a
page: a cause is acted on, and a page's fault met, when all bytes before it have been copied (R240, R241, R295) (DEDUCED, log entry 64). -/
def execCopyPiecePerformed (req row off len : Nat) (s : State) : Result :=
  match s.en.copies.find? (fun c => c.id == req) with
  | none => .next s
  | some r =>
    if !pieceOk r row off len then .next s
    else
      match s.block? r.bid with
      | none => .next s
      | some b =>
        let t := actPiece s r b row off len
        .next (if copyPointer r == (row, off) || goesOn r t then t else s)

/-- A response reaches a request that has met its page. INVALID stops the request where its data waits there, and else where its data comes to the page
(R241, R294, R295). -/
def answerCopy (s : State) (r : CopyReq) (asid page : Nat) (invalid : Bool) : State :=
  match (if r.asid == asid then r.met.find? (fun x => x.1 == page) else none) with
  | none => s
  | some x =>
    let s1 := s.mapCopy r.id (fun c =>
      { c with met := c.met.filter (fun y => y.1 != page), failed := if invalid then c.failed ++ [page] else c.failed })
    match x.2 with
    | some va => if invalid then stopCopy s1 r 0x06 va else s1
    | none => s1

end Sys2Proof.Machine
end

