-- ==== Sys2Proof/Machine/Views.lean ====
section
/-! DEFINITION. FORK, CHOOSE, VABORT, VSTAT and the reclaim of dead sectors (11_views.md R246 to R254; 21 R366, R369). -/

namespace Sys2Proof.Machine

/-! ## Rendezvous -/

/-- The splits of a block that are parked as `f` says: group and index. -/
def parkedAs (s : State) (bid : Nat) (f : Park → Bool) : List (Nat × Nat) :=
  (s.groupsOf bid).flatMap (fun g => (g.splits.filter (fun q => f q.park)).map (fun q => (g.gid, q.idx)))

def isFork : Park → Bool
  | .fork _ => true
  | _ => false

def isChoose : Park → Bool
  | .choose => true
  | _ => false

/-- Every group with a live lane has a split parked as `f` says that holds every live lane. -/
def allParked (s : State) (b : Block) (f : Park → Bool) : Bool :=
  b.st == .running && b.evict.isEmpty &&
    (s.groupsOf b.bid).all (fun g => !g.alive || g.splits.any (fun q => f q.park && q.active == g.live)) &&
    (s.groupsOf b.bid).any Group.alive

/-! ## FORK (R246, R247) -/

/-- A snapshot's group: the split parked at FORK goes on after it. -/
def afterFork (g : Group) : Group :=
  g.mapSplits (fun q =>
    if isFork q.park then
      { q with pc := q.next, sig := q.nextSig, park := .none, st := .ready, phase := 0, fmask := 0, faddr := [], trapStep := false, frozen := false }
    else q)

/-- Number of rivals of a FORK word. -/
def forkCount (w : Word) : Nat := w.toNat / 2 ^ 21 % 8 + 1

/-- The blocks of cohort `k` of a launch: the last cohort may be short. -/
def cohortSize (l : Launch) (k : Nat) : Nat := min l.kernel.cohort (l.total - k * l.kernel.cohort)

/-- The conditions that FORK checks when its rendezvous completes. -/
def forkRefused (s : State) (b : Block) : Bool :=
  decide (4 ≤ ((s.view? b.view).map (·.depth)).getD 0) ||
    s.en.tags.any (fun t => (t.st == .bound || t.st == .frozen) && !t.member && t.owner == b.bid) ||
    s.en.copies.any (fun c => c.bid == b.bid) ||
    s.mm.pools.any (fun x => x.holder == some b.bid) ||
    decide (1 < ((s.launch? b.lid).map (fun l => cohortSize l b.cohort)).getD 1)

/-- The block's map as rival 0 holds it: cohort-owned allocations become the rival's own (R245) (DEDUCED, log entry 33). -/
def privatise (s : State) (b : Block) : State :=
  { s with mm := { s.mm with allocs := s.mm.allocs.map (fun a => if mine b a && a.cohortOwned then { a with owner := rivalKey b } else a) } }

/-- Create the rivals. -/
def forkNow (s : State) (b : Block) (w : Word) (pc : Pc) (ids : List Nat) (ps : List (Nat × Nat)) : State :=
  let rid := s.nextId
  let n := ids.length
  let j : BitVec 21 := w.setWidth 21
  let snap : Shadow :=
    { cluster := b.cluster, core := b.core, groups := (s.groupsOf b.bid).map afterFork, allocs := s.mm.allocs.filter (mine b), tags := [] }
  let r : ForkRecord :=
    { id := rid, n, parent := b.view, fail := pc + (j.signExtend 48 <<< 2), snapshot := snap, parentRec := b.forkRec, parentRival := b.rival,
      base := b, views := ids, claimed := false, aborted := [] }
  let clones := (List.range (n - 1)).map (fun k =>
    { b with bid := rid + k + 1, st := .waiting, rival := k + 1, view := ids.getD (k + 1) 0, forkRec := some rid, clone := true })
  let s1 := ids.foldl (fun s v => openView s v b.view .rival) s
  let s2 : State :=
    { s1 with
      nextId := rid + n
      fe := { s1.fe with blocks := s1.fe.blocks ++ clones }
      mm := { s1.mm with forks := s1.mm.forks ++ [r] } }
  let s3 := (privatise s2 b).mapBlock b.bid (fun x => { x with view := ids.getD 0 0, rival := 0, forkRec := some rid })
  releaseParked s3 ps

/-- Complete a FORK's rendezvous where every group has arrived (DEDUCED, log entry 33). -/
def forkStep (s : State) (bid : Nat) : State :=
  match s.block? bid with
  | none => s
  | some b =>
    let ps := parkedAs s bid isFork
    match ps.head?.bind (fun x => s.split? x.1 x.2) with
    | some (_, q) =>
      if !allParked s b isFork then s
      else
        let s1 := quietStep s bid
        if !isQuiet s1 bid then s1
        else
          let w := match q.park with | .fork w => w | _ => 0
          let ids := (freeViewIds s1).take (forkCount w)
          if forkRefused s1 b then raiseAll s1 0x0F 0 false ps
          else if ids.length < forkCount w then raiseAll s1 0x0D 0 false ps
          else forkNow s1 b w q.pc ids ps
    | none => s

/-- FORK (R246). -/
def execFork (e : Bool) (c : BitVec 3) (j : BitVec 21) (s : State) : Result :=
  withIssuer s (fun g p =>
    if c = 0 then illegalOperand s g p
    else
      let w := encodeWord (.fork e c j)
      let ps := parkedAs s g.bid isFork
      let differs := ps.any (fun x => match s.split? x.1 x.2 with | some (_, q) => q.park != .fork w || q.pc != p.pc | none => false)
      if p.active != g.live || differs then
        let s1 := raiseAll s 0x0F 0 false ps
        again s1 g.gid p.idx (fun g p => viewState s1 g p)
      else
        afterFence (releaseAt s g.gid p.idx .dev) g.gid p.idx (fun s1 g p =>
          .next (forkStep (parkTo (.fork e c j) e .bar (.fork w) (pcAfter (.fork e c j) p) s1 g p) g.bid)))

/-! ## CHOOSE (R248, R249) -/

/-- Stop every other rival of a record and discard what it holds. -/
def stopRivals (s : State) (r : ForkRecord) (b : Block) : State :=
  let s1 := (r.views.filter (fun v => v != 0 && v != b.view)).foldl (fun s v => discardTree s v b.bid) s
  ((s1.fe.blocks.filter (fun x => x.forkRec == some r.id && x.bid != b.bid)).map (·.bid)).foldl removeBlock s1

/-- The winner goes on as the block in the parent view: a record whose rival it now is finds its block in it. Its loads are served by no copy filled
before (R248, R268). -/
def endChoose (s : State) (r : ForkRecord) (b : Block) (ps : List (Nat × Nat)) : State :=
  let own (a : Alloc) : Alloc := if a.cohortOwned && a.owner == rivalKey b && r.parentRec.isNone then { a with owner := cohortKey b } else a
  let s1 := s.mapBlock b.bid (fun x => { x with view := r.parent, rival := r.parentRival, forkRec := r.parentRec, clone := false })
  let s2 := gcSegs { s1 with mm :=
    { s1.mm with
      forks := (s1.mm.forks.filter (fun f => f.id != r.id)).map (fun f => if f.base.bid == r.base.bid then { f with base := { f.base with bid := b.bid } } else f)
      allocs := s1.mm.allocs.map own } }
  releaseParked (remark s2 b.bid) ps

/-- Go on with a CHOOSE whose every group has arrived (DEDUCED, log entry 33). The sectors are verified before the parent's outbox is asked for room: an
error there is MEM_ABORT though VIEW_EXHAUSTED holds too (DESIGN CHOICE, log entry 88). -/
def chooseStep (s : State) (bid : Nat) : State :=
  match s.block? bid with
  | none => s
  | some b =>
    match b.forkRec.bind s.fork? with
    | none => s
    | some r =>
      if !allParked s b isChoose then s
      else
        let ps := parkedAs s bid isChoose
        match (s.view? b.view).bind (·.commit) with
        | some _ =>
          match advanceCommit s b b.view with
          | (s1, true) => endChoose s1 r b ps
          | (s1, false) => s1
        | none =>
          match verifyView s b b.view with
          | (s1, .wait) => s1
          | (s1, .bad x) => raiseAll (refuseCommit s1 b x) 0x11 (64 * x.pa) false ps
          | (s1, .ready) =>
            if r.parent != 0 && decide (64 < (outboxOf s1 r.parent).length + (outboxOf s1 b.view).length) then raiseAll s1 0x0D 0 false ps
            else
              let s2 := stopRivals { s1 with mm := { s1.mm with forks := s1.mm.forks.map (fun f => if f.id == r.id then { f with claimed := true } else f) } } r b
              match advanceCommit s2 b b.view with
              | (s3, true) => endChoose s3 r b ps
              | (s3, false) => s3

/-- CHOOSE (R248). -/
def execChoose (e : Bool) (s : State) : Result :=
  withIssuer s (fun g p =>
    if !inRival s g || p.active != g.live then viewState s g p
    else .next (chooseStep (parkTo (.choose e) e .bar .choose (pcAfter (.choose e) p) s g p) g.bid))

/-! ## VABORT and the end of a rival (R250) -/

/-- Rival 0 has aborted before the last: nothing of it runs, and its block waits for the snapshot. -/
def holdBase (s : State) (bid : Nat) : State :=
  let s1 := freeAllocs s (fun a => if a.cohortOwned then a.owner == rivalOwner bid else a.owner == bid)
  (dropGroups s1 bid).mapBlock bid (fun x => { x with st := .waiting, view := 0 })

/-- Give a snapshot back to the block of a record, in the parent view, on a core of the snapshot's cluster; the record ends. -/
def giveBack (s : State) (r : ForkRecord) (core : Nat) : State :=
  let s1 := restoreShadow s r.base.bid r.snapshot.cluster core r.snapshot
  let s2 := s1.mapBlock r.base.bid (fun x =>
    { x with st := .running, view := r.parent, rival := r.parentRival, forkRec := r.parentRec, clone := false })
  gcSegs { s2 with mm := { s2.mm with forks := s2.mm.forks.filter (fun f => f.id != r.id) } }

/-- The groups of a snapshot that have a live lane, and their registers. -/
def snapshotNeeds (r : ForkRecord) : Nat × Nat :=
  let gs := r.snapshot.groups.filter Group.alive
  ((gs.map (·.count)).sum, gs.length)

/-- The snapshot of a record whose every rival has aborted is restored in the parent view, at the fail label: at once where the block's own core,
or the snapshot's, has room; else the block is queued for a core of the snapshot's cluster, where its scratchpad lies (DEDUCED, log entry 33). -/
def restoreFork (s0 : State) (r : ForkRecord) : State :=
  let at' (g : Group) : Group := g.mapSplits (fun q => { q with pc := r.fail, order := s0.seq })
  let r1 := { r with snapshot := { r.snapshot with groups := r.snapshot.groups.map at' } }
  let s1 := { s0 with seq := s0.seq + 1, mm := { s0.mm with forks := s0.mm.forks.map (fun f => if f.id == r.id then r1 else f) } }
  let s := dropGroups (freeAllocs s1 (fun a => if a.cohortOwned then a.owner == rivalOwner r.base.bid else a.owner == r.base.bid)) r.base.bid
  match s.block? r.base.bid with
  | none => s
  | some b =>
    let P := s.partyOf b
    let cluster := r.snapshot.cluster
    let core := if b.cluster = cluster then b.core else r.snapshot.core
    let stays := b.st == .running && b.cluster == cluster
    if (stays || coreOpen s P.part P.tenancy cluster core) && coreRoom s cluster core (snapshotNeeds r1).1 (snapshotNeeds r1).2 then giveBack s r1 core
    else
      s.mapBlock b.bid (fun x =>
        { x with st := .waiting, clone := true, view := r.parent, rival := r.parentRival, forkRec := some r.id, cluster, core })

/-- Abort a rival (R250) (DEDUCED, log entry 33). -/
def abortRival (s : State) (b : Block) : State :=
  match b.forkRec.bind s.fork? with
  | none => s
  | some r =>
    let r' := { r with aborted := b.rival :: r.aborted, views := r.views.set b.rival 0 }
    let s1 := { s with mm := { s.mm with forks := s.mm.forks.map (fun f => if f.id == r.id then r' else f) } }
    if r.n ≤ r'.aborted.length then restoreFork (discardTree s1 b.view r.base.bid) r'
    else if b.bid == r.base.bid then holdBase (discardTree s1 b.view b.bid) b.bid
    else discardTree s1 b.view 0

/-- VABORT (R250, R260). -/
def execVabort (_ : Bool) (s : State) : Result :=
  withIssuer s (fun g p =>
    match s.block? g.bid with
    | none => viewState s g p
    | some b =>
      if b.forkRec.isSome then .next (abortRival (issued s g) b)
      else if s.modeOf b == 2 && !b.committed then .next (abortAtomic (issued s g) b)
      else viewState s g p)

/-! ## VSTAT (R253) -/

/-- The word that a selector names; none above 3. -/
def viewStatus (s : State) (b : Block) (x : Nat) : Option Word :=
  let r := b.forkRec.bind s.fork?
  match x with
  | 0 =>
    some (BitVec.ofNat 32 (b.view + 2 ^ 10 * b.rival + 2 ^ 13 * ((r.map (·.n)).getD 1 - 1) + 2 ^ 16 * ((s.view? b.view).map (·.depth)).getD 0 +
      2 ^ 19 * (s.modeOf b).toNat + 2 ^ 21 * ((r.map (fun f => f.n - f.aborted.length)).getD 0)))
  | 1 => some (BitVec.ofNat 32 (min (2 ^ 32 - 1) ((s.mm.sectors.filter (fun y => b.view != 0 && y.view == b.view && !y.dead)).length)))
  | 2 => some (BitVec.ofNat 32 (outboxOf s b.view).length)
  | 3 => some (BitVec.ofNat 32 (freeViewIds s).length)
  | _ => none

/-- VSTAT (R253). -/
def execVstat (e : Bool) (d : RegNum) (a : Src) (s : State) : Result :=
  withIssuer s (fun g p =>
    ifLegal (uniDstOk g d && srcOk g a) s g p
      (match (s.block? g.bid).bind (fun b => viewStatus s b (uniVal g p a).toNat) with
        | some w => retire (.vstat e d a) e s (writeUni g p d w) p
        | none => illegalOperand s g p))

/-! ## Reclaim (R366, R369) -/

/-- The dead sectors of a view are reclaimed; the identifier of a view that has ended is free (DEDUCED, log entry 34). -/
def execSectorReclaim (view : Nat) (s : State) : Result :=
  .next { s with mm :=
    { s.mm with
      sectors := s.mm.sectors.filter (fun x => !(x.view == view && x.dead))
      heldIds := s.mm.heldIds.filter (fun v => v != view) } }

end Sys2Proof.Machine
end

