-- ==== Sys2Proof/Machine/Exit.lean ====
section
/-! DEFINITION. EXIT, and the end of groups and blocks (09_control_sync_system.md R196; 11_views.md R250, R259; 19 R356; 15 R309,
R316). -/

namespace Sys2Proof.Machine

/-! ## What an end lets go on -/

/-- What waits for a block's groups is looked at again: barriers, the gang latch, FORK and CHOOSE. -/
def blockProgress (s : State) (bid : Nat) : State := chooseStep (forkStep (latchStep (tryBarriers s bid) bid) bid) bid

/-- The members of a block's cohort other than the block; its rivals are no members (R254). -/
def cohortOthers (s : State) (b : Block) : List Block :=
  s.fe.blocks.filter (fun x => x.lid == b.lid && x.cohort == b.cohort && x.index != b.index)

/-- A block leaves its cores for good: what it held is free, and with the cohort's last member the cohort's allocations (R94, R356).
The launch records it as done. -/
def leaveBlock (s : State) (b : Block) : State :=
  let s1 := dropGroups (killTags (releaseStorage s b.bid) b.bid) b.bid
  let s2 := s1.mapBlock b.bid (fun x => { x with st := .ended, shadow := none, view := 0, forkRec := none })
  let s3 := if (cohortOthers s2 b).all (fun x => x.st == .ended) then freeAllocs s2 (fun a => a.cohortOwned && a.owner == cohortKey b) else gcSegs s2
  s3.mapLaunch b.lid (fun l => { l with done := if l.done.contains b.index.toNat then l.done else l.done ++ [b.index.toNat] })

/-- A block whose every group has ended exits: its stage is released, and a cohort barrier may complete (R196, R316, R198). -/
def exitBlock (s : State) (b : Block) : State :=
  let s1 := leaveBlock s b
  let s2 := match s1.launch? b.lid with
    | some l => releaseStage s1 l b.index.toNat
    | none => s1
  ((cohortOthers s2 b).map (·.bid)).foldl (fun s x => tryBarrier s x 16) s2

/-- A block that has lost its groups and must finish its commit: what it held is free, and its outbox goes on (R259, R308, R355). -/
def leaveEnding (s : State) (b : Block) : State :=
  (dropGroups (killTags (releaseStorage s b.bid) b.bid) b.bid).mapBlock b.bid (fun x =>
    { x with st := .ending, shadow := none, evict := [], asked := none, struck := false })

/-- Such a block's commit, as far as it can go; then the block is at its end. -/
def endingStep (s : State) (b : Block) : State :=
  match advanceCommit s b b.view with
  | (s1, true) => exitBlock s1 b
  | (s1, false) => s1

/-! ## EXIT (R196) -/

/-- The group's end: it holds no live lane, and its registers are free. -/
def endGroup (s0 : State) (gid : Nat) : State :=
  let s := match s0.group? gid with | some g => leaveObjects s0 g | none => s0
  s.mapGroup gid (fun g =>
    { g with ended := true, exited := BitVec.allOnes 32, mode := false, pmode := false, splits := [], pending := [], v := [] })

/-- After lanes have exited: the group's end, the block's end, or what the exit lets go on. -/
def settleExit (s : State) (gid : Nat) : State :=
  match s.group? gid with
  | none => s
  | some g =>
    let s1 := if g.live == 0 then endGroup s gid else s
    match s1.block? g.bid with
    | none => s1
    | some b => if b.evict.isEmpty && (s1.groupsOf b.bid).all (fun x => !x.alive) then exitBlock s1 b else blockProgress s1 b.bid

/-- The exit of these lanes ends the block: no other group of it lives. -/
def lastExit (s : State) (g : Group) (p : Split) (whole : Bool) : Bool :=
  (whole || p.active == g.live) &&
    (match s.block? g.bid with
      | some b => b.evict.isEmpty && (s.groupsOf b.bid).all (fun x => x.gid == g.gid || !x.alive)
      | none => false)

/-- The lanes leave: the split's, or the whole group's from supervisor mode. -/
def leaveLanes (s : State) (g : Group) (p : Split) (whole : Bool) : State :=
  let s1 := issued s g
  settleExit (if whole then endGroup s1 g.gid else exitLanes s1 g.gid p.idx) g.gid

/-- Commit the view of a block whose last lanes exit, then go on (R259) (DEDUCED, log entry 35). -/
def exitCommit (s : State) (b : Block) (g : Group) (p : Split) (k : State → Result) : Result :=
  let go (s1 : State) : Result :=
    match advanceCommit s1 b b.view with
    | (s2, true) => k (s2.mapBlock b.bid (fun x => { x with view := 0 }))
    | (s2, false) => suspend s2
  if b.view = 0 then k s
  else
    match (s.view? b.view).bind (·.commit) with
    | some _ => go s
    | none =>
      match verifyView s b b.view with
      | (s1, .wait) => suspend s1
      | (s1, .bad x) =>
        let s2 := refuseCommit s1 b x
        again s2 g.gid p.idx (fun g p => trapHere s2 g p (.mk' 0x11 p.active (BitVec.ofNat 64 (64 * x.pa))))
      | (s1, .ready) => go ((commitStore s1 b b.view 0).mapBlock b.bid (fun x => { x with committed := s.modeOf b == 2 }))

/-- The exit itself, once its release is done. -/
def exitNow (s : State) (g : Group) (p : Split) (whole : Bool) : Result :=
  match s.block? g.bid with
  | none => .next (leaveLanes s g p whole)
  | some b =>
    if !lastExit s g p whole then .next (leaveLanes s g p whole)
    else if b.forkRec.isSome then .next (abortRival (issued s g) b)
    else if s.en.copies.any (fun c => c.bid == b.bid) then suspend s
    else exitCommit s b g p (fun s1 => .next (leaveLanes s1 g p whole))

/-- A release at DEV scope for every split of a group. -/
def releaseGroup (s : State) (g : Group) : State × FenceEnd :=
  (g.splits.map (·.idx)).foldl (fun r i => match r.2 with | .done => releaseAt r.1 g.gid i .dev | _ => r) (s, .done)

/-- An entry of the split still waits in the echo queue (R375). -/
def echoLeft (s : State) (g : Group) (p : Split) : Bool := s.fe.echo.any (fun e => e.gid == g.gid && e.sp == p.idx)

/-- EXIT (R196). -/
def execExit (_ : Bool) (s : State) : Result :=
  withIssuer s (fun g p =>
    if g.mode then
      if g.trapCause.toNat % 64 = 0x19 then illegalOperand s g p
      else if !g.pending.isEmpty || g.splits.any (echoLeft s g) then suspend s
      else afterFence (releaseGroup s g) g.gid p.idx (fun s1 g p => exitNow s1 g p true)
    else if p.outst != 0 || echoLeft s g p then suspend s
    else afterFence (releaseAt s g.gid p.idx .dev) g.gid p.idx (fun s1 g p => exitNow s1 g p false))

end Sys2Proof.Machine
end

