-- ==== Sys2Proof/Machine/Queue.lean ====
section
/-! DEFINITION. Launch queues: their registers, reading and accepting packets, halts, starts and completions (15_scheduling.md R299 to
R310, R313, R314). -/

namespace Sys2Proof.Machine

/-! ## Halts (R305, R306) -/

/-- Halt a queue at its present packet: the HALT record is posted in the same step, so a full event ring delays the halt. -/
def haltQueue (s : State) (qn cause : Nat) (seq : DWord) : State :=
  match postFront s qn 0xFFFF0011 cause seq with
  | (s1, .wait) => s1
  | (s1, _) =>
    s1.mapQueue qn (fun q => { q with halt := true, cause := BitVec.ofNat 6 cause, errOff := BitVec.ofNat 24 q.head.toNat, errSeq := seq })

/-- What the front end finds at QHEAD: nothing to read, a wait for a page, a halt cause with the packet's TYPE and SEQ, or a packet. -/
inductive Peek where
  | idle | wait
  | bad (cause ty : Nat) (seq : DWord)
  | ok (bs : List Byte)
deriving DecidableEq, Repr

/-- QTAIL is one that R300 allows (DEDUCED, log entry 45). -/
def tailOk (q : Queue) : Bool := q.tail.toNat % 64 == 0 && decide (q.tail.toNat < q.size.toNat)

/-- A WAITSEQ names a queue of the same tenancy (DEDUCED, log entry 45). -/
def waitQueueOk (s : State) (q : Queue) (bs : List Byte) : Bool :=
  field bs 0 1 != 3 || (s.queue (field bs 16 2)).tenancy == q.tenancy

/-- The hand-off table of a packet with HANDOFF can be read. -/
def tableEnd (s : State) (q : Queue) (bs : List Byte) : State × FeEnd :=
  if field bs 0 1 == 1 && field bs 2 2 / 4 % 2 == 1 then
    let d := packetDims (kernelAt s q.tenancy (field bs 16 8)) bs
    (List.range (d.1 * d.2.1 * d.2.2)).foldl (fun r k => match r.2 with | .ok _ => feRead r.1 q (field bs 40 8 + 4 * k) 4 | _ => r) (s, .ok [])
  else (s, .ok [])

/-- The first cause of R305 that a packet's first line shows, once all its bytes lie in the ring's written part. -/
def lineCause (s : State) (q : Queue) (hd : List Byte) : Option Nat :=
  if !lengthOk hd then some 4
  else if BitVec.ofNat 64 (field hd 8 8) != q.nextSeq then some 5
  else if !fieldsOk s q.tenancy hd then some 6
  else if !descriptorOk s q.tenancy hd then some 7
  else if !waitQueueOk s q hd then some 8
  else none

/-- The rest of a packet whose first line shows no cause: its other lines, and its hand-off table (R305). -/
def restOf (s : State) (q : Queue) (hd : List Byte) : State × Peek :=
  let seq : DWord := BitVec.ofNat 64 (field hd 8 8)
  match feReadAll s q (q.base.toNat + q.head.toNat) (field hd 1 1) with
  | (s1, .wait) => (s1, .wait)
  | (s1, .failed) => (s1, .bad 9 (field hd 0 1) seq)
  | (s1, .ok bs) =>
    match tableEnd s1 q bs with
    | (s2, .ok _) => (s2, .ok bs)
    | (s2, .wait) => (s2, .wait)
    | (s2, .failed) => (s2, .bad 9 (field hd 0 1) seq)

/-- Read the packet at QHEAD (R300, R305): a packet that QTAIL does not cover yet is not checked, and one that runs past the ring's end never will be
(DEDUCED, log entry 45). -/
def peekPacket (s : State) (qn : Nat) : State × Peek :=
  let q := s.queue qn
  if !q.assigned || !q.enable || q.halt || q.head == q.tail then (s, .idle)
  else
    match feRead s q (q.base.toNat + q.head.toNat) 64 with
    | (s1, .wait) => (s1, .wait)
    | (s1, .failed) => (s1, .bad (if tailOk q then 9 else 2) 6 (Config.unreadSeq s.seq))
    | (s1, .ok hd) =>
      let ty := field hd 0 1
      let len := field hd 1 1 * 64
      let seq : DWord := BitVec.ofNat 64 (field hd 8 8)
      let past := decide (q.size.toNat < q.head.toNat + len)
      if tailOk q && !past && decide ((q.tail.toNat + q.size.toNat - q.head.toNat) % q.size.toNat < len) then (s1, .idle)
      else if ty < 1 || 6 < ty then (s1, .bad 1 6 seq)
      else if !tailOk q then (s1, .bad 2 ty seq)
      else if len = 0 || past then (s1, .bad 3 ty seq)
      else
        match lineCause s1 q hd with
        | some c => (s1, .bad c ty seq)
        | none => restOf s1 q hd

/-! ## Completion (R309, R310) -/

def State.mapEntry (s : State) (e : LogEntry) (f : LogEntry → LogEntry) : State :=
  { s with fe := { s.fe with log := s.fe.log.map (fun x => if x.q == e.q && x.order == e.order then f x else x) } }

/-- The latest entry of a queue with a sequence number. -/
def State.entry? (s : State) (q : Nat) (seq : DWord) : Option LogEntry := (s.fe.log.filter (fun e => e.q == q && e.seq == seq)).getLast?

/-- The earlier entries of an entry's queue. -/
def earlier (s : State) (e : LogEntry) : List LogEntry := s.fe.log.filter (fun x => x.q == e.q && decide (x.order < e.order))

/-- Every block of a launch has exited or been killed. -/
def launchDone (l : Launch) : Bool := l.unplaceable || decide (l.total ≤ l.done.length)

/-- A packet of a queue has completed, or was passed before the queue's log (R304). -/
def seqCompleted (s : State) (qn : Nat) (t : DWord) : Bool :=
  match s.entry? qn t with
  | some e => e.complete
  | none => decide (t.toNat < (if t.getLsbD 63 then (s.queue qn).raftCount else (s.queue qn).nextSeq).toNat)

/-- The work of a started entry is done; a SIGNAL is done only with its store. -/
def entryDone (s : State) (e : LogEntry) : Bool :=
  e.started &&
    (match e.kind with
      | .launch lid => ((s.launch? lid).map launchDone).getD true
      | .flume id =>
        ((s.item? id).map (fun x => x.stages.all (fun y => y.ended && ((y.lid.bind s.launch?).map launchDone).getD true))).getD true
      | .waitseq q t => seqCompleted s q t
      | .signal _ _ => false
      | .trivial => true)

/-- Complete an entry, with its COMPLETE record where EVENT is set; a full event ring delays it. -/
def completeEntry (s : State) (e : LogEntry) : State :=
  if e.complete then s
  else if e.event then
    match postFront s e.q 0xFFFF0010 0 e.seq with
    | (s1, .wait) => s1
    | (s1, _) => s1.mapEntry e (fun x => { x with complete := true })
  else s.mapEntry e (fun x => { x with complete := true })

/-! ## Acceptance (R307) -/

/-- The kind of a packet's log entry, and the launch or item it makes. -/
def packetKind (s : State) (qn : Nat) (bs : List Byte) : State × LogKind :=
  let q := s.queue qn
  let seq : DWord := BitVec.ofNat 64 (field bs 8 8)
  let prioOf (x : Nat) : Nat := if x = 0 then max 1 q.prio.toNat else x
  match field bs 0 1 with
  | 1 =>
    match kernelAt s q.tenancy (field bs 16 8) with
    | some k =>
      let l := newLaunch s qn seq k (packetDims (some k) bs) (prioOf (field bs 36 1)) ((bs.drop 64).take (field bs 37 1)) [] (field bs 2 2 / 2 % 2 == 1) none
      let l1 := { l with prev := q.lastLaunch }
      ({ s with nextId := s.nextId + 1, fe := { s.fe with launches := s.fe.launches ++ [l1] } }.mapQueue qn (fun y => { y with lastLaunch := some l1.lid }),
        .launch l1.lid)
    | none => (s, .trivial)
  | 2 =>
    match flumeAt s q.tenancy (field bs 16 8) with
    | some f =>
      let st : StageRun := { lid := none, released := false, start := 0, last := 0, overrun := false, owed := false, ended := false, status := 0, releasedBlocks := [] }
      let x : Item :=
        { id := s.nextId, q := qn, seq, item := BitVec.ofNat 64 (field bs 24 8), flume := f, statAddr := field bs 32 8, prio := prioOf (field bs 40 1),
          params := (bs.drop 64).take (field bs 41 1), stages := f.stages.map (fun _ => st) }
      ({ s with nextId := s.nextId + 1, fe := { s.fe with items := s.fe.items ++ [x] } }, .flume x.id)
    | none => (s, .trivial)
  | 3 => (s, .waitseq (field bs 16 2) (BitVec.ofNat 64 (field bs 24 8)))
  | 4 => (s, .signal (field bs 16 8) (BitVec.ofNat 64 (field bs 24 8)))
  | _ => (s, .trivial)

/-- Accept a packet: its log entry, QNEXTSEQ and QHEAD. A WRAP or NOP completes at once (R304). -/
def acceptPacket (s : State) (qn : Nat) (bs : List Byte) : State :=
  let ty := field bs 0 1
  let fl := field bs 2 2
  let r := packetKind s qn bs
  let q := s.queue qn
  let e : LogEntry :=
    { q := qn, seq := BitVec.ofNat 64 (field bs 8 8), off := q.head.toNat, order := r.1.seq, kind := r.2, fence := fl % 2 == 1 || ty == 3 || ty == 4,
      event := fl / 2 % 2 == 1, handoff := fl / 4 % 2 == 1, htable := field bs 40 8, started := decide (5 ≤ ty), complete := false,
      sites := logSites qn }
  let s1 : State := { r.1 with seq := r.1.seq + 1, fe := { r.1.fe with log := r.1.fe.log ++ [e] } }
  let s2 := s1.mapQueue qn (fun y =>
    { y with
      nextSeq := e.seq + 1
      head := if ty = 5 then 0 else BitVec.ofNat 32 ((y.head.toNat + 64 * field bs 1 1) % y.size.toNat) })
  if 5 ≤ ty then completeEntry s2 e else s2

/-- The front end reads the packet at QHEAD where it is of the type `ty`, accepting it or halting at it; a packet that no type claims is
read as a NOP. -/
def readPacketOf (ty qn : Nat) (s : State) : State :=
  match peekPacket s qn with
  | (s1, .ok bs) => if field bs 0 1 == ty then acceptPacket s1 qn bs else s
  | (s1, .bad c t seq) => if t == ty then haltQueue s1 qn c seq else s
  | (s1, _) => s1

def execLaunchPacket (q : Nat) (s : State) : Result := .next (readPacketOf 1 q s)
def execFlumePacket (q : Nat) (s : State) : Result := .next (readPacketOf 2 q s)
def execWaitseqPacket (q : Nat) (s : State) : Result := .next (readPacketOf 3 q s)
def execSignalPacket (q : Nat) (s : State) : Result := .next (readPacketOf 4 q s)
def execWrapPacket (q : Nat) (s : State) : Result := .next (readPacketOf 5 q s)
def execNopPacket (q : Nat) (s : State) : Result := .next (readPacketOf 6 q s)

/-! ## Queue registers (R299, R300, R306) -/

/-- A ring size that R299 allows. -/
def ringSizeOk (w : Word) : Bool := decide (4096 ≤ w.toNat) && decide (w.toNat ≤ 2 ^ 24) && (List.range 25).any (fun k => w.toNat == 2 ^ k)

/-- A host write of a register of a queue's window (R299, R410). -/
def queueRow (q off : Nat) (s : State) (f : Queue → Queue) : Result := barRow [0, (s.queue q).fn] (0x10000 + 128 * q + off) s (fun s => s.mapQueue q f)

/-- The producer writes QTAIL. -/
def execQtailDoorbell (q : Nat) (v : Word) (s : State) : Result :=
  queueRow q 0x10 s (fun y => { y with tail := v })

/-- The host writes QHEAD: while halted a multiple of 64 below QSIZE, which ends the halt; while disabled any value of the ring. -/
def execQheadWrite (q : Nat) (v : Word) (s : State) : Result :=
  queueRow q 0x18 s (fun y =>
    if y.halt then
      if v.toNat % 64 == 0 && decide (v.toNat < y.size.toNat) then { y with head := v, halt := false, cause := 0, errOff := 0, errSeq := 0 } else y
    else if !y.enable then { y with head := v } else y)

/-- The host sets ENABLE: refused with a ring size out of range; with no LAUNCH since, hand-offs have none before them (R314). -/
def execQueueEnable (q : Nat) (s : State) : Result :=
  queueRow q 0x30 s (fun y =>
    if y.enable then y
    else if ringSizeOk y.size && ringSizeOk y.evSize then { y with enable := true, lastLaunch := none } else y)

/-- The host clears ENABLE: the front end reads no further packet. -/
def execQueueDisable (q : Nat) (s : State) : Result := queueRow q 0x30 s (fun y => { y with enable := false })

/-! ## Starting (R301, R304, R309, R313, R314) -/

/-- A record of an earlier packet waits for room, so no further packet of the queue starts (R310). -/
def recordWaits (s : State) (e : LogEntry) : Bool := (earlier s e).any (fun x => x.event && !x.complete && entryDone s x)

/-- The event ring of a queue is full (R310). -/
def ringFull (q : Queue) : Bool := q.evSize != 0 && !eventRoom q

/-- An accepted entry may start: written in both copies, in order, after a WAITSEQ that is met, with FENCE after every earlier completion, and while the event ring has room
(R309, R310). -/
def mayStart (s : State) (e : LogEntry) : Bool :=
  let ps := earlier s e
  bothWritten e && !e.started && ps.all (fun x => x.started) && !ps.any (fun x => (match x.kind with | .waitseq _ _ => true | _ => false) && !x.complete) &&
    (!e.fence || ps.all (fun x => x.complete)) && !recordWaits s e && !ringFull (s.queue e.q)

/-- The partition's own quarters of a cluster, lent out or not: cores, each with its pools (R313, R390). -/
def partCores (s : State) (part cluster : Nat) : List Nat := (List.range 4).filter (fun c => (s.quarter (4 * cluster + c)).part == part)

/-- Segments of an entry. -/
def entrySegs (bytes : Nat) : Nat := (bytes + 511) / 512

/-- Scratchpad entries of up to a pool fit runs of free segments, each entry in one run, of its own quarter where it has one (R180). -/
def fitSmall : List (Option Nat × Nat) → List (Nat × Nat) → Bool
  | [], _ => true
  | (q, n) :: r, runs =>
    ((runs.filter (fun x => q.all (· == x.1) && decide (n ≤ x.2))).eraseDups).any (fun x => fitSmall r ((x.1, x.2 - n) :: runs.erase x))

/-- Scratchpad entries of more than a pool fit empty pools, each in consecutive ones of its own quarter where it has one, and leave the end of the last
to smaller entries (R180). `rest` asks whether the others fit what is left: the empty pools, and those ends with their quarters. -/
def fitBig (rest : List Nat → List (Nat × Nat) → Bool) : List (Option Nat × Nat) → List Nat → List (Nat × Nat) → Bool
  | [], free, ends => rest free ends
  | (q, n) :: r, free, ends =>
    let m := (n + 767) / 768
    let starts := free.filter (fun p => (List.range m).all (fun j => free.contains (p + j) && q.all (fun c => (p + j) / 16 == c)))
    starts.any (fun p =>
      fitBig rest r (free.filter (fun x => decide (x < p) || decide (p + m ≤ x))) (((p + m - 1) / 16, (768 - n % 768) % 768) :: ends))

/-- Scratchpad entries, each with its quarter or for any, and counts of FIFOs, each of a quarter, fit the empty pools of some quarters (R180, R312, R313). -/
def poolsFit (cores : List Nat) (entries : List (Option Nat × Nat)) (fifos : List (Nat × Nat)) : Bool :=
  let segs := entries.map (fun x => (x.1, entrySegs x.2))
  let taken (c : Nat) : Nat := ((fifos.filter (fun x => x.1 == c)).map (·.2)).sum
  let rest (free : List Nat) (ends : List (Nat × Nat)) : Bool :=
    let left (c : Nat) : Nat := (free.filter (fun p => p / 16 == c)).length
    cores.all (fun c => decide (taken c ≤ left c)) &&
      fitSmall (segs.filter (fun x => decide (x.2 ≤ 768))) (ends ++ cores.flatMap (fun c => List.replicate (left c - taken c) (c, 768)))
  fitBig rest (segs.filter (fun x => decide (768 < x.2))) (cores.flatMap (fun c => (List.range 16).map (16 * c + ·))) []

/-- The entries of `n` blocks of a kernel that are on core `c`. -/
def ownEntries (k : Kernel) (c n : Nat) : List (Option Nat × Nat) :=
  (List.replicate n ((k.scratch.filter (fun x => !x.shared)).map (fun x => (some c, x.bytes)))).flatten

/-- Blocks of a kernel that one empty core takes, up to `n` (R313). -/
def coreTakes (k : Kernel) : Nat → Nat
  | 0 => 0
  | n + 1 =>
    let m := n + 1
    if k.groups * k.regs * m ≤ 2048 && k.groups * m ≤ 48 && poolsFit [0] (ownEntries k 0 m) [(0, k.fifos.length * m)] then m
    else coreTakes k n

/-- The ways to deal `n` blocks out to cores, at most `k` to each. -/
def deals (k : Nat) : List Nat → Nat → List (List (Nat × Nat))
  | [], n => if n = 0 then [[]] else []
  | c :: r, n => (List.range (min k n + 1)).flatMap (fun m => (deals k r (n - m)).map ((c, m) :: ·))

/-- A cohort of `n` blocks fits an empty cluster of the partition (R313) (DEDUCED, log entry 47). -/
def cohortFits (s : State) (part : Nat) (k : Kernel) (n : Nat) : Bool :=
  let shared := (k.scratch.filter (fun x => x.shared)).map (fun x => ((none : Option Nat), x.bytes))
  (((List.range 96).map (partCores s part)).eraseDups).any (fun cs =>
    (deals (coreTakes k n) cs n).any (fun d =>
      poolsFit cs (shared ++ d.flatMap (fun x => ownEntries k x.1 x.2)) (d.map (fun x => (x.1, k.fifos.length * x.2)))))

/-- The hand-off table of a launch, read when it starts; none while it cannot be read. -/
def readTable (s : State) (q : Queue) (addr n : Nat) : State × Option (List Word) :=
  (List.range n).foldl (fun r k =>
    match r.2 with
    | none => r
    | some ws =>
      match feRead r.1 q (addr + 4 * k) 4 with
      | (s1, .ok bs) => (s1, some (ws ++ [BitVec.ofNat 32 (leNat bs)]))
      | (s1, _) => (s1, none)) (s, some [])

/-- Start a launch: one that fits no empty cluster is complete at once, with its record (R313) (DEDUCED, log entry 45). -/
def startLaunch (s : State) (l : Launch) (payload : Nat) : State × Bool :=
  let q := s.queue l.q
  if cohortFits s q.part l.kernel (min l.kernel.cohort l.total) then (s.mapLaunch l.lid (fun y => { y with started := true }), true)
  else
    match postFront s l.q 0xFFFF0012 payload l.seq with
    | (s1, .wait) => (s1, false)
    | (s1, _) => (s1.mapLaunch l.lid (fun y => { y with started := true, unplaceable := true, nextBlock := l.total }), true)

/-- Start an entry. -/
def startEntry (s : State) (e : LogEntry) : State :=
  let go (s1 : State) : State := s1.mapEntry e (fun x => { x with started := true })
  match e.kind with
  | .launch lid =>
    match s.launch? lid with
    | none => go s
    | some l =>
      let r := if e.handoff then readTable s (s.queue e.q) e.htable l.total else (s, some [])
      match r with
      | (s1, none) => s1
      | (s1, some tab) =>
        match startLaunch (s1.mapLaunch lid (fun y => { y with handTable := tab })) l 0 with
        | (s2, true) => go s2
        | (s2, false) => s2
  | _ => go s

/-- An accepted packet starts; one whose work is done and whose record waited completes. -/
def execPacketStart (q : Nat) (seq : DWord) (s : State) : Result :=
  match s.entry? q seq with
  | none => .next s
  | some e =>
    if mayStart s e then .next (startEntry s e)
    else if entryDone s e then .next (completeEntry s e)
    else .next s

/-- The condition of a started WAITSEQ holds. -/
def execWaitseqMet (q : Nat) (seq : DWord) (s : State) : Result :=
  match s.entry? q seq with
  | some e => match e.kind with | .waitseq _ _ => if entryDone s e then .next (completeEntry s e) else .next s | _ => .next s
  | none => .next s

/-- A started SIGNAL stores its value at SYS scope and completes (R304). Where its page cannot be written, nothing is stored. -/
def execSignalStore (q : Nat) (seq : DWord) (s : State) : Result :=
  match s.entry? q seq with
  | some e =>
    match e.kind with
    | .signal addr v =>
      if !e.started || e.complete || (e.event && !eventRoom (s.queue q)) then .next s
      else
        match feWrite s (s.queue q) addr (leBytes v.toNat 8) with
        | (s1, .wait) => .next s1
        | (s1, _) => .next (completeEntry s1 e)
    | _ => .next s
  | none => .next s

/-! ## The end of a launch (R309, R315, R322) -/

/-- The linear indices of child `j`'s blocks. -/
def childRange (l : Launch) (j : Nat) : List Nat :=
  let base := ((l.children.take j).map childBlocks).sum
  (List.range (((l.children[j]?).map childBlocks).getD 0)).map (fun k => base + k)

/-- Post the COMPLETE records of a merged launch's children whose blocks are complete. -/
def postChildren (s : State) (lid : Nat) : Nat → State
  | 0 => s
  | n + 1 =>
    let s0 := postChildren s lid n
    match s0.launch? lid with
    | none => s0
    | some l =>
      match l.children[n]? with
      | some c =>
        if c.event && !c.posted && (l.unplaceable || (childRange l n).all l.done.contains) then
          match postFront s0 l.q 0xFFFF0010 n l.seq with
          | (s1, .wait) => s1
          | (s1, _) => s1.mapLaunch lid (fun y => { y with children := y.children.set n { c with posted := true } })
        else s0
      | none => s0

/-- The entry that a launch completes: its own, or its flume's. -/
def entryOf (s : State) (l : Launch) : Option LogEntry :=
  s.fe.log.find? (fun e => match e.kind with | .launch lid => lid == l.lid | .flume id => (l.item.map (·.1)) == some id | _ => false)

/-- The last block exit of a launch is recorded: children post, and the packet's entry completes once all its work is done. -/
def execLaunchComplete (lid : Nat) (s : State) : Result :=
  match s.launch? lid with
  | none => .next s
  | some l =>
    let s1 := postChildren s lid l.children.length
    match s1.launch? lid with
    | none => .next s1
    | some l1 =>
      if !l1.started || !launchDone l1 || l1.children.any (fun c => c.event && !c.posted) then .next s1
      else
        let s2 := s1.mapLaunch lid (fun y => { y with complete := true })
        match entryOf s2 l1 with
        | some e => if entryDone s2 e then .next (completeEntry s2 e) else .next s2
        | none => .next s2

end Sys2Proof.Machine
end

