-- ==== Sys2Proof/Machine/System.lean ====
section
/-! DEFINITION. The system instructions: register count, format and signature, special registers, TRAP and BKPT, NOP, SLEEP, WAIT, LAUNCH
and SEND (01_machine_state.md R26, R27, R35 to R41; 08 R186; 09 R207 to R216). -/

namespace Sys2Proof.Machine

/-! ## REGREQ and REGREL (R207, R208) -/

/-- The count that a field names. -/
def countOk (n : BitVec 7) : Bool := n.toNat % 8 == 0 && decide (8 ≤ n.toNat) && decide (n.toNat ≤ 96)

/-- The lowest requester of some groups (R28) (DEDUCED, log entry 73). -/
def lowestRequester (s : State) (gs : List Group) : Option Group :=
  firstBy (fun g x => rankLess (groupRank s g) (groupRank s x)) (gs.filter (fun g => g.splits.any (fun p => p.st == .regreq)))

/-- A group of the core is evicted, or being evicted, for its registers: what it frees is for the lowest requester (R28). -/
def evictedHere (s : State) (cluster core : Nat) : Bool :=
  s.fe.groups.any (fun g => g.alive && (match s.block? g.bid with
    | some b => b.cluster == cluster && b.core == core && b.st != .saved && evicted b g
    | none => false))

/-- An evicted group of lower identifier waits for room on the core, and no request there goes before it (R28, R45). -/
def awaited (s : State) (cluster core : Nat) (rank : Rank) : Bool :=
  s.fe.groups.any (fun g => g.alive && g.routineDone && !g.trapAddr.getLsbD 0 && rankLess (groupRank s g) rank &&
    (match s.block? g.bid with
      | some b => b.st == .running && b.cluster == cluster && b.core == core && evicted b g
      | none => false) &&
    !(coreGroups s cluster core).any (fun x => x.splits.any (fun p => p.st == .regreq) && rankLess (groupRank s x) (groupRank s g)))

/-- The core has detected a register deadlock whose lowest request is not granted yet: what is freed there is for that request (R28). -/
def inDeadlock (s : State) (cluster core : Nat) : Bool := s.fe.deadlocks.contains (4 * cluster + core)

/-- A request may be granted now: where registers are being freed for requests, the lowest of its core alone; and no lower group that was evicted waits
for the room, but where a deadlock is being resolved (R28, R44). -/
def mayGrant (s : State) (g : Group) : Bool :=
  let P := s.party g
  let dead := inDeadlock s P.cluster P.core
  ((!dead && !evictedHere s P.cluster P.core) || (lowestRequester s (coreGroups s P.cluster P.core)).all (fun x => x.gid == g.gid)) &&
    (dead || !awaited s P.cluster P.core (groupRank s g))

/-- Grant a group's pending request where its core has room: the new registers read 0, and its splits in REGREQ go on. -/
def grantRequest (s : State) (gid : Nat) : State :=
  match s.group? gid with
  | none => s
  | some g =>
    let P := s.party g
    if g.req ≤ g.count || freeRegs s P.cluster P.core < g.req - g.count || !mayGrant s g then s
    else
      let new := regRange g.count (g.req - g.count)
      let s1 := s.mapGroup gid (fun g =>
        { g.mapSplits (fun q => if q.st == .regreq then { q with outst := q.outst &&& ~~~new } else q) with count := g.req, req := 0 })
      ((g.splits.filter (fun q => q.st == .regreq)).map (·.idx)).foldl (fun s i => releaseSplit s gid i) s1

/-- REGREQ. -/
def execRegreq (e : Bool) (n : BitVec 7) (s : State) : Result :=
  withIssuer s (fun g p =>
    ifLegal (countOk n) s g p
      (if n.toNat ≤ g.count then retire (.regreq e n) e s g p
       else
         let g1 := { g with req := max g.req n.toNat }
         let p1 := { p with outst := p.outst ||| regRange g.count (n.toNat - g.count) }
         .next (grantRequest (parkTo (.regreq e n) e .regreq .none (pcAfter (.regreq e n) p) s g1 p1) g.gid)))

/-- A pending REGREQ is granted (R207). -/
def execRegreqGrant (gid : Nat) (s : State) : Result := .next (grantRequest s gid)

/-- REGREL: registers at and above the count hold nothing (R27). -/
def execRegrel (e : Bool) (n : BitVec 7) (s : State) : Result :=
  withIssuer s (fun g p =>
    ifLegal (countOk n) s g p
      (if g.count ≤ n.toNat then retire (.regrel e n) e s g p
       else if g.splits.any (fun q => q.outst &&& regRange n.toNat (g.count - n.toNat) != 0) then suspend s
       else retire (.regrel e n) e s { g with count := n.toNat, v := sclear g.v (32 * n.toNat) (32 * (g.count - n.toNat)) } p))

/-! ## SETFMT, SIGX, SIGCHK (R37, R209, R210) -/

/-- Every field of a format word is one that R37 allows. -/
def fmtOk (w : Word) : Bool :=
  let f (lo n : Nat) : Nat := w.toNat / 2 ^ lo % 2 ^ n
  f 0 3 ≤ 4 && f 4 4 ≤ 9 && f 8 4 ≤ 8 && f 12 4 ≤ 8 && f 16 2 ≤ 1 && f 19 13 == 0

/-- Replace `n` bits of a word from bit `lo`. -/
def putField (w : Word) (lo n : Nat) (x : Word) : Word :=
  let m : Word := ((1#32 <<< n) - 1) <<< lo
  (w &&& ~~~m) ||| ((x <<< lo) &&& m)

/-- The place and width of a SETFMT field. -/
def fmtPlace : FmtField → Nat × Nat
  | .rm => (0, 3)
  | .sat => (3, 1)
  | .narrow => (4, 4)
  | .afmt => (8, 4)
  | .bfmt => (12, 4)
  | .acc => (16, 2)
  | .out => (18, 1)
  | .all => (0, 32)

/-- FMT with a field set; none where the value has a bit above the field or is reserved. -/
def setFmt (fmt : Word) (o : FmtField) (x : Word) : Option Word :=
  let pl := fmtPlace o
  let w := if pl.2 = 32 then x else putField fmt pl.1 pl.2 x
  if decide (2 ^ pl.2 ≤ x.toNat) || !fmtOk w then none else some w

/-- SETFMT. -/
def execSetfmt (e : Bool) (o : FmtField) (a : Src) (s : State) : Result :=
  withIssuer s (fun g p =>
    ifLegal (srcOk g a) s g p
      (match setFmt p.fmt o (uniVal g p a) with
        | some w => retire (.setfmt e o a) e s g { p with fmt := w }
        | none => illegalOperand s g p))

/-- SIGX: SIG and the source are exchanged; the word is not hashed. -/
def execSigx (e : Bool) (d : RegNum) (a : Src) (s : State) : Result :=
  withIssuer s (fun g p =>
    ifLegal (uniDstOk g d && srcOk g a) s g p
      (retireSig e (pcAfter (.sigx e d a) p) (uniVal g p a) s (writeUni g p d p.sig) p))

/-- SIGCHK. -/
def execSigchk (e : Bool) (a : Src) (s : State) : Result :=
  withIssuer s (fun g p =>
    ifLegal (srcOk g a) s g p
      (if p.sig == uniVal g p a then retireSig e (pcAfter (.sigchk e a) p) 0 s g p
       else trapHere s g p (.mk' 0x12 p.active (p.sig.setWidth 64))))

/-! ## Special registers (R35 to R41) -/

/-- What a special register is to software: absent from the map, or its width in words, whether it is a lane register, and its
user and supervisor access: 0 none, 1 read, 2 read and write. -/
structure SpecialInfo where
  words : Nat
  lane : Bool
  user : Nat
  super : Nat
deriving DecidableEq, Repr

/-- The map of R35. -/
def specialInfo (i : Nat) : Option SpecialInfo :=
  if i ≤ 0x01 then some ⟨1, true, 1, 1⟩
  else if i ≤ 0x07 then some ⟨1, false, 1, 1⟩
  else if i = 0x08 then some ⟨2, false, 1, 1⟩
  else if 0x10 ≤ i && i ≤ 0x13 then some ⟨1, false, 1, 1⟩
  else if i = 0x18 then some ⟨2, false, 1, 1⟩
  else if i = 0x20 || i = 0x21 then some ⟨1, false, 2, 2⟩
  else if i = 0x22 then some ⟨1, true, 2, 2⟩
  else if i = 0x28 then some ⟨2, false, 2, 2⟩
  else if i = 0x29 then some ⟨1, false, 1, 1⟩
  else if i = 0x2A then some ⟨1, false, 1, 2⟩
  else if i = 0x2B then some ⟨1, false, 2, 2⟩
  else if i = 0x30 || i = 0x32 || i = 0x36 then some ⟨1, false, 0, 2⟩
  else if i = 0x31 || i = 0x33 || i = 0x34 || i = 0x35 then some ⟨2, false, 0, 2⟩
  else if 0x40 ≤ i && i ≤ 0x47 then some ⟨1, false, 0, 2⟩
  else none

/-- The block of a group, or one that reads 0 everywhere. -/
def blockD (s : State) (g : Group) : Block :=
  (s.block? g.bid).getD
    { bid := 0, lid := 0, index := 0, x := 0, y := 0, z := 0, cohort := 0, member := 0, st := .running, cluster := 0, core := 0, rival := 0, view := 0,
      forkRec := none, keep := false, saveBase := 0, clone := false, evict := [], debug := false, stopBlk := false, rollbacks := 0, entry := 0,
      shadow := none, shadowCopy := 2, staleCopy := false, rolled := false, committed := false, preempts := 0, asked := none, struck := false }

/-- The PRIVST word (R41). -/
def privst (g : Group) : Word := BitVec.ofNat 32 (g.mode.toNat + 2 * g.pmode.toNat + 4 * g.step.toNat)

/-- The value of a special register in lane `l`. SIG already holds the hash of the reading MFSR (R377) (DEDUCED, log entry 12). -/
def readSpecial (s : State) (g : Group) (p : Split) (sg : Word) (i l : Nat) : DWord :=
  let b := blockD s g
  let q := s.queueOfBlock b
  let w (x : Word) : DWord := x.setWidth 64
  let n (x : Nat) : DWord := BitVec.ofNat 64 x
  match i with
  | 0x00 => n l
  | 0x01 => n (l / 4)
  | 0x02 => n g.index
  | 0x03 => w b.index
  | 0x04 => w b.x
  | 0x05 => w b.y
  | 0x06 => w b.z
  | 0x07 => n ((16 * b.cohort + b.member) % 2 ^ 32)
  | 0x08 => ((s.launch? b.lid).map (·.seq)).getD 0
  | 0x10 => n (p.idx + 4 * p.depth + 256 * (g.splits.length - 1))
  | 0x11 => n b.rival
  | 0x12 => n (b.view + 2 ^ 12 * ((s.view? b.view).map (·.depth)).getD 0 + 2 ^ 16 * (s.modeOf b).toNat)
  | 0x13 => n (q.tenancy % 256 + 256 * (q.asid % 4096))
  | 0x18 => n s.clock
  | 0x20 => w p.fmt
  | 0x21 => g.fcsr.setWidth 64
  | 0x22 => (sget g.fflags l).setWidth 64
  | 0x28 => g.gang
  | 0x29 => n (g.count + 256 * g.req)
  | 0x2A => w sg
  | 0x2B => w g.replays
  | 0x30 => w g.trapCause
  | 0x31 => g.trapPc
  | 0x32 => w g.trapMask
  | 0x33 => g.trapAddr
  | 0x34 => g.saveBase
  | 0x35 => g.tvec
  | 0x36 => w (privst g)
  | _ => w (sget g.s (22 + (i - 0x40)))

/-- Write an MFSR's value: each active lane of a vector register, or a uniform register from the lowest active lane. -/
def writeMfsr (g : Group) (p : Split) (d : RegNum) (words : Nat) (f : Nat → DWord) : Group :=
  let v (l : Nat) : DWord := f l
  let one (g : Group) (r : Nat) (h : Nat → Word) : Group :=
    if r < 96 then writeLanes g r p.active h else writeReg g r 0 (h (lowest p.active))
  if d == 126 then g
  else
    let g1 := one g d.toNat (fun l => (v l).setWidth 32)
    if words = 2 then one g1 (d.toNat + 1) (fun l => (v l >>> 32).setWidth 32) else g1

/-- The registers that a read of CLOCK leaves outstanding: the destination pair, or zero (R36, R48) (DEDUCED, log entry 62). -/
def clockRegs (d : RegNum) : RegSet := if d = 126 then regRange 126 1 else regRange d.toNat 2

/-- MFSR: CLOCK is an outstanding result, read when the instruction issues (R36). -/
def execMfsr (e : Bool) (d : RegNum) (i : BitVec 8) (s : State) : Result :=
  withIssuer s (fun g p =>
    match specialInfo i.toNat with
    | none => illegalOperand s g p
    | some x =>
      if !g.mode && x.user = 0 then privilege s g p
      else
        ifLegal (if x.words = 2 then uniDst64Ok g d else uniDstOk g d) s g p
          (let f (l : Nat) : DWord := readSpecial s g p (sigAfter (.mfsr e d i) g p) i.toNat l
           if i = 0x18 then
             let v := f 0
             let parts : List LaneResult :=
               [{ lane := lowest p.active, dests := uniDests g p d.toNat, vals := [v.setWidth 32], load := none, sext := false, scope := .blk, flags := 0 },
                { lane := lowest p.active, dests := uniDests g p (d.toNat + 1), vals := [(v >>> 32).setWidth 32], load := none, sext := false,
                  scope := .blk, flags := 0 }]
             let full := parts.map (fun r => { r with vals := r.dests.flatMap (fun _ => r.vals) })
             let q := addPending s g p (s.viewOf g) (clockRegs d) full
             retire (.mfsr e d i) e s q.1 q.2
           else retire (.mfsr e d i) e s (writeMfsr g p d x.words f) p))

/-- Bits of a value from `lo` up, `n` of them, are 0. -/
def zeroBits (v : DWord) (lo n : Nat) : Bool := v.toNat / 2 ^ lo % 2 ^ n == 0

/-- The group and split after a write of a special register that is not a lane register; none where the value sets a reserved bit or
a reserved value (DEDUCED, log entry 12). -/
def writeSpecial (s : State) (g : Group) (p : Split) (i : Nat) (v : DWord) : Option (Group × Split) :=
  let w : Word := v.setWidth 32
  match i with
  | 0x20 => (setFmt p.fmt .all w).map (fun f => (g, { p with fmt := f }))
  | 0x21 => if zeroBits v 5 27 then some ({ g with fcsr := v.setWidth 5 }, p) else none
  | 0x28 =>
    if zeroBits v 3 5 && zeroBits v 38 26 && v.toNat % 8 != 0 && v.toNat % 8 != 7 && gangOk s g v then some ({ g with gang := v }, p) else none
  | 0x2A => some (g, { p with sig := w })
  | 0x2B => some ({ g with replays := w }, p)
  | 0x30 => if zeroBits v 6 2 && zeroBits v 16 16 then some ({ g with trapCause := w }, p) else none
  | 0x31 => if zeroBits v 48 16 then some ({ g with trapPc := v }, p) else none
  | 0x32 => some ({ g with trapMask := w }, p)
  | 0x33 => some ({ g with trapAddr := v }, p)
  | 0x34 => if zeroBits v 0 8 && zeroBits v 48 16 then some ({ g with saveBase := v }, p) else none
  | 0x35 => if zeroBits v 0 8 && zeroBits v 48 16 then some ({ g with tvec := v }, p) else none
  | 0x36 => if zeroBits v 3 29 then some ({ g with pmode := v.getLsbD 1, step := v.getLsbD 2 }, p) else none
  | _ => some ({ g with s := sset g.s (22 + (i - 0x40)) w }, p)

/-- MTSR. -/
def execMtsr (e : Bool) (a : Src) (i : BitVec 8) (s : State) : Result :=
  withIssuer s (fun g p =>
    match specialInfo i.toNat with
    | none => illegalOperand s g p
    | some x =>
      if !g.mode && x.user = 0 then privilege s g p
      else if (if g.mode then x.super else x.user) != 2 then illegalOperand s g p
      else
        ifLegal (if x.words = 2 then src64Ok g a else srcOk g a) s g p
          (if x.lane then
             let ff := (lanesOf p.active).foldl (fun m l => sset m l ((srcVal g a l).setWidth 5)) g.fflags
             retire (.mtsr e a i) e s { g with fflags := ff } p
           else
             let v : DWord := if x.words = 2 then uniVal64 g p a else (uniVal g p a).setWidth 64
             match writeSpecial s g p i.toNat v with
             | some r => retire (.mtsr e a i) e s r.1 r.2
             | none => illegalOperand s g p))

/-! ## TRAP, BKPT, NOP, SLEEP, unnamed words -/

/-- TRAP (R212). -/
def execTrap (_ : Bool) (k : BitVec 16) (s : State) : Result :=
  withIssuer s (fun g p => trapHere s g p (.mk' 0x16 p.active (k.setWidth 64)))

/-- A debug stop of a group at an event of one split, and of the block's other groups where STOPBLK says so (R357, R358). -/
def debugStop (s : State) (g : Group) (p : Split) : State :=
  let all := ((s.block? g.bid).map (·.stopBlk)).getD false
  let s1 := s.mapGroups (fun x => if x.gid == g.gid || (all && x.bid == g.bid) then x.mapSplits (fun q => { q with stopReq := true }) else x)
  s1.mapSplit g.gid p.idx (fun q => { q with st := .stop, stepOne := false })

/-- BKPT (R212): a group under debugging stops at it, and a debugger's step goes past it. -/
def execBkpt (e : Bool) (k : BitVec 16) (s : State) : Result :=
  withIssuer s (fun g p =>
    if ((s.block? g.bid).map (·.debug)).getD false then
      if p.stepOne then retire (.bkpt e k) e s g p else .next (debugStop s g p)
    else trapHere s g p (.mk' 0x17 p.active (k.setWidth 64)))

/-- NOP (R214). -/
def execNop (e : Bool) (s : State) : Result := withIssuer s (fun g p => retire (.nop e) e s g p)

/-- SLEEP (R214). -/
def execSleep (e : Bool) (a : Src) (s : State) : Result :=
  withIssuer s (fun g p =>
    ifLegal (srcOk g a) s g p
      (let x := (uniVal g p a).toNat
       if x = 0 then retire (.sleep e a) e s g p
       else .next (parkTo (.sleep e a) e .wait (.sleep (s.clock + x)) (pcAfter (.sleep e a) p) s g p)))

/-- A sleep ends once CLOCK has reached its tick (DEDUCED, log entry 74). -/
def execSleepExpiry (gid sp : Nat) (s : State) : Result :=
  match s.split? gid sp with
  | some (_, p) =>
    match p.park with
    | .sleep t => if t ≤ s.clock then .next (releaseSplit s gid sp) else .next s
    | _ => .next s
  | none => .next s

/-- A word that names no instruction (R65). -/
def execIllegalOp (_ : Word) (s : State) : Result := withIssuer s (fun g p => trapCode s g p 0x01)

/-! ## WAIT (R186) -/

/-- The ticks after which a WAIT ends: none where d is the register zero (R186). -/
def waitLimit (g : Group) (p : Split) (d : Src) : Option Nat := match d with | .reg 126 => none | _ => some (uniVal g p d).toNat

/-- WAIT's word differs from the operand: retire; else park on the word's sector (DEDUCED, log entry 74). -/
def waitWord (i : Instr) (e : Bool) (n va pa : Nat) (timeout : Option Nat) (want : List Byte) (attr : Nat) (s : State) (g : Group) (p : Split) : Result :=
  let P := s.party g
  match (if attr = 2 then extRead s P pa n else homeSees s P pa n) with
  | none =>
    let s1 := abortTo (noteAbort s g.gid p.idx pa) P pa va (abortAction s P)
    again s1 g.gid p.idx (fun g p => retire i e s1 g p)
  | some bs =>
    if bs != want then retire i e s g p
    else
      .next (parkTo i e .wait (.word (localOf s pa / 64) false (timeout.map (s.clock + ·))) (pcAfter i p) s g
        { p with fmask := 0, faddr := [] })

/-- WAIT (DEDUCED, log entry 74). -/
def execWait (e w : Bool) (d a b : Src) (s : State) : Result :=
  withIssuer s (fun g p =>
    ifLegal (srcOk g d && baseOk g a && (if w then src64Ok g b else srcOk g b)) s g p
      (let P := s.party g
       let n := if w then 8 else 4
       withChecked s g p P .load true false n (some p.active) (wholeAddr p (uniVal64 g p a).toNat) (fun s1 oks rest =>
         match oks with
         | [] => endAccess (.wait e w d a b) e P false g.gid p.idx (wholeRest p rest) s1
         | x :: _ =>
           let pl : Place := .global x.2.2.pa x.2.1 x.2.2.attr x.2.2.size
           let s2 := settleOlder s1 g.gid p.idx [(pl, n)]
           if mustWait s2 g.gid p.idx [(pl, n)] then suspend s2
           else
             let s3 := settleCopies s2 P x.2.2.pa
             again s3 g.gid p.idx (fun g p =>
               waitWord (.wait e w d a b) e n x.2.1 x.2.2.pa (waitLimit g p d) (wholeData g p b w) x.2.2.attr s3 g p))))

/-- A write to the watched sector wakes a WAIT (DEDUCED, log entry 74). -/
def execWaitWake (gid sp : Nat) (s : State) : Result :=
  match s.split? gid sp with
  | some (_, p) =>
    match p.park with
    | .word _ true _ => .next (releaseSplit s gid sp)
    | _ => .next s
  | none => .next s

/-- The timeout of a WAIT passes (DEDUCED, log entry 74). -/
def execWaitTimeout (gid sp : Nat) (s : State) : Result :=
  match s.split? gid sp with
  | some (_, p) =>
    match p.park with
    | .word _ _ (some t) => if t ≤ s.clock then .next (releaseSplit s gid sp) else .next s
    | _ => .next s
  | none => .next s

/-! ## LAUNCH and SEND (R215, R216, R251, R316) -/

/-- Put an operation of a view into its outbox and retire; a full outbox raises VIEW_EXHAUSTED (R251). -/
def viewOutbox (i : Instr) (e : Bool) (op : OutboxOp) (s : State) (g : Group) (p : Split) : Result :=
  let v := s.viewOf g
  if !outboxRoom s v 1 then trapCode s g p 0x0D
  else retire i e (outboxPush s v { op, bid := g.bid, gid := g.gid }) g p

/-- Read the pieces of a child's packet for LAUNCH; none on an abort completion (DEDUCED, log entry 75). -/
def readPacket (s : State) (P : Party) : List (Nat × Nat × Leaf) → Except Nat (List Byte)
  | [] => .ok []
  | x :: r =>
    match (if x.2.2.attr = 2 then extRead s P x.2.2.pa 64 else homeRead s P.tenancy P.view x.2.2.pa 64) with
    | none => .error x.2.2.pa
    | some bs => match readPacket s P r with | .ok bs' => .ok (bs ++ bs') | e => e

/-- LAUNCH outside a view: the packet is read and checked, and the child joins the raft. An uncorrectable error met in the packet is MEM_ABORT at the
LAUNCH at once, with the sector's physical address (DEDUCED, log entry 75; DESIGN CHOICE, log entry 76). -/
def launchChild (i : Instr) (e : Bool) (addr len : Nat) (s : State) (g : Group) (p : Split) : Result :=
  let P := s.party g
  let k := if len = 64 || len = 128 || len = 192 || len = 256 then len / 64 else 1
  withChecked s g p P .load true false 64 (some p.active) ((List.range k).map (fun j => (32 + j, addr + 64 * j))) (fun s1 oks rest =>
    if !rest.isEmpty then .next (parkFault { s1 with seq := s1.seq + 1 } P g.gid p.idx false false rest)
    else
      again s1 g.gid p.idx (fun g p =>
        match readPacket s1 P oks with
        | .error pa =>
          let s2 := abortTo s1 P pa addr (abortAction s1 P)
          again s2 g.gid p.idx (fun g p => trapHere s2 g p (.mk' 0x11 p.active (BitVec.ofNat 64 (pa / 64 * 64))))
        | .ok bs =>
          if !childOk s1 P.tenancy len bs then trapHere s1 g p (.mk' 0x02 p.active (BitVec.ofNat 64 addr))
          else
            let s2 := postChild s1 (s1.queueOfBlock (blockD s1 g)).q bs
            again s2 g.gid p.idx (fun g p => retire i e s2 g p)))

/-- LAUNCH. -/
def execLaunch (e : Bool) (a b : Src) (s : State) : Result :=
  withIssuer s (fun g p =>
    ifLegal (baseOk g a && srcOk g b) s g p
      (let addr := (uniVal64 g p a).toNat
       let len := (uniVal g p b).toNat
       if s.viewOf g != 0 then viewOutbox (.launch e a b) e (.launch addr len) s g p
       else
         afterFence (releaseAt s g.gid p.idx .dev) g.gid p.idx (fun s1 g p => launchChild (.launch e a b) e addr len s1 g p)))

/-- A block has released its flume stage, or put its release into an outbox. -/
def hasReleased (s : State) (b : Block) (l : Launch) : Bool :=
  (match l.item with
    | some (id, j) => match (s.item? id).bind (fun x => x.stages[j]?) with | some y => y.releasedBlocks.contains b.index.toNat | none => false
    | none => false) ||
    (viewChain s 5 b.view).any (fun v => (outboxOf s v).any (fun x => x.op == .release))

/-- SEND with a reserved CODE: the release of a flume stage, or an illegal operand (R316) (DEDUCED, log entry 75). -/
def sendReserved (i : Instr) (e : Bool) (code : Word) (s : State) (g : Group) (p : Split) : Result :=
  let b := blockD s g
  match s.launch? b.lid with
  | none => illegalOperand s g p
  | some l =>
    if code != 0xFFFF0001 || l.item.isNone || hasReleased s b l then illegalOperand s g p
    else if b.view != 0 then viewOutbox i e .release s g p
    else
      afterFence (releaseAt s g.gid p.idx .sys) g.gid p.idx (fun s1 g p =>
        let s2 := releaseStage s1 l b.index.toNat
        again s2 g.gid p.idx (fun g p => retire i e s2 g p))

/-- SEND; while the event ring's page cannot be written it waits, as for room (DEDUCED, log entry 75; DESIGN CHOICE, log entry 91). -/
def execSend (e : Bool) (a b : Src) (s : State) : Result :=
  withIssuer s (fun g p =>
    ifLegal (srcOk g a && srcOk g b) s g p
      (let code := uniVal g p a
       let pay := uniVal g p b
       let blk := blockD s g
       let who := g.index + 32 * p.idx + 128 * blk.rival
       if decide (0xFFFF0000 ≤ code.toNat) then sendReserved (.send e a b) e code s g p
       else if blk.view != 0 then viewOutbox (.send e a b) e (.send code pay (BitVec.ofNat 32 who)) s g p
       else
         afterFence (releaseAt s g.gid p.idx .sys) g.gid p.idx (fun s1 g p =>
           let rec' := recordBytes code.toNat pay.toNat (((s1.launch? blk.lid).map (·.seq)).getD 0) blk.index.toNat who s1.clock
           match postEvent s1 (s1.queueOfBlock blk).q rec' with
           | (s2, .ok _) => again s2 g.gid p.idx (fun g p => retire (.send e a b) e s2 g p)
           | (s2, _) => suspend s2)))

end Sys2Proof.Machine
end

