-- ==== Sys2Proof/Machine/Preempt.lean ====
section
/-! DEFINITION. Pre-emption, saving and restoring, and RTE (09_control_sync_system.md R213; 19_traps_preemption_debug.md R343 to R354; 01
R28). -/

namespace Sys2Proof.Machine

/-! ## Windows (R342) -/

/-- Nothing of a group runs: it is gone, or every split of it is stopped or parked (R342, R358). -/
def groupStopped (s : State) (gid : Nat) : Bool :=
  match s.group? gid with
  | none => true
  | some g => g.splits.all (fun q => !(q.st == .ready || q.st == .ebb || q.st == .fault || q.st == .super))

/-- A control window's command is done once every block that a PREEMPT waits for is saved or gone, and every group that a STOP waits for has
stopped. -/
def settleWindows (s : State) : State :=
  let gone (bid : Nat) : Bool :=
    match s.block? bid with
    | some b => b.st == .saved || b.st == .ended || b.st == .ending || b.st == .waiting
    | none => true
  { s with sys := { s.sys with windows := s.sys.windows.map (fun w =>
      if w.busy && w.waiting.all gone && w.stops.all (groupStopped s) then { w with busy := false, status := 0, waiting := [], stops := [] } else w) } }

/-! ## Asking for a pre-emption (R343) -/

/-- Ask a block to leave: one that runs stops now, one in its restore routine once that ends (R340). -/
def askStop (s : State) (x : Block) (keep : Bool) : State :=
  s.mapBlock x.bid (fun y =>
    match y.st with
    | .running => { y with st := .stopping, keep, preempts := y.preempts + 1 }
    | .restoring => { y with asked := some (y.asked.getD keep) }
    | _ => y)

/-- Pre-empt a block and the other members of its cohort; a rival leaves alone (R254, R255). -/
def preemptCohort (s : State) (b : Block) (keep : Bool) : State :=
  (b :: cohortOthers s b).foldl (fun s x => askStop s x keep) s

/-- A block whose restore has ended runs, or stops where it has been asked to leave. -/
def enterRunning (s : State) (bid : Nat) : State :=
  s.mapBlock bid (fun x =>
    match x.asked with
    | some keep => { x with st := .stopping, evict := [], keep, preempts := x.preempts + 1, asked := none }
    | none => { x with st := .running, evict := [] })

/-! ## Stopping (R343) -/

/-- The groups that run a block's routine: those with a live lane. -/
def liveGroups (s : State) (bid : Nat) : List Group := (s.groupsOf bid).filter Group.alive

/-- Every result has returned, every split in EBB has gone on, and stores have been performed as far as nothing holds them. -/
def drainAll (s : State) (gs : List Group) : State :=
  gs.foldl (fun s g =>
    let s1 := settleGroup (drainGroup s g.gid) g.gid
    (List.range 4).foldl (fun s i => performBuffer s g.gid i) s1) s

/-- Nothing of a group is in flight, it is in user mode, and no instruction of it has appends to make. -/
def groupStill (g : Group) : Bool := g.pending.isEmpty && (groupBuffer g).isEmpty && !g.mode && !g.splits.any midAppend

/-- A parked split is set back to its parking instruction, with a pending grant withdrawn. -/
def setBack (g : Group) (q : Split) : Split :=
  if q.st == .wait || q.st == .bwait || q.st == .yield || q.st == .bar || q.st == .regreq then { unparkSplit g q with outst := 0 } else q

/-- Set back every parked split of a group. -/
def setBackGroup (s : State) (gid : Nat) : State :=
  match s.group? gid with
  | none => s
  | some g =>
    let s1 := leaveObjects s g
    s1.mapGroup gid (fun g => { g.mapSplits (setBack g) with req := 0 })

/-- Freeze the block's bound tags, remembering which its program had not frozen. -/
def freezeTags (s : State) (b : Block) : State :=
  (blockTags s b).foldl (fun s x => if x.st == .bound then s.mapTag x.cluster x.p (fun y => { y with st := .frozen, thawing := true }) else s) s

/-- Renew every unexpired segment of the block's allocations. -/
def renewAll (s : State) (b : Block) : State :=
  let segs := (savedAllocs s b).flatMap (fun a => a.segs.filter (fun g => decide (lookupD s.mm.segAge g < a.life * ageMicro)))
  { s with mm := { s.mm with segAge := s.mm.segAge.map (fun x => if segs.contains x.1 then (x.1, 0) else x) } }

/-- A group enters its save or restore routine as split 0 with every lane; its echo entries go unchecked (R343, R376). -/
def enterRoutine (s : State) (g : Group) (restore leader keep : Bool) : State :=
  let p : Split :=
    { freshSplit (g.tvec.setWidth 48) 0 s.seq with
      st := .super, gwct := g.splits.foldl (fun m q => max m q.gwct) 0, storeErrs := g.splits.flatMap (·.storeErrs), scClu := s.seq, scDev := s.seq }
  let s0 : State := { s with fe := { s.fe with echo := s.fe.echo.filter (fun e => e.gid != g.gid) } }
  let s1 := s0.mapGroup g.gid (fun g =>
    { g with
      trapCause := 0x19, trapPc := 0, trapMask := 0, trapAddr := BitVec.ofNat 64 (restore.toNat + 2 * leader.toNat + 4 * keep.toNat),
      pmode := false, mode := true, splits := [p], pending := [], routineDone := false })
  { s1 with seq := s1.seq + 1 }

/-- The lowest group of a block that enters its routine leads it (R343). -/
def isLeader (gs : List Group) (g : Group) : Bool := gs.all (fun x => decide (g.index ≤ x.index))

/-- The groups of a block that are on its core: those not evicted. -/
def residentGroups (s : State) (b : Block) : List Group := (liveGroups s b.bid).filter (fun g => !(evicted b g && g.routineDone))

/-- Write a block's save area and enter the routine in every group on the core; those asked for their registers go with the block
(DEDUCED, log entry 48). -/
def beginSave (s : State) (b : Block) (gs : List Group) : State :=
  match partyWrites (saveParty s b) .dev (savePieces s b gs b.keep) s with
  | (s1, .ok _) =>
    (gs.foldl (fun s g => enterRoutine s g false (isLeader gs g) b.keep) s1).mapBlock b.bid (fun x =>
      { x with st := .saving, evict := x.evict.filter (fun k => !gs.any (fun g => g.index == k)) })
  | (s1, _) => s1

/-- A block that leaves has stopped: nothing of its groups is in flight or parked, its copies are finished, and its tags are frozen and drained. -/
def blockStill (s : State) (b : Block) : Bool :=
  let gs := residentGroups s b
  gs.all groupStill && gs.all (fun g => g.splits.all (fun q => q.park == .none && q.echoTrap.isNone)) &&
    !s.en.copies.any (fun c => c.bid == b.bid) && (blockTags s b).all (fun t => t.st == .frozen && drained t)

/-- The other members of a cohort that leaves have stopped too, or are past it (R343). -/
def cohortStill (s : State) (b : Block) : Bool :=
  (cohortOthers s b).all (fun x => x.st != .restoring && x.st != .running && (x.st != .stopping || blockStill s x))

/-- A block that is being stopped, as far as it can go: to the entry of its save routine. An ECHO that is pending is taken first (R340). -/
def stopStep (s : State) (b : Block) : State :=
  let gs := residentGroups s b
  match gs.findSome? (fun g => (g.splits.find? (fun q => q.echoTrap.isSome && !g.mode)).map (fun q => (g.gid, q.idx))) with
  | some (gid, i) => raiseEcho s gid i
  | none =>
    if gs.any (fun g => g.mode) then s
    else
      let s1 := drainAll s gs
      let gs1 := residentGroups s1 b
      if !gs1.all groupStill then s1
      else
        let s2 := freezeTags (gs1.foldl (fun s g => setBackGroup s g.gid) s1) b
        if !blockStill s2 b || !cohortStill s2 b then s2
        else
          let s3 := if b.keep then renewAll s2 b else s2
          beginSave s3 b (residentGroups s3 b)

/-! ## The end of a save (R346) -/

/-- A group's registers and tables return to the core: what it keeps is what no one can read back. -/
def clearGroup (g : Group) : Group :=
  { g with
    v := [], s := [], k := [], p := [], fflags := [], splits := [], pending := [], mode := false, pmode := false, step := false, replays := 0, fcsr := 0,
    trapCause := 0, trapPc := 0, trapMask := 0, trapAddr := 0 }

/-- What a block that leaves without KEEP gives up: its own allocations; and with the cohort's last member on a core, the cohort's, which member 0's
save holds. A rival's map stays live (R254, R347). -/
def givenUp (s : State) (b : Block) (a : Alloc) : Bool :=
  let others := cohortOthers s b
  let on (x : Block) : Bool := x.st == .running || x.st == .stopping || x.st == .saving || x.st == .restoring
  b.forkRec.isNone && mine b a &&
    (!a.cohortOwned || (!others.any on && (b.member == 0 || others.any (fun x => x.member == 0 && x.st == .saved))))

/-- The block leaves its cores: its registers, tags and, unless kept, its scratchpad. -/
def leaveSaved (s : State) (b : Block) : State :=
  let s1 := (blockTags s b).foldl (fun s x => clearTag s x.cluster x.p) s
  let s2 := if b.keep then s1 else freeAllocs s1 (givenUp s b)
  let s3 := s2.mapGroups (fun g => if g.bid == b.bid then { clearGroup g with routineDone := false } else g)
  settleWindows (s3.mapBlock b.bid (fun x => { x with st := .saved, evict := [] }))

/-! ## Restoring (R351, R352) -/

/-- A group's area read back: register count, split records and stacks; none while it cannot be read. -/
def readGroupArea (s : State) (b : Block) (g : Group) : State × Option (Nat × List Split) :=
  let base := groupArea b.saveBase g.index
  match partyReads (regionParty s b) base 48 s with
  | (s1, .ok bs) =>
    let sp := (List.range 4).filterMap (fun i => splitOfBytes i ((bs.drop (0x80 + 32 * i)).take 32) ((bs.drop (0x400 + 0x200 * i)).take 0x200) s1.seq)
    (s1, some (field bs 4 4 % 128, sp))
  | (s1, _) => (s1, none)

/-- Read every live group's area. -/
def readAreas (b : Block) : List Group → State → State × Option (List (Nat × Nat × List Split))
  | [], s => (s, some [])
  | g :: r, s =>
    match readGroupArea s b g with
    | (s1, none) => (s1, none)
    | (s1, some x) =>
      match readAreas b r s1 with
      | (s2, some xs) => (s2, some ((g.gid, x) :: xs))
      | e => e

/-- A split in JOIN carries the E bit of its JOIN, read from memory. -/
def joinE (s : State) (b : Block) (q : Split) : Split :=
  if q.st == .join then
    match (fetchWord s (s.partyOf b) q.pc).2 with
    | .ok w => { q with nextEbb := w.getLsbD 30 }
    | _ => q
  else q

/-- A group that was saved stopped, or that a STOP has named since, is restored stopped, in its JOIN splits too (R358, R360). -/
def restoredSplit (stopped : Bool) (q : Split) : Split := { q with stopReq := q.stopReq || stopped }

/-- The queued MMAs of a restored block hold pins on their operands again, once the image is there: nothing of a FROZEN tag is read before (R226, R353). -/
def pinRestored (s : State) (b : Block) : State :=
  (blockTags s b).foldl (fun s x => s.mapTag x.cluster x.p (fun y => { y with pins := y.queue.flatMap (mmaPins s b) })) s

/-- Install each group's splits, leave the routine, and thaw the tags that the save froze (DEDUCED, log entry 48). -/
def finishRestore (s : State) (b : Block) (gs : List Group) : State :=
  match readAreas b gs s with
  | (s1, none) => s1
  | (s1, some xs) =>
    let s2 := xs.foldl (fun s x =>
      s.mapGroup x.1 (fun g =>
        let r := g.splits.head?
        { g with
          splits := x.2.2.map (fun q =>
            { joinE s1 b (restoredSplit (g.stopAsked || x.2.2.any (fun y => y.st == .stop)) q) with gwct := (r.map (·.gwct)).getD 0, storeErrs := if some q.idx == (x.2.2.head?.map (·.idx)) then (r.map (·.storeErrs)).getD [] else [] })
          mode := false, pmode := false, routineDone := false, stopAsked := false })) s1
    let s3 := (blockTags s2 b).foldl (fun s x =>
      if x.thawing then s.mapTag x.cluster x.p (fun y => { y with st := .bound, thawing := false }) else s) s2
    { s3 with seq := s3.seq + 1 }

/-- Evicted groups whose restore routine has ended run their splits again (R354). -/
def returned (s : State) (b : Block) (gs : List Group) : State :=
  (gs.filter (fun g => evicted b g && g.routineDone && g.trapAddr.getLsbD 0)).foldl (fun s g =>
    let s1 := finishRestore s b [g]
    match s1.group? g.gid with
    | some g1 => if g1.routineDone then s1 else s1.mapBlock b.bid (fun x => { x with evict := x.evict.filter (fun k => k != g.index) })
    | none => s1) s

/-- The routines of a block, or of evicted groups, that have all ended go on: to the save's end, or to the restored splits. -/
def routineStep (s : State) (bid : Nat) : State :=
  match s.block? bid with
  | none => s
  | some b =>
    let gs := liveGroups s bid
    match b.st with
    | .saving => if gs.all (fun g => g.routineDone) then leaveSaved s b else s
    | .restoring =>
      if gs.all (fun g => g.routineDone) then
        let s1 := finishRestore s b gs
        if (liveGroups s1 bid).all (fun g => !g.routineDone) then enterRunning (pinRestored s1 b) bid else s1
      else s
    | .running => returned s b gs
    | .stopping => returned s b gs
    | _ => s

/-! ## RTE (R213, R346, R352) -/

/-- The split that RTE resumes, in the state it had: FAULT where the trap kept its unfinished lanes and PC is unchanged (R294) (DEDUCED, log entry 48). -/
def resumeSplit (g : Group) (e : Bool) (q : Split) : Split :=
  let back := q.kept != 0 && q.keptPc.setWidth 64 == g.trapPc
  let p := { q with pc := g.trapPc.setWidth 48, fmask := if back then q.kept else 0, faddr := [], kept := 0, phase := 0, appends := none, tagWait := none, trapStep := g.step,
                     abort := q.keptAbort <|> q.abort, keptAbort := none }
  let st := stateAfter e g p
  { p with stepOne := false, stepEnd := p.stepOne && st == .ebb, st := if back && st == .ready then .fault else st }

/-- RTE of a trap handler. -/
def returnTrap (e : Bool) (s : State) (g : Group) (p : Split) : Result :=
  if g.trapPc.toNat % 4 != 0 then trapHere s g p (.mk' 0x04 p.active g.trapPc)
  else
    let want := g.trapCause.toNat / 256 % 4
    let n := if (g.split? want).isSome then want else p.idx
    let g1 := { g with mode := g.pmode }
    let go (q : Split) : Split :=
      let q1 := { q with frozen := false }
      if q.idx == n then { resumeSplit g1 e q1 with order := s.seq }
      else if q.idx == p.idx then { q1 with pc := q1.pc + 4, st := runState g1 q1, stepOne := false, stepEnd := false, order := s.seq }
      else q1
    let s1 := (issued s g).mapGroup g.gid (fun _ => g1.mapSplits go)
    .next (settleGroup (afterRetire { s1 with seq := s1.seq + 1 } g.gid n e false) g.gid)

/-- RTE of a restore routine: the loads and stores that the routine has issued come first, so that the block runs on the image (R352). -/
def returnRestore (s : State) (g : Group) (p : Split) : Result :=
  let s1 := performBuffer (drainGroup s g.gid) g.gid p.idx
  again s1 g.gid p.idx (fun g q =>
    if q.buffer.isEmpty then .next (routineStep ((issued s1 g).mapGroup g.gid (fun x => { x with routineDone := true })) g.bid) else suspend s1)

/-- RTE. -/
def execRte (e : Bool) (s : State) : Result :=
  withIssuer s (fun g p =>
    if !g.mode then privilege s g p
    else if g.trapCause.toNat % 64 = 0x19 then
      if g.trapAddr.getLsbD 0 then returnRestore s g p
      else
        afterFence (releaseAt s g.gid p.idx .dev) g.gid p.idx (fun s1 g _ =>
          .next (routineStep ((issued s1 g).mapGroup g.gid (fun x => { x with routineDone := true })) g.bid))
    else returnTrap e s g p)

/-! ## Evicting one group (R28, R354) -/

/-- Ask for a group's eviction. -/
def askEvict (s : State) (g : Group) : State :=
  s.mapBlock g.bid (fun b => { b with evict := if b.evict.contains g.index then b.evict else b.evict ++ [g.index] })

/-- A group that is being evicted, as far as it can go: to the entry of its save routine; an ECHO that is pending is taken first (R340, R354)
(DEDUCED, log entry 73). -/
def evictStep (s : State) (b : Block) (gid : Nat) : State :=
  match s.group? gid with
  | none => s
  | some g0 =>
    match g0.splits.find? (fun q => q.echoTrap.isSome) with
    | some q => if g0.mode then s else raiseEcho s gid q.idx
    | none =>
    if g0.mode || g0.routineDone then s
    else
      let s1 := drainAll s [g0]
      match s1.group? gid with
      | none => s1
      | some g =>
        if !groupStill g then s1
        else
          let s2 := setBackGroup s1 gid
          match s2.group? gid with
          | none => s2
          | some g2 =>
            match partyWrites (saveParty s2 b) .dev (groupHardware g2 (groupArea b.saveBase g2.index)) s2 with
            | (s3, .ok _) => enterRoutine s3 g2 false false false
            | (s3, _) => s3

/-- An evicted group returns to its core and starts its restore routine, once its registers fit. -/
def returnGroup (s : State) (b : Block) (g : Group) : State :=
  match readGroupArea s b g with
  | (s1, some (n, _)) =>
    if freeRegs s1 b.cluster b.core < n then s1
    else enterRoutine (s1.mapGroup g.gid (fun x => { clearGroup x with count := n })) { g with splits := [] } true false false
  | (s1, none) => s1

end Sys2Proof.Machine
end

