-- ==== Sys2Proof/Machine/Control.lean ====
section
/-! DEFINITION. The control window's commands: PREEMPT, KILL, STOP, RESUME, STEP, DEBUGON, DEBUGOFF, and comparator matches
(19_traps_preemption_debug.md R342, R355 to R360). -/

namespace Sys2Proof.Machine

/-! ## Targets (R342) -/

/-- The launches that a window's CLAUNCH names: of the function's own queues. -/
def targetLaunches (s : State) (fn : Nat) : List Launch :=
  s.fe.launches.filter (fun l => l.seq == (s.window fn).launch && (s.queue l.q).fn == fn && !l.complete)

/-- CBLOCK names every block. -/
def allBlocks (s : State) (fn : Nat) : Bool := (s.window fn).block == 0xFFFFFFFF

/-- The blocks that a window names, not yet ended. -/
def targetBlocks (s : State) (fn : Nat) : List Block :=
  let lids := (targetLaunches s fn).map (·.lid)
  s.fe.blocks.filter (fun b => lids.contains b.lid && b.st != .ended && (allBlocks s fn || b.index == (s.window fn).block))

/-- The groups that a window names. -/
def targetGroups (s : State) (fn : Nat) : List Group :=
  (targetBlocks s fn).flatMap (fun b => (liveGroups s b.bid).filter (fun g => g.index == (s.window fn).group.toNat))

/-- A command of the function's window still runs: blocks are awaited, or a step has not ended (DEDUCED, log entry 44). -/
def windowBusy (s : State) (fn : Nat) : Bool :=
  (s.window fn).busy ||
    s.fe.groups.any (fun g => g.splits.any (fun q => q.stepOne) && (((s.block? g.bid).map (fun b => (s.queueOfBlock b).fn)).getD 512 == fn))

/-- End a command with a status. -/
def endCommand (s : State) (fn st : Nat) : State := s.mapWindow fn (fun w => { w with busy := false, status := BitVec.ofNat 3 st, waiting := [], stops := [] })

/-- A write of a function's COP: ignored until boot is complete, and while a command runs (R342, R410). -/
def command (fn : Nat) (s : State) (k : State) : Result :=
  if s.sys.stage != .ready then .next s else .next (wakeBar (if windowBusy s fn then s else k) fn 0x40010)

/-- A group is inside its save or restore routine. -/
def inRoutineNow (g : Group) : Bool := g.mode && g.trapCause.toNat % 64 == 0x19 && !g.routineDone

/-- Some target is inside a save or restore routine, in whole or with an evicted group (R354, R360). -/
def inSave (s : State) (bs : List Block) : Bool :=
  bs.any (fun b => b.st == .saving || b.st == .restoring || (liveGroups s b.bid).any (fun g => evicted b g && inRoutineNow g))

/-! ## PREEMPT (R343, R360) -/

/-- PREEMPT: done once every block of the cohorts is saved or gone (DEDUCED, log entry 44). -/
def execPreempt (fn : Nat) (keep : Bool) (s : State) : Result :=
  let bs := targetBlocks s fn
  command fn s
    (if bs.isEmpty then endCommand s fn 1
     else if inSave s bs then endCommand s fn 5
     else
       let s1 := bs.foldl (fun s b => preemptCohort s b keep) s
       let ids := (s1.fe.blocks.filter (fun x => bs.any (fun b => b.lid == x.lid && b.cohort == x.cohort) && (x.st == .stopping || x.asked.isSome))).map (·.bid)
       settleWindows (s1.mapWindow fn (fun w => { w with busy := true, status := 0, waiting := ids })))

/-! ## KILL (R355, R356) -/

/-- The cohort's objects on which splits of its members are parked. -/
def cohortObjects (s : State) (bs : List Block) : List Nat :=
  (bs.flatMap (fun x => (s.groupsOf x.bid).flatMap (fun g => g.splits.filterMap (fun q =>
    match q.park with
    | .object la => if ((locate s x la).map (·.1.cohortOwned)).getD false then keyAt s x la else none
    | _ => none)))).eraseDups

/-- The splits of a killed block's cohort that wait for the cohort are released with BARRIER: at its objects, which then have no waiter,
and at the cohort barrier (R198, R203). -/
def releaseCohort (s : State) (b : Block) : State :=
  let bs := cohortOthers s b
  let s1 := (cohortObjects s bs).foldl (fun s key => trapWaiters s key 0x15 id) s
  bs.foldl (fun s x =>
    (s.groupsOf x.bid).foldl (fun s g =>
      g.splits.foldl (fun s q => if q.park == .barrier 16 then raiseReleased s g.gid q.idx 0x15 16 false else s) s) s) s1

/-- End a block with every rival of it, discarding views, stores and results; the launch records it as done. One recorded complete whose commit is
not over finishes it first (R259, R260). -/
def killBlock (s : State) (b : Block) : State :=
  if mustFinish s b then leaveEnding s b else
  let rs := rivalsOf s b
  let roots := rs.filterMap (fun r => (viewChain s 5 r.view).getLast?)
  let s1 := roots.foldl (fun s v => discardTree s v b.bid) s
  let s2 := ((s1.fe.blocks.filter (fun x => x.lid == b.lid && x.index == b.index && x.bid != b.bid)).map (·.bid)).foldl removeBlock s1
  let s3 := { s2 with mm := { s2.mm with forks := s2.mm.forks.filter (fun f => !(f.base.lid == b.lid && f.base.index == b.index)) } }
  let s4 := releaseCohort (leaveBlock s3 b) b
  let s5 := match s4.launch? b.lid with
    | some l => releaseStage s4 l b.index.toNat
    | none => s4
  settleWindows (gcSegs s5)

/-- Kill a whole launch: its blocks, and those not placed yet (R355). -/
def killLaunch (s : State) (l : Launch) : State :=
  let idx := ((s.fe.blocks.filter (fun b => b.lid == l.lid && b.st != .ended)).map (·.index)).eraseDups
  let s1 := idx.foldl (fun s i =>
    match s.fe.blocks.find? (fun b => b.lid == l.lid && b.index == i && b.st != .ended) with
    | some b => killBlock s b
    | none => s) s
  let s2 := s1.mapLaunch l.lid (fun y => { y with killed := true, nextBlock := y.total, done := (List.range y.total).filter (fun n => !s1.fe.blocks.any (fun b => b.lid == l.lid && b.index.toNat == n && b.st == .ending)) })
  (List.range l.total).foldl (fun s n => releaseStage s l n) s2

/-- Kill one block: an atomic block that has not committed is queued again (R260). -/
def killTarget (s : State) (b : Block) : State :=
  match s.block? b.bid with
  | none => s
  | some x => if s.modeOf x == 2 && !x.committed then settleWindows (abortAtomic s x) else killBlock s x

/-- KILL (DEDUCED, log entry 44). -/
def execKill (fn : Nat) (s : State) : Result :=
  let ls := targetLaunches s fn
  let bs := targetBlocks s fn
  command fn s
    (if ls.isEmpty || (!allBlocks s fn && bs.isEmpty) then endCommand s fn 1
     else if allBlocks s fn then endCommand (ls.foldl killLaunch s) fn 0
     else endCommand (bs.foldl killTarget s) fn 0)

/-! ## STOP, RESUME, STEP (R358, R359, R360) -/

/-- A stop reaches a split: a runnable one of a group in user mode stops now, any other when its wait or handler ends. -/
def stopSplit (g : Group) (q : Split) : Split :=
  { q with stopReq := true, st := if !g.mode && (q.st == .ready || q.st == .fault) then .stop else q.st }

/-- A group's splits lie in its save area: its block is saved, or the group is evicted (R346, R354). -/
def isSaved (s : State) (g : Group) : Bool :=
  match s.block? g.bid with
  | some b => b.st == .saved || (evicted b g && g.routineDone && !g.trapAddr.getLsbD 0)
  | none => false

/-- A stop reaches a group: at once, or, where it is saved, when it has been restored (R358). -/
def stopGroup (s : State) (g : Group) : Group := if isSaved s g then { g with stopAsked := true } else g.mapSplits (stopSplit g)

/-- STOP: done once nothing of the groups runs (R342, R358). -/
def execStop (fn : Nat) (stopblk : Bool) (s : State) : Result :=
  let bs := targetBlocks s fn
  let gs := targetGroups s fn
  command fn s
    (if gs.isEmpty then endCommand s fn 1
     else if inSave s bs then endCommand s fn 5
     else
       let hit (x : Group) : Bool := gs.any (fun g => g.gid == x.gid || (stopblk && g.bid == x.bid))
       let s1 := s.mapGroups (fun x => if hit x then stopGroup s x else x)
       settleWindows (s1.mapWindow fn (fun w =>
         { w with busy := true, status := 0, waiting := [], stops := (s1.fe.groups.filter (fun x => hit x && x.alive)).map (·.gid) })))

/-- A stopped split goes on. -/
def resumeStopped (g : Group) (q : Split) : Split :=
  let q1 := { q with stopReq := false, stepOne := false, stepEnd := false }
  if q.st == .stop then { q1 with st := if q.fmask != 0 then .fault else runState g q1 } else q1

/-- RESUME. -/
def execResume (fn : Nat) (s : State) : Result :=
  let gs := targetGroups s fn
  command fn s
    (if gs.isEmpty then endCommand s fn 1
     else if !gs.any (fun g => g.splits.any (fun q => q.st == .stop)) then endCommand s fn 3
     else endCommand (s.mapGroups (fun x => if gs.any (fun g => g.gid == x.gid) then x.mapSplits (resumeStopped x) else x)) fn 0)

/-- STEP: the split issues one instruction at its next slot, and the command ends with it (DEDUCED, log entry 44). -/
def execStep (fn : Nat) (s : State) : Result :=
  let gs := targetGroups s fn
  let i := (s.window fn).split.toNat
  command fn s
    (match gs with
      | [] => endCommand s fn 1
      | g :: _ =>
        if !g.splits.any (fun q => q.st == .stop) then endCommand s fn 3
        else
          match g.split? i with
          | none => endCommand s fn 4
          | some q =>
            if q.st != .stop || q.frozen then endCommand s fn 4
            else endCommand (s.mapSplit g.gid i (fun q => { q with stepOne := true, stopReq := true })) fn 0)

/-! ## Debugging (R357) -/

/-- DEBUGON. -/
def execDebugon (fn : Nat) (stopblk : Bool) (s : State) : Result :=
  let bs := targetBlocks s fn
  command fn s
    (if bs.isEmpty then endCommand s fn 1
     else endCommand (bs.foldl (fun s b => s.mapBlock b.bid (fun x => { x with debug := true, stopBlk := stopblk })) s) fn 0)

/-- DEBUGOFF. -/
def execDebugoff (fn : Nat) (s : State) : Result :=
  let bs := targetBlocks s fn
  command fn s
    (if bs.isEmpty then endCommand s fn 1
     else endCommand (bs.foldl (fun s b => s.mapBlock b.bid (fun x => { x with debug := false, stopBlk := false })) s) fn 0)

/-- A fetch matches an enabled comparator: the group stops under debugging, else BREAKPOINT is raised before the instruction issues. -/
def execBreakpointMatch (gid sp n : Nat) (s : State) : Result :=
  match s.split? gid sp with
  | none => .next s
  | some (g, p) =>
    if comparator s g p != some n then .next s
    else if ((s.block? g.bid).map (·.debug)).getD false then .next (debugStop s g p)
    else .next (raiseAt s gid sp p.pc (.mk' 0x17 p.active (BitVec.ofNat 64 (0xFFFFFFFFFFFF0000 + n))) false)

end Sys2Proof.Machine
end

