-- ==== Sys2Proof/Machine/Place.lean ====
section
/-! DEFINITION. The work distributor: what may be placed and in which order, placing cohorts, clones and saved blocks, evictions, and
register deadlocks (15_scheduling.md R311, R312, R314, R318; 03 R94; 11 R247; 19 R351; 01 R28, R45). -/

namespace Sys2Proof.Machine

/-! ## A scheduler for a group (R318) -/

/-- The scheduler of a core that holds the fewest resident groups, the lowest of them (R318). -/
def leastSched (s : State) (cluster core : Nat) : Nat :=
  let n (k : Nat) : Nat := ((coreGroups s cluster core).filter (fun g => g.sched == k)).length
  (List.range 4).foldl (fun m k => if n k < n m then k else m) 0

/-! ## Registers at placement (R26, R94) -/

/-- The child of a merged launch that holds a linear block index, and the index within it (R315). -/
def childAt : List Child → Nat → Option (Child × Nat)
  | [], _ => none
  | c :: r, n => if n < childBlocks c then some (c, n) else childAt r (n - childBlocks c)

/-- The block counts and the parameter bytes that block `n` reads, and its index within them (DEDUCED, log entry 47). -/
def blockFrame (l : Launch) (n : Nat) : (Nat × Nat) × List Byte × Nat :=
  match childAt l.children n with
  | some (c, k) => ((c.x, c.y), c.params, k)
  | none => ((l.dimx, l.dimy), l.params, n)

/-- The words that the argument entries give (R94). -/
def argWords (k : Kernel) (params : List Byte) : List (Nat × Word) :=
  k.args.flatMap (fun a =>
    let n := if a.wide then 8 else 4
    let v := if params.length < a.off + n then a.dflt.toNat else field params a.off n
    (a.reg, BitVec.ofNat 32 v) :: (if a.wide then [(a.reg + 1, BitVec.ofNat 32 (v / 2 ^ 32))] else []))

/-- GANG of group `j` with gangs of `c` (R79): members `j - j mod c` on. -/
def gangWord (c j : Nat) : DWord :=
  let b := j - j % c
  BitVec.ofNat 64 (c + ((List.range c).map (fun i => (b + i) * 2 ^ (8 + 5 * i))).sum)

/-- The save-region address of group `j` (R340, R347). -/
def groupSave (base j : Nat) : DWord := BitVec.ofNat 64 (groupArea base j)

/-- Place the groups of a block on its core (R26, R94). -/
def placeGroups (s : State) (l : Launch) (b : Block) (words : List (Nat × Word)) : State :=
  let k := l.kernel
  let tvec := (s.partition (s.partyOf b).part).tvec
  (List.range k.groups).foldl (fun s j =>
    let g0 := freshGroup s.nextId b.bid j k.regs (leastSched s b.cluster b.core) b.entry k.fmtInit (gangWord k.gang j) (tvec.setWidth 64)
      (groupSave b.saveBase j) s.seq
    let g := { g0 with s := words.foldl (fun m x => sset m x.1 x.2) [] }
    { s with nextId := s.nextId + 1, seq := s.seq + 1, fe := { s.fe with groups := s.fe.groups ++ [g] } }) s

/-! ## What a block holds from its placement (R94, R256, R259, R312) -/

/-- Allocate the entries of a kernel in order: the registers they give; none where one does not fit. -/
def placeScratch (b : Block) (cohort : Bool) (owner : Nat) : List ScratchEntry → State → Option (State × List (Nat × Word))
  | [], s => some (s, [])
  | x :: r, s =>
    match allocate s b cohort owner x.bytes x.life with
    | (_, none) => none
    | (s1, some a) => (placeScratch b cohort owner r { s1 with seq := s1.seq + 1 }).map (fun y => (y.1, (x.reg, BitVec.ofNat 32 a) :: y.2))

/-- The cohort's shared allocations on the block's cluster, entry by entry, with the address that its members hold for the entry: one that the cohort still
holds there keeps it, one that it does not, or no longer, is made (DEDUCED, log entry 47). -/
def shareEntries (b : Block) : List (ScratchEntry × Option Nat) → State → Option (State × List (Nat × Nat))
  | [], s => some (s, [])
  | (x, known) :: r, s =>
    match known.filter (fun a => s.mm.allocs.any (fun y =>
      y.cohortOwned && y.owner == cohortKey b && y.cluster == b.cluster && y.base == a && y.size == x.bytes && y.life == x.life)) with
    | some a => (shareEntries b r s).map (fun y => (y.1, (x.reg, a) :: y.2))
    | none =>
      match allocate s b true (cohortKey b) x.bytes x.life with
      | (_, none) => none
      | (s1, some a) => (shareEntries b r { s1 with seq := s1.seq + 1 }).map (fun y => (y.1, (x.reg, a) :: y.2))

/-- The cohort's shared allocations: made with its first member, and found again by the others (R94). -/
def placeShared (s : State) (b : Block) (xs : List ScratchEntry) : Option (State × List (Nat × Word)) :=
  let known := (((s.launch? b.lid).map (·.shared)).getD []).find? (fun y => y.1 == b.cohort)
  (shareEntries b (xs.mapIdx (fun i x => (x, known.bind (fun y => y.2[i]?)))) s).map (fun y =>
    (y.1.mapLaunch b.lid (fun l => { l with shared := l.shared.filter (fun z => z.1 != b.cohort) ++ (if y.2.isEmpty then [] else [(b.cohort, y.2.map (·.2))]) }),
      y.2.map (fun x => (x.1, BitVec.ofNat 32 x.2))))

/-- Pools of the core's quarter that can enter FIFO mode: without an allocation, or with an empty FIFO that no block holds; a pool in cache mode is no free
pool (DESIGN CHOICE, log entry 89). -/
def fifoPools (s : State) (b : Block) : List Nat :=
  (List.range 16).filterMap (fun i =>
    let p := 16 * b.core + i
    let x := s.pool b.cluster p
    let used := (keptAllocs s).any (fun a => a.segs.any (fun k => k / 65536 == b.cluster && k % 65536 / 768 == p))
    if (x.mode == .scratch && !used) || (x.mode == .fifo && x.holder.isNone) then some p else none)

/-- Set up the FIFO entries of a kernel (DEDUCED, log entry 36). -/
def placeFifos (b : Block) : List FifoEntry → State → Option (State × List (Nat × Word))
  | [], s => some (s, [])
  | x :: r, s =>
    let ps := fifoPools s b
    match ps[Config.allocChoice s.seq % ps.length]? with
    | none => none
    | some p =>
      let s1 := s.mapPool b.cluster p (fun y =>
        { y with mode := .fifo, width := x.width, depth := x.depth, life := x.life, holder := some b.bid, entries := [] })
      (placeFifos b r { s1 with seq := s1.seq + 1 }).map (fun y => (y.1, (x.reg, BitVec.ofNat 32 (p * 2 ^ 19)) :: y.2))

/-- Open the view of a resilient or atomic block; none where no identifier is free. -/
def placeView (s : State) (bid : Nat) (mode : BitVec 2) : Option State :=
  if mode = 0 then some s
  else
    match freeViewIds s with
    | [] => none
    | v :: _ => some ((openView s v 0 (if mode = 1 then .interval else .block)).mapBlock bid (fun x => { x with view := v }))

/-- Bytes of a block's save region (DESIGN CHOICE, log entry 31). -/
def saveRegion : Nat := 2 ^ 26

/-- The save region of a block that has none: the lowest of its partition's that no live block uses (DESIGN CHOICE, log entry 31). -/
def assignSave (s : State) (b : Block) : Nat :=
  let part := (s.partyOf b).part
  let base := (s.partition part).saveBase.toNat
  let used := (s.fe.blocks.filter (fun x => x.bid != b.bid && x.st != .ended && x.saveBase != 0)).map (·.saveBase)
  ((List.range (used.length + 1)).map (fun i => base + saveRegion * i)).find? (fun a => !used.contains a) |>.getD base

/-- A core takes a block that needs registers and groups: it is open to the block's tenancy, has the room, and keeps it for no other (R28, R45). -/
def coreTakesBlock (s : State) (b : Block) (cluster core regs groups : Nat) : Bool :=
  let P := s.partyOf b
  coreOpen s P.part P.tenancy cluster core && coreRoom s cluster core regs groups && !awaited s cluster core (blockRank s b) && !inDeadlock s cluster core

/-- Place a block that starts from its entry on a core; none where a part of it fails (R312). -/
def bringUp (s : State) (l : Launch) (bid cluster core : Nat) : Option State :=
  match s.block? bid with
  | none => none
  | some b0 =>
    let k := l.kernel
    if !coreTakesBlock s b0 cluster core (k.groups * k.regs) k.groups then none
    else
      let b := { b0 with cluster, core, st := .running, entry := k.entry, saveBase := if b0.saveBase = 0 then assignSave s b0 else b0.saveBase }
      let s0 := s.mapBlock bid (fun _ => b)
      match placeShared s0 b (k.scratch.filter (·.shared)) with
      | none => none
      | some (s1, w1) =>
        match placeScratch b false bid (k.scratch.filter (fun x => !x.shared)) s1 with
        | none => none
        | some (s2, w2) =>
          match placeFifos b k.fifos s2 with
          | none => none
          | some (s3, w3) =>
            match placeView s3 bid k.mode with
            | none => none
            | some s4 =>
              let fr := blockFrame l b.index.toNat
              let s5 := placeGroups s4 l b (argWords k fr.2.1 ++ w1 ++ w2 ++ w3)
              if k.mode = 1 then
                some (match s5.block? bid with
                  | some x => s5.mapBlock bid (fun y => { y with shadow := some (takeShadow s5 x false) })
                  | none => s5)
              else some s5

/-- Blocks that a launch's next cohort consists of, as they are made: x runs fastest, within a child's own counts (R315). -/
def newBlock (s : State) (l : Launch) (n : Nat) : Block :=
  let fr := blockFrame l n
  let k := fr.2.2
  let x := max 1 fr.1.1
  let y := max 1 fr.1.2
  { bid := s.nextId, lid := l.lid, index := BitVec.ofNat 32 n, x := BitVec.ofNat 32 (k % x), y := BitVec.ofNat 32 (k / x % y),
    z := BitVec.ofNat 32 (k / x / y), cohort := n / l.kernel.cohort, member := n % l.kernel.cohort, st := .waiting, cluster := 0, core := 0, rival := 0,
    view := 0, forkRec := none, keep := false, saveBase := 0, clone := false, evict := [], debug := false, stopBlk := false, rollbacks := 0,
    entry := l.kernel.entry, shadow := none, shadowCopy := 2, staleCopy := false, rolled := false, committed := false, preempts := 0, asked := none, struck := false }

/-- Place block `n` of a launch on a core. -/
def placeNew (s : State) (l : Launch) (n cluster core : Nat) : Option State :=
  let b := newBlock s l n
  bringUp { s with nextId := s.nextId + 1, fe := { s.fe with blocks := s.fe.blocks ++ [b] } } l b.bid cluster core

/-- Place members on a cluster, each on the core it must have, or on the first that takes it. -/
def placeMembers (l : Launch) (cluster : Nat) : List (Nat × Option Nat) → State → Option State
  | [], s => some s
  | (n, want) :: r, s =>
    match ((want.map (fun c => [c])).getD (List.range 4)).findSome? (fun c => placeNew s l n cluster c) with
    | some s1 => placeMembers l cluster r s1
    | none => none

/-! ## Hand-off (R314) -/

/-- The condition of block `i`'s hand-off entry holds. -/
def handReady (s : State) (l : Launch) (i : Nat) : Bool :=
  match l.handTable[i]?, l.prev.bind s.launch? with
  | some e, some p =>
    if e.toNat < p.total then p.unplaceable || p.done.contains e.toNat
    else if e == 0xFFFFFFFF then true
    else p.complete || p.unplaceable
  | _, _ => true

/-- The core where the block that block `i` follows ran. -/
def handCore (s : State) (l : Launch) (i : Nat) : Option (Nat × Nat) :=
  match l.handTable[i]?, l.prev.bind s.launch? with
  | some e, some p =>
    if e.toNat < p.total then
      (s.fe.blocks.find? (fun b => b.lid == p.lid && b.index == e)).map (fun b => (b.cluster, b.core))
    else none
  | _, _ => none

/-- The members of a launch's next cohort. -/
def nextMembers (l : Launch) : List Nat := (List.range (cohortSize l (l.nextBlock / l.kernel.cohort))).map (fun m => l.nextBlock + m)

/-- A launch with unplaced blocks whose next cohort may start. -/
def startable (s : State) (l : Launch) : Bool :=
  l.started && !l.unplaceable && !l.killed && decide (l.nextBlock < l.total) && (nextMembers l).all (handReady s l)

/-- The next cohort's members with the places where their hand-off blocks ran, in the order in which they are placed: those that must have a core first,
so that no other takes it from them (R314). -/
def placeOrder (s : State) (l : Launch) : List (Nat × Option (Nat × Nat)) :=
  let ws := (nextMembers l).map (fun i => (i, handCore s l i))
  ws.filter (fun x => x.2.isSome) ++ ws.filter (fun x => x.2.isNone)

/-- The next cohort's members, free of hand-off cores. -/
def freeMembers (s : State) (l : Launch) : List (Nat × Option Nat) := (placeOrder s l).map (fun x => (x.1, none))

/-- The next cohort's members with the cores where their hand-off blocks ran, on the cluster where it is so placed, if it fits (DESIGN CHOICE, log entry 17). -/
def handPlace (s : State) (l : Launch) : Option (Nat × List (Nat × Option Nat)) :=
  let ws := placeOrder s l
  match ws.findSome? (·.2) with
  | none => none
  | some (c, _) =>
    let ms := ws.map (fun x => (x.1, x.2.map (·.2)))
    if ws.all (fun x => x.2.all (fun y => y.1 == c)) && (placeMembers l c ms s).isSome then some (c, ms) else none

/-- The next cohort fits some cluster. -/
def cohortFitsNow (s : State) (l : Launch) : Bool := (List.range 96).any (fun c => (placeMembers l c (freeMembers s l) s).isSome)

/-- Place a launch's next cohort on named cores, one for each member in the order of `placeOrder`; a hand-off that fits prescribes them
(DESIGN CHOICE, log entry 17; DEDUCED, log entry 47). -/
def placeCohort (s : State) (l : Launch) (cluster : Nat) (cores : List Nat) : Option State :=
  let ms := (placeOrder s l).map (·.1)
  let ok := match handPlace s l with
    | some (c, want) => c == cluster && (want.zip cores).all (fun x => x.1.2.all (fun y => y == x.2))
    | none => true
  if cores.length != ms.length || !ok then none
  else
    (placeMembers l cluster (ms.zip (cores.map some)) s).map (fun s1 =>
      s1.mapLaunch l.lid (fun y => { y with nextBlock := y.nextBlock + ms.length }))

/-! ## Clones (R247) -/

/-- The first `n` free segments of some pools. -/
def freeSegs (s : State) (cluster : Nat) (pools : List Nat) (n : Nat) : Option (List Nat) :=
  let xs := (pools.flatMap (fun p => (List.range 768).map (fun k => segId cluster p (512 * k)))).filter (segFree s)
  if xs.length < n then none else some (xs.take n)

/-- Copy an allocation's segments into the partition's pools of a cluster, with their ages (R247). -/
def copyAlloc (s : State) (b : Block) (a : Alloc) : Option State :=
  (freeSegs s b.cluster (allocPools s b true) a.segs.length).map (fun fs =>
    { s with mm :=
      { s.mm with
        allocs := s.mm.allocs ++ [{ a with cluster := b.cluster, segs := fs }]
        segAge := (fs.zip a.segs).map (fun x => (x.1, lookupD s.mm.segAge x.2)) ++ s.mm.segAge
        scratch := (fs.zip a.segs).foldl (fun m x => ssetMany m (segKey x.1) (sgetMany m (segKey x.2) 512)) s.mm.scratch } })

/-- Give a block its own map of some allocations on its cluster: shared there, copied elsewhere (DEDUCED, log entry 33). -/
def mapAllocs (b : Block) : List Alloc → State → Option State
  | [], s => some s
  | a :: r, s =>
    let a1 := { a with owner := if a.cohortOwned then rivalOwner b.bid else b.bid }
    if a.cluster == b.cluster then mapAllocs b r { s with mm := { s.mm with allocs := s.mm.allocs ++ [a1] } }
    else (copyAlloc s b a1).bind (mapAllocs b r)

/-- A snapshot's group as a block's own, on a core. -/
def groupFor (s : State) (bid sched : Nat) (g : Group) : Group :=
  { g.mapSplits (fun q => { q with order := s.seq, scClu := s.seq, scDev := s.seq }) with gid := s.nextId, bid, sched }

/-- Place a clone on a core, or give its snapshot back to a block whose every rival has aborted (R247, R250); none where it does not fit. -/
def placeClone (s : State) (b0 : Block) (cluster core : Nat) : Option State :=
  match b0.forkRec.bind s.fork? with
  | none => none
  | some r =>
    if !coreTakesBlock s b0 cluster core (snapshotNeeds r).1 (snapshotNeeds r).2 then none
    else if r.n ≤ r.aborted.length then (if cluster = r.snapshot.cluster then some (giveBack s r core) else none)
    else
      let gs := r.snapshot.groups.filter Group.alive
      let b := { b0 with cluster, core, st := .running, clone := false, saveBase := if b0.rival = 0 then b0.saveBase else assignSave s { b0 with saveBase := 0 } }
      (mapAllocs b r.snapshot.allocs (s.mapBlock b.bid (fun _ => b))).map (fun s1 =>
        gs.foldl (fun s g =>
          { s with
            nextId := s.nextId + 1
            seq := s.seq + 1
            fe := { s.fe with groups := s.fe.groups ++ [{ groupFor s b.bid (leastSched s cluster core) g with saveBase := groupSave b.saveBase g.index }] } })
          s1)

/-- Restore a rolled-back block that waits for room, on a core of the cluster that holds its shadow's scratchpad (R257). -/
def placeRolled (s : State) (b : Block) (cluster core : Nat) : Option State :=
  match b.shadow with
  | none => none
  | some sh0 =>
    let sh1 := currentShadow s b sh0
    let sh := { sh1 with groups := sh1.groups.map resumed }
    if !coreTakesBlock s b cluster core (shadowNeeds sh).1 (shadowNeeds sh).2 || !shadowFits s sh cluster core then none
    else some ((shadowBack s b sh cluster core).mapBlock b.bid (fun x => { x with st := .running, rolled := false }))

/-! ## Saved blocks (R351) -/

/-- The bytes of a block area that hold its header, allocation and tag entries. -/
def readBlockArea (s : State) (b : Block) : State × FeEnd := partyReads (regionParty s b) b.saveBase 68 s

/-- The core can take a tag entry's slot with its fusion. -/
def slotFree (s : State) (part cluster core : Nat) (x : Tag) : Bool :=
  (quadsOf x.fuse core).all (fun q => (s.quarter (4 * cluster + q)).serves == part && (s.tag cluster (8 * q + x.p % 8)).st == .free)

/-- Bind a tag entry and its member slots, with its queue (R351). -/
def bindSaved (s : State) (b : Block) (x : Tag) : State :=
  let s1 := { s with nextId := s.nextId + x.queue.length }
  let s2 := s1.mapTag b.cluster x.p (fun _ => x)
  ((quadsOf x.fuse b.core).filter (fun q => q != b.core)).foldl (fun s q =>
    s.mapTag b.cluster (8 * q + x.p % 8) (fun _ =>
      { Tag.atReset b.cluster (8 * q + x.p % 8) with st := .frozen, owner := b.bid, fuse := x.fuse, member := true })) s2

/-- An allocation of the block is in its map: kept, or a rival's, whose map stays live (R254, R351). -/
def stillMapped (s : State) (b : Block) (a : Alloc) : Bool :=
  s.mm.allocs.any (fun x => mine b x && x.base == a.base && x.cohortOwned == a.cohortOwned)

/-- Map a saved allocation again, with words 0 and the ages that its expiry map gives; kept ones are there. -/
def mapSaved (b : Block) : List (Alloc × Bool × Nat) → State → State × Bool
  | [], s => (s, true)
  | (a, kept, off) :: r, s =>
    if kept || stillMapped s b a then mapSaved b r s
    else
      let n := a.size / 512
      match partyReads (regionParty s b) (b.saveBase + off + a.size) ((n + 511) / 512) s, freeSegs s b.cluster (allocPools s b a.cohortOwned) n with
      | (s1, .ok map), some fs =>
        let age (i : Nat) : Nat := if ((map.getD (i / 8) 0).getLsbD (i % 8)) then a.life * ageMicro else 0
        mapSaved b r { s1 with mm :=
          { s1.mm with
            allocs := s1.mm.allocs ++ [{ a with segs := fs }]
            segAge := fs.mapIdx (fun i x => (x, age i)) ++ s1.mm.segAge } }
      | (s1, _), _ => (s1, false)

/-- The clusters on which a block may run that is queued again: its own with KEPT allocations, or as a rival whose map is live there; that of its
cohort's resident members and of the cohort's allocations; and, for a rolled-back map's sake, that of its shadow's. A member other than 0 of a cohort
follows member 0's restore; while a member leaves, none returns. -/
def clusterOk (s : State) (b : Block) (cluster : Nat) : Bool :=
  let others := cohortOthers s b
  (!b.keep || !(s.mm.allocs.any (fun a => mine b a)) || cluster == b.cluster) && others.all (fun x => (x.st != .running && x.st != .restoring) || x.cluster == cluster) &&
    !others.any (fun x => x.st == .stopping || x.st == .saving) &&
    (s.mm.allocs.filter (fun a => a.cohortOwned && a.owner == cohortKey b)).all (fun a => a.cluster == cluster) &&
    (b.forkRec.isNone || !(s.mm.allocs.any (mine b)) || cluster == b.cluster) &&
    (b.forkRec.isSome || b.shadow.all (fun sh => sh.allocs.all (fun a => a.cluster == cluster))) &&
    (b.member == 0 || !others.any (fun x => x.member == 0 && x.st == .saved))

/-- Enter the restore routine in every live group, assigned to its schedulers anew, at the partition's present entry (R318, R340, R343, R351). -/
def enterRestore (s : State) (b : Block) (areas : List (Nat × Nat × List Split)) : State :=
  let gs := liveGroups s b.bid
  let tvec := ((s.partition (s.partyOf b).part).tvec).setWidth 64
  let s0 := s.mapGroups (fun g => if g.bid == b.bid then { g with sched := 4 } else g)
  gs.foldl (fun s g =>
    let n := ((areas.find? (fun x => x.1 == g.gid)).map (fun x => x.2.1)).getD g.count
    let sched := leastSched s b.cluster b.core
    enterRoutine (s.mapGroup g.gid (fun x => { clearGroup x with count := n, sched, tvec })) { g with splits := [], tvec } true (isLeader gs g) b.keep) s0

/-- Restore a saved block on a core: done, or what reading its region has brought about. -/
def restoreOn (s : State) (b0 : Block) (cluster core : Nat) : State × Bool :=
  let P := s.partyOf b0
  if !coreOpen s P.part P.tenancy cluster core || !clusterOk s b0 cluster then (s, false)
  else
    match readBlockArea s b0 with
    | (s1, .ok bs) =>
      match readAreas b0 (liveGroups s1 b0.bid) s1 with
      | (s2, some areas) =>
        let b := { b0 with cluster, core, st := .restoring }
        let prio := ((s2.launch? b.lid).map (·.prio)).getD 1
        let cnt := field bs 4 4
        let tags := (List.range (cnt / 2 ^ 8 % 16)).map (fun i => tagOfBytes s2 b prio ((bs.drop (0x900 + 256 * i)).take 256))
        let als := (List.range (cnt % 2 ^ 8)).map (fun i => allocOfBytes b ((bs.drop (0x100 + 16 * i)).take 16))
        if !coreTakesBlock s2 b0 cluster core ((areas.map (fun x => x.2.1)).sum) areas.length || !tags.all (slotFree s2 P.part cluster core) then (s2, false)
        else
          match mapSaved b als (s2.mapBlock b.bid (fun _ => b)) with
          | (_, false) => (s2, false)
          | (s3, true) => (enterRestore (tags.foldl (fun s x => bindSaved s b x) s3) b areas, true)
      | (s2, none) => (s2, false)
    | (s1, _) => (s1, false)

/-! ## The order of placement (R311, R319, R346) -/

/-- The tenancies that share a partition in time, with their places. -/
def sharers (p : Partition) : List (Nat × Nat) := (p.tens.mapIdx (fun i t => (i, t.toNat))).filter (fun x => x.2 != 255)

/-- Put an element into a list before the first that it does not come after (DEDUCED, log entry 67). -/
def insertBy {α : Type} (before : α → α → Bool) (x : α) : List α → List α
  | [] => [x]
  | y :: r => if before x y then x :: y :: r else y :: insertBy before x r

/-- A list in order; elements of one rank keep their places (DEDUCED, log entry 67). -/
def sortBy {α : Type} (before : α → α → Bool) (l : List α) : List α := l.foldr (insertBy before) []

/-- A block that is queued resume-first: saved, set back to its start, or a clone. -/
def requeued (b : Block) : Bool := b.st == .saved || (b.st == .waiting && (b.clone || b.forkRec.isNone))

/-- What may be placed: a launch, and the queued block of it, or none for its next cohort. -/
abbrev Candidate := Nat × Option Nat

/-- A launch's candidates: its queued blocks by identifier, then its next cohort (R255). -/
def launchCandidates (s : State) (l : Launch) : List Candidate :=
  let bs := sortBy (fun x y => !rankLess (blockRank s y) (blockRank s x))
    (s.fe.blocks.filter (fun b => b.lid == l.lid && requeued b))
  bs.map (fun b => (l.lid, some b.bid)) ++ (if startable s l then [(l.lid, none)] else [])

/-- The candidates of a partition in the distributor's order: by priority, then by queue after the one served last, then by age; where tenancies share the
partition in time, saved blocks come before the queues (R311, R319) (DEDUCED, log entry 67). -/
def candidates (s : State) (part : Nat) : List Candidate :=
  let last := (s.partition part).lastQueue
  let key (l : Launch) : Nat := (l.q + 512 - last - 1) % 512
  let before (x y : Launch) : Bool :=
    decide (y.prio < x.prio) || (x.prio == y.prio && (decide (key x < key y) || (key x == key y && decide (x.age ≤ y.age))))
  let cs := (sortBy before (s.fe.launches.filter (fun l => (s.queue l.q).part == part))).flatMap (launchCandidates s)
  let saved (c : Candidate) : Bool := ((c.2.bind s.block?).map (fun b => b.st == .saved)).getD false
  if (sharers (s.partition part)).length < 2 then cs else cs.filter saved ++ cs.filter (fun c => !saved c)

/-- Place a queued block on a core. -/
def revive (s : State) (l : Launch) (b : Block) (cluster core : Nat) : Option State :=
  if b.st == .saved then (match restoreOn s b cluster core with | (s1, true) => some s1 | _ => none)
  else if b.clone then placeClone s b cluster core
  else if b.rolled then placeRolled s b cluster core
  else if clusterOk s b cluster then bringUp s l b.bid cluster core
  else none

/-- A candidate can be placed somewhere. -/
def canPlace (s : State) (c : Candidate) : Bool :=
  match s.launch? c.1 with
  | none => false
  | some l =>
    match c.2 with
    | none => (handPlace s l).isSome || cohortFitsNow s l
    | some bid =>
      match s.block? bid with
      | none => false
      | some b => (List.range 384).any (fun q => (revive s l b (q / 4) (q % 4)).isSome)

/-! ## Evictions (R45) -/

/-- The identifier of what a candidate would place. -/
def candidateRank (s : State) (c : Candidate) : Rank :=
  match s.launch? c.1 with
  | none => List.replicate 6 0
  | some l => match c.2.bind s.block? with | some b => blockRank s b | none => [l.age, l.nextBlock] ++ List.replicate 4 0

/-- A runnable split: READY, EBB, FAULT or SUPER, and not held by a sibling's handler (R44). -/
def runnableSplit (p : Split) : Bool := !p.frozen && (p.st == .ready || p.st == .ebb || p.st == .fault || p.st == .super)

/-- A block has a runnable split (R44). -/
def runnableBlock (s : State) (b : Block) : Bool :=
  b.st == .running && (s.groupsOf b.bid).any (fun g => g.alive && g.splits.any runnableSplit)

/-- The block belongs to a queue's tenancy and partition. -/
def ofQueue (s : State) (q : Queue) (b : Block) : Bool := (s.queueOfBlock b).part == q.part && (s.queueOfBlock b).tenancy == q.tenancy

/-- The resident blocks of a queue's tenancy and partition above an identifier. -/
def victims (s : State) (q : Queue) (id : Rank) : List Block :=
  s.fe.blocks.filter (fun b => b.st == .running && ofQueue s q b && rankLess id (blockRank s b))

/-- The highest of some blocks. -/
def highest (s : State) (bs : List Block) : Option Block := firstBy (fun x m => rankLess (blockRank s m) (blockRank s x)) bs

/-- Only the lack of room keeps a candidate from its place: a core is open to it, on a cluster it may run on, a new block that needs a view finds an
identifier free, and a saved one's region can be read (R45, R312, R351). -/
def wantsRoom (s : State) (l : Launch) (c : Candidate) : Bool :=
  let q := s.queue l.q
  let cores := (List.range 384).filter (fun k => coreOpen s q.part q.tenancy (k / 4) (k % 4))
  let view := l.kernel.mode == 0 || decide ((nextMembers l).length ≤ (freeViewIds s).length)
  match c.2.bind s.block? with
  | none => !cores.isEmpty && view
  | some b =>
    cores.any (fun k => clusterOk s b (k / 4)) &&
      (if b.st == .saved then
         (match (readBlockArea s b).2 with | .ok _ => true | _ => false) && (readAreas b (liveGroups s b.bid) s).2.isSome
       else b.clone || b.rolled || l.kernel.mode == 0 || !(freeViewIds s).isEmpty)

/-- The candidate is the lowest runnable block of its launch, cannot be placed for lack of room, and a resident block ranks above it. -/
def starving (s : State) (c : Candidate) : Bool :=
  match s.launch? c.1 with
  | none => false
  | some l =>
    let id := candidateRank s c
    (launchCandidates s l).head? == some c && !(s.fe.blocks.any (fun b => b.lid == l.lid && runnableBlock s b && rankLess (blockRank s b) id)) &&
      !(victims s (s.queue l.q) id).isEmpty && !canPlace s c && wantsRoom s l c

/-- Blocks of a tenancy and partition, or groups of them, are leaving, so room is being made. -/
def leaving (s : State) (q : Queue) : Bool :=
  s.fe.blocks.any (fun b => ofQueue s q b &&
    (b.st == .stopping || b.st == .saving ||
      (b.st == .running && (liveGroups s b.bid).any (fun g => evicted b g && !(g.routineDone && !g.trapAddr.getLsbD 0)))))

/-- Evict one party for a candidate that starves, and keep the room that it leaves for the candidate (DEDUCED, log entry 13). -/
def evictFor (s : State) (c : Candidate) : State :=
  match s.launch? c.1 with
  | none => s
  | some l =>
    let q := s.queue l.q
    if leaving s q then s
    else
      match highest s (victims s q (candidateRank s c)) with
      | some b =>
        let s1 := preemptCohort s b false
        { s1 with fe := { s1.fe with roomFor := if s1.fe.roomFor.contains c then s1.fe.roomFor else s1.fe.roomFor ++ [c] } }
      | none => s

/-- A candidate of its tenancy and partition with a lower identifier goes ahead of it: one that starves, or for which room has been made or is being
made (R45). -/
def behind (s : State) (cs : List Candidate) (c : Candidate) : Bool :=
  match s.launch? c.1 with
  | none => false
  | some l =>
    let q := s.queue l.q
    cs.any (fun y =>
      ((s.launch? y.1).map (fun m => (s.queue m.q).part == q.part && (s.queue m.q).tenancy == q.tenancy)).getD false &&
        rankLess (candidateRank s y) (candidateRank s c) &&
        ((s.fe.roomFor.contains y && (leaving s q || canPlace s y)) || starving s y))

/-- What the distributor of a partition places next, and the candidates it passed over (DESIGN CHOICE, log entry 17). -/
def nextPlacement (s : State) (part : Nat) : Option Candidate × List Candidate :=
  let cs := candidates s part
  let ok (c : Candidate) : Bool := canPlace s c && !behind s cs c
  (cs.find? ok, cs.takeWhile (fun c => !ok c))

/-- Evict for the first starving candidate that was passed over. -/
def evictions (s : State) (passed : List Candidate) : State :=
  match passed.find? (starving s) with
  | some c => evictFor s c
  | none => s

/-- A candidate has been placed: the room made for it is taken. -/
def roomTaken (s : State) (c : Candidate) : State := { s with fe := { s.fe with roomFor := s.fe.roomFor.filter (· != c) } }

/-- Note the queue served last. -/
def served (s : State) (part : Nat) (l : Launch) : State := s.mapPartition part (fun p => { p with lastQueue := l.q })

/-! ## The events -/

/-- One placement step of a partition: the next cohort, or a block set back to its start, on the cores named. -/
def execPlacementStep (part cluster : Nat) (cores : List Nat) (s : State) : Result :=
  let r := nextPlacement s part
  let s1 :=
    match r.1 with
    | none => s
    | some c =>
      match s.launch? c.1, c.2.bind s.block? with
      | some l, none => if c.2.isSome then s else ((placeCohort s l cluster cores).map (fun t => roomTaken (served t part l) c)).getD s
      | some l, some b =>
        if b.st == .saved || b.clone then s else ((revive s l b cluster (cores.headD 0)).map (fun t => roomTaken (served t part l) c)).getD s
      | none, _ => s
  .next (evictions s1 r.2)

/-- A clone is placed on the core named, with its copies made. -/
def execClonePlacement (bid cluster core : Nat) (s : State) : Result :=
  match s.block? bid with
  | none => .next s
  | some b =>
    let part := (s.queueOfBlock b).part
    if !b.clone || (nextPlacement s part).1 != some (b.lid, some bid) then .next s
    else .next (((placeClone s b cluster core).map (fun t => roomTaken t (b.lid, some bid))).getD s)

/-- A saved block is placed on the core named, and its restore routine starts (DEDUCED, log entry 32; DEDUCED, log entry 47). -/
def execBlockRestore (bid cluster core : Nat) (s : State) : Result :=
  match s.block? bid with
  | none => .next s
  | some b =>
    let part := (s.queueOfBlock b).part
    if b.st != .saved then .next s
    else if (nextPlacement s part).1 != some (b.lid, some bid) then .next (readBlockArea s b).1
    else
      match restoreOn s b cluster core with
      | (s1, true) => .next (settleWindows (roomTaken s1 (b.lid, some bid)))
      | (s1, false) => .next (settleWindows s1)

/-- The split is the lowest runnable one of its group: by its lowest active lane (R44). -/
def lowestRunnable (g : Group) (p : Split) : Bool :=
  runnableSplit p && g.splits.all (fun q => !runnableSplit q || decide (lowest p.active ≤ lowest q.active))

/-- 64 cycles, in units of 1/80 cycle (R45). -/
def starveCycles : Nat := 64 * 80

/-- The split has been its group's lowest runnable one for 64 cycles without issuing, and may issue: it waits for no response (R45, R294). -/
def required (s : State) (g : Group) (p : Split) : Bool :=
  canIssue s g p && !awaitsPages s g p && lowestRunnable g p && p.low.1 == p.order && decide (starveCycles ≤ p.low.2)

/-- The splits of a scheduler that are required, each with its group. -/
def requiredOf (s : State) (sched : Nat) : List (Group × Split) :=
  (s.fe.groups.filter (fun g => schedOf s g == sched && onCore s g)).flatMap (fun g => (g.splits.filter (required s g)).map (fun p => (g, p)))

/-- The split that a scheduler issues next because R45 requires it: the one required earliest, ties going to the lower group (R318). -/
def requiredFirst (s : State) (sched : Nat) : Option (Group × Split) :=
  firstBy (fun x y => decide (y.2.low.2 < x.2.low.2) || (x.2.low.2 == y.2.low.2 && rankLess (groupRank s x.1) (groupRank s y.1))) (requiredOf s sched)

/-- The split that R45 requires of its scheduler issues next (DEDUCED, log entry 13). -/
def execStarvationIssue (gid sp : Nat) (s : State) : Result :=
  match s.split? gid sp with
  | some (g, _) =>
    if (requiredFirst s (schedOf s g)).map (fun x => (x.1.gid, x.2.idx)) == some (gid, sp) then .next { s with agenda := .issue gid sp :: s.agenda } else .next s
  | none => .next s

/-! ## Register deadlock (R28) -/

/-- The core is in register deadlock (DEDUCED, log entry 73). -/
def deadlocked (s : State) (cluster core : Nat) : Bool :=
  let gs := coreGroups s cluster core
  let ps := gs.flatMap (fun g => g.splits)
  ps.any (fun p => p.st == .regreq) &&
    ps.all (fun p => p.st == .regreq || p.st == .bar || p.st == .join || p.st == .bwait || p.st == .yield) &&
    gs.all (fun g => match s.block? g.bid with | some b => b.st == .running && !evicted b g | none => true) &&
    !s.en.copies.any (fun c => c.cluster == cluster && c.core == core)

/-- The highest group that holds registers, other than one (DEDUCED, log entry 73). -/
def highestHolder (s : State) (gs : List Group) (other : Nat) : Option Group :=
  firstBy (fun g x => rankLess (groupRank s x) (groupRank s g)) (gs.filter (fun g => g.gid != other && g.count != 0))

/-- The core has, or has not, a register deadlock to resolve. -/
def noteDeadlock (s : State) (cluster core : Nat) (on : Bool) : State :=
  let k := 4 * cluster + core
  { s with fe := { s.fe with deadlocks := s.fe.deadlocks.filter (· != k) ++ (if on then [k] else []) } }

/-- Groups of the core are leaving it. -/
def leavingCore (s : State) (cluster core : Nat) : Bool :=
  (coreGroups s cluster core).any (fun g => match s.block? g.bid with
    | some b => b.st == .stopping || b.st == .saving || evicted b g
    | none => false)

/-- A core that has detected a register deadlock evicts one group after another until it grants its lowest request (R28) (DEDUCED, log entry 73). -/
def execRegisterDeadlock (cluster core : Nat) (s : State) : Result :=
  let gs := coreGroups s cluster core
  if !inDeadlock s cluster core && !deadlocked s cluster core then .next s
  else
    match lowestRequester s gs with
    | none => .next (noteDeadlock s cluster core false)
    | some r =>
      let s1 := noteDeadlock s cluster core true
      if r.req - r.count ≤ freeRegs s cluster core then .next (noteDeadlock (grantRequest s1 r.gid) cluster core false)
      else if leavingCore s cluster core then .next s1
      else
        match highestHolder s gs r.gid with
        | some g => .next (askEvict s1 g)
        | none => .next s1

/-- The group is the lowest of its block that could run: no group of the block with a lower index has a runnable split, or waits to return (R45). -/
def lowestGroup (s : State) (b : Block) (g : Group) : Bool :=
  (liveGroups s b.bid).all (fun x => decide (g.index ≤ x.index) || (!evicted b x && !x.splits.any runnableSplit))

/-- Evict a party above a group that waits to return: the highest block above its block, else the highest group of its block above it (R45). -/
def evictForGroup (s : State) (b : Block) (g : Group) : State :=
  let q := s.queueOfBlock b
  if leaving s q || !lowestGroup s b g then s
  else
    match highest s (victims s q (blockRank s b)) with
    | some v => preemptCohort s v false
    | none =>
      match firstBy (fun x y => decide (y.index < x.index)) ((liveGroups s b.bid).filter (fun x => decide (g.index < x.index) && !evicted b x && x.count != 0)) with
      | some x => askEvict s x
      | none => s

/-- An evicted group returns once its registers fit, its core holds no lower request and resolves no deadlock, and no lower evicted group waits for the
room (R28, R44, R45). -/
def returnStep (s : State) (b : Block) (g : Group) : State :=
  if inDeadlock s b.cluster b.core || awaited s b.cluster b.core (groupRank s g) || (coreGroups s b.cluster b.core).any (fun x => x.splits.any (fun p => p.st == .regreq) && rankLess (groupRank s x) (groupRank s g)) then s
  else
    let sched := leastSched s b.cluster b.core
    let s1 := returnGroup s b g
    match s1.group? g.gid with
    | some x => if !x.routineDone then s1.mapGroup g.gid (fun x => { x with sched }) else evictForGroup s1 b g
    | none => s1

/-! ## The raft and flumes (R315 to R317) -/

/-- Window `w` of a queue closes after 2,000 ticks, or with its 256th child. -/
def execRaftWindowClose (q w : Nat) (s : State) : Result :=
  match (s.fe.raft.filter (fun x => x.q == q))[w]? with
  | some x => if x.first + 2000 ≤ s.clock || 256 ≤ x.children.length then .next (closeWindow s x) else .next s
  | none => .next s

/-- Every stage that stage `j` names has ended (DEDUCED, log entry 46). -/
def stagesBefore (x : Item) (j : Nat) : Bool :=
  match x.flume.stages[j]? with
  | none => false
  | some f => (List.range j).all (fun i => !f.after.getLsbD i || ((x.stages[i]?).map (·.ended)).getD true)

/-- The log entry of an item. -/
def itemEntry (s : State) (id : Nat) : Option LogEntry :=
  s.fe.log.find? (fun e => match e.kind with | .flume i => i == id | _ => false)

/-- Stage `j` is released and starts as a launch; a stage whose every block has released ends. -/
def execStageRelease (item j : Nat) (s : State) : Result :=
  match s.item? item, itemEntry s item with
  | some x, some e =>
    match x.stages[j]?, x.flume.stages[j]? with
    | some y, some f =>
      if y.released then
        match y.lid.bind s.launch? with
        | some l =>
          if !y.ended && l.unplaceable then .next (endStage s item j 3)
          else if !y.ended && l.total ≤ y.releasedBlocks.length then .next (endStage s item j (stageStatus f y))
          else .next s
        | none => .next s
      else if !e.started || !stagesBefore x j then .next s
      else
        match s.fe.kernels.find? (fun k => k.addr == f.kernel) with
        | none => .next s
        | some k =>
          let l0 := newLaunch s x.q x.seq k (k.dimx, k.dimy, k.dimz) x.prio x.params [] false (some (item, j))
          let l := { l0 with age := e.order }
          let s1 : State := { s with nextId := s.nextId + 1, fe := { s.fe with launches := s.fe.launches ++ [l] } }
          match startLaunch s1 l j with
          | (_, false) => .next s
          | (s2, true) =>
            let s3 := s2.mapItem item (fun x => x.mapStage j (fun z => { z with released := true, lid := some l.lid, start := s.clock }))
            if ((s3.launch? l.lid).map (·.unplaceable)).getD false then .next (endStage s3 item j 3) else .next s3
    | _, _ => .next s
  | _, _ => .next s

/-- What an overrun brings: with SKIP the end of the launch and of the stage, then the record, which waits while the ring is full (R310, R317). -/
def settleOverrun (s : State) (item j : Nat) (x : Item) (y : StageRun) (f : FlumeStage) : State :=
  let s1 := if f.skip then (match y.lid.bind s.launch? with | some l => killLaunch s l | none => s) else s
  let ended (s : State) : Bool := (((s.item? item).bind (fun x => x.stages[j]?)).map (·.ended)).getD true
  let s2 := if f.skip && !ended s1 then endStage s1 item j 2 else s1
  if f.skip && !ended s2 then s2
  else
    match postFront s2 x.q (if f.skip then 0xFFFF0014 else 0xFFFF0013) j x.seq with
    | (s3, .wait) => s3
    | (s3, _) => s3.mapItem item (fun x => x.mapStage j (fun z => { z with owed := false }))

/-- Stage `j` has passed its deadline, whatever room the event ring has: its record, and with SKIP its end (DEDUCED, log entry 46). -/
def execStageOverrun (item j : Nat) (s : State) : Result :=
  match s.item? item with
  | none => .next s
  | some x =>
    match x.stages[j]?, x.flume.stages[j]? with
    | some y, some f =>
      let total := ((y.lid.bind s.launch?).map (·.total)).getD 0
      if y.owed then .next (settleOverrun s item j x y f)
      else if y.ended || y.overrun || !stageLate s f y total then .next s
      else
        let y' := { y with overrun := true, owed := true }
        .next (settleOverrun (s.mapItem item (fun x => x.mapStage j (fun _ => y'))) item j x y' f)
    | _, _ => .next s

/-! ## Time slices (R319) -/

/-- The place of the next tenancy after one. -/
def nextSharer (p : Partition) : Option (Nat × Nat) :=
  match (sharers p).find? (fun x => decide (p.serving < x.1)) with
  | some x => some x
  | none => (sharers p).head?

/-- The cores whose quarters serve a partition. -/
def partCoreList (s : State) (part : Nat) : List Nat := (List.range 384).filter (fun q => (s.quarter q).serves == part)

/-- Start a latch change: no block is placed on the core from now on, and its blocks are pre-empted (R397). While a change is in progress NEXT
takes no write, so another change follows it (R396) (DEDUCED, log entry 55). -/
def startLatch (s : State) (core next : Nat) : State :=
  if (s.latch core).lpend then s.mapLatch core (fun h => { h with again := true })
  else
    let s1 := s.mapLatch core (fun h => { h with next := BitVec.ofNat 8 next, lpend := true })
    (s1.fe.blocks.filter (fun b => (b.st == .running || b.st == .restoring) && 4 * b.cluster + b.core == core)).foldl (fun s b => preemptCohort s b false) s1

/-- The tenancy's slice is over: its blocks are pre-empted and each core changes its latch to the next tenancy; a core whose earlier change is still
in progress changes once more after it (R319) (DEDUCED, log entry 55). -/
def execSliceEnd (part : Nat) (s : State) : Result :=
  let p := s.partition part
  match nextSharer p with
  | some (i, t) =>
    if (sharers p).length < 2 || p.counted < 80 * 2 ^ p.slice.toNat then .next s
    else
      let s1 := s.mapPartition part (fun p => { p with serving := i, counted := 0 })
      .next ((partCoreList s1 part).foldl (fun s c =>
        let h := s.latch c
        if !h.lpend && h.latch.toNat == t then s else startLatch s c t) s1)
  | none => .next s

/-- The tenancy that a partition serves now: its only one, or that of the present slice; 0xFF for none. -/
def servingTenancy (s : State) (part : Nat) : Nat :=
  if part = 63 then 255
  else
    let p := s.partition part
    let t := (p.tens.getD p.serving 0xFF).toNat
    if t = 255 then ((sharers p).head?.map (·.2)).getD 255 else t

/-- The grace of a reclaimed quarter is over: the blocks of its borrower that remain are pre-empted, and the latch changes to what the quarter
serves next (R320, R390). -/
def execReclaimGraceExpiry (quarter : Nat) (s : State) : Result :=
  let q := s.quarter quarter
  match q.graceEnd with
  | some t =>
    if s.clock < t then .next s
    else
      let s1 := s.mapQuarter quarter (fun q => { q with graceEnd := none })
      .next (startLatch s1 quarter (servingTenancy s1 ({ q with part := q.newPart, lent := q.newLent }).serves))
  | none => .next s

end Sys2Proof.Machine
end

