-- ==== Sys2Proof/Machine/Contexts.lean ====
section
/-! DEFINITION. The host driver's translation commands and their completions, page migration, and the answers to replayable faults
(13_memories_translation.md R290 to R296; 12 R277; 23 R382 to R385; 19 R418). -/

namespace Sys2Proof.Machine

/-! ## Ring registers (R382) -/

/-- An offset that a ring's head or tail may take. -/
def ringOffsetOk (x : Ring) (v : Word) : Bool := v.toNat % ringEntry x.r == 0 && decide (v.toNat < x.size.toNat)

/-- The records that wait in hardware go out while the fault queue has room (R293); those that are no page's fault are then done. -/
def postWaiting : Nat → State → State
  | 0, s => s
  | n + 1, s =>
    match s.mm.faults.findIdx? (fun f => !f.posted && f.pri.isNone) with
    | none => s
    | some i =>
      match s.mm.faults[i]? with
      | none => s
      | some f =>
        if !ringHasRoom (s.ring 0 2) then s
        else
          let s1 := ringPush s 0 2 f.record
          let rest := if f.asid = 4096 then s1.mm.faults.eraseIdx i else s1.mm.faults.set i { f with posted := true }
          postWaiting n { s1 with mm := { s1.mm with faults := rest } }

/-- The host writes RTAIL of the command ring. -/
def execCommandRingTail (v : Word) (s : State) : Result :=
  barRow [0] 0x20018 s (fun s => s.mapRing 0 0 (fun x => if ringOffsetOk x v then { x with tail := v } else x))

/-- The host writes RHEAD of a ring that the device fills. -/
def execRingHeadWrite (fn r : Nat) (v : Word) (s : State) : Result :=
  if r = 0 || 3 < r || (fn != 0 && r != 3) then .next s
  else
    barRow [fn] (0x20000 + 64 * r + 0x10) s (fun s =>
      let s1 := s.mapRing fn r (fun x => if ringOffsetOk x v then { x with head := v } else x)
      postWaiting s1.mm.faults.length s1)

/-! ## Commands (R291) -/

/-- The next command of the ring; none while the ring is empty or the completion ring is full. -/
def nextCommand (s : State) : Option (List Byte) :=
  let x := s.ring 0 0
  if !x.enable || x.head == x.tail || !ringHasRoom (s.ring 0 1) then none
  else some (sgetMany s.mm.mem (2 ^ 51 + x.base.toNat + x.head.toNat) 32)

/-- A command is well formed; the range of an INVAL is of whole pages (DEDUCED, log entry 59). -/
def commandOk (bs : List Byte) : Bool :=
  let op := field bs 0 1
  decide (1 ≤ op) && decide (op ≤ 4) && zeroField bs 1 1 && decide (field bs 2 2 < 4096) && zeroField bs 4 4 &&
    (op != 3 || (field bs 8 8 % 4096 == 0 && field bs 16 8 % 4096 == 0))

/-- Take the next command of the ring as one in progress. -/
def takeCommand (s : State) (bs : List Byte) (status : Nat) (ready : Bool) (size old : Nat) : State :=
  let c : Command :=
    { op := field bs 0 1, asid := field bs 2 2, va := field bs 8 8, arg := field bs 16 8, ctag := BitVec.ofNat 64 (field bs 24 8), status, step := 0,
      old, size, start := s.seq, ready }
  let s1 := s.mapRing 0 0 (fun x => { x with head := BitVec.ofNat 32 ((x.head.toNat + 32) % x.size.toNat) })
  { s1 with seq := s1.seq + 1, mm := { s1.mm with commands := s1.mm.commands ++ [c] } }

/-- The next command where it is well formed and of an operation. -/
def commandOf (s : State) (op : Nat) : Option (List Byte) := (nextCommand s).filter (fun bs => commandOk bs && field bs 0 1 == op)

/-- A malformed command completes with BAD_COMMAND. -/
def execBadCommand (s : State) : Result :=
  match nextCommand s with
  | some bs => if commandOk bs then .next s else .next (takeCommand s bs 11 true 0 0)
  | none => .next s

/-! ## BIND (R290, R292) -/

/-- A context entry that may be bound; none with a field out of range (DEDUCED, log entry 59). -/
def contextOf (asid : Nat) (bs : List Byte) : Option Context :=
  let w := field bs 0 8
  let x := field bs 8 4
  let y := field bs 12 4
  let c : Context :=
    { asid, root := w / 4096 * 4096, tenancy := x % 256, pasid := x / 256 % 2 ^ 20, faultDst := x / 2 ^ 28 % 4, lease := y % 2 ^ 17,
      mcruise := y / 2 ^ 17 % 16, retiring := false }
  if w % 4096 == 1 && w / 2 ^ 52 == 0 && isDram c.root && c.tenancy != 255 && c.faultDst != 3 && x / 2 ^ 30 == 0 && decide (256 ≤ c.lease) &&
      decide (c.lease ≤ 65536) && y / 2 ^ 21 == 0 && zeroField bs 16 16 then some c else none

/-- The next command is a BIND (DESIGN CHOICE, log entry 70). -/
def execBind (s : State) : Result :=
  match commandOf s 1 with
  | none => .next s
  | some bs =>
    let a := field bs 2 2
    let fin (s1 : State) (st : Nat) : Result := .next (takeCommand s1 bs st true 0 0)
    match s.mm.contexts.find? (fun c => c.asid == a) with
    | some c => fin s (if c.retiring then 2 else 1)
    | none =>
      match (homeRead s deviceTenancy 0 (s.sys.ctxBase.toNat + 32 * a) 32).bind (contextOf a) with
      | some c => fin { s with mm := { s.mm with contexts := s.mm.contexts ++ [c] } } 0
      | none => fin s 3

/-! ## Removing translations (R289, R292) -/

/-- The party of an L1 sector: its cluster and core, under its own tenancy, in the partition that its core serves (R398). -/
def sectorParty (s : State) (x : L1Sector) : Party :=
  { cluster := x.cluster, core := x.core, asid := x.asid, tenancy := x.tenancy, view := x.view, part := (s.quarter (4 * x.cluster + x.core)).serves, bid := 0 }

/-- Clean and drop the L1 sectors that `p` names. -/
def flushL1 (s : State) (p : L1Sector → Bool) : State :=
  let s1 := (s.mm.l1.filter p).foldl (fun s x => (cleanL1 s (sectorParty s x) x true).1) s
  s1.setL1 (s1.mm.l1.filter (fun x => !p x))

/-- A range of `len` bytes from `va` (all of the ASID for length 0) meets `n` bytes from `a`. -/
def rangeMeets (va len a n : Nat) : Bool := len == 0 || (decide (va < a + n) && decide (a < va + len))

/-- Remove an ASID's translations of a range, and clean and drop the range's L1 lines. -/
def dropRange (s : State) (asid va len : Nat) : State :=
  let s1 : State :=
    { s with mm :=
      { s.mm with
        tlb := s.mm.tlb.filter (fun x => !(x.asid == asid && rangeMeets va len x.va x.size))
        walk := s.mm.walk.filter (fun x => !(x.asid == asid && rangeMeets va len (x.va * pageSize x.level) (pageSize x.level))) } }
  flushL1 s1 (fun x => x.asid == asid && rangeMeets va len (64 * x.va) 64)

/-- An access that a group has buffered, a view has put off, or a group leaves outstanding, lies in a range of an ASID and issued before an order. -/
def rangeBusy (s : State) (asid va len before : Nat) : Bool :=
  s.mm.views.any (fun v => v.outbox.any (fun x =>
    match x.op, s.block? x.bid with
    | .ext _ a seq bs, some b => (s.partyOf b).asid == asid && decide (seq < before) && rangeMeets va len a bs.length
    | _, _ => false)) ||
  s.fe.groups.any (fun g => (s.party g).asid == asid &&
    ((groupBuffer g).any (fun x => decide (x.seq < before) && (match x.place with | .global _ a _ _ => rangeMeets va len a x.bytes.length | _ => false)) ||
      g.pending.any (fun x => decide (x.seq < before) && x.parts.any (fun r =>
        match r.load with | some (.global _ a _ _, n) => rangeMeets va len a n | _ => false))))

/-- A migration of a page in the range has not completed; one that was refused moves no page. -/
def rangeMigrates (s : State) (asid va len : Nat) : Bool :=
  s.mm.commands.any (fun c => c.op == 4 && c.asid == asid && c.size != 0 && rangeMeets va len c.va c.size)

/-! ## RETIRE and INVAL (R292) -/

/-- A block, or a queued packet, of an ASID exists. -/
def asidInUse (s : State) (asid : Nat) : Bool :=
  let mine (q : Queue) : Bool := q.assigned && q.asid == asid
  s.fe.blocks.any (fun b => b.st != .ended && mine (s.queueOfBlock b)) || s.fe.queues.any (fun q => mine q && q.enable && q.head != q.tail) ||
    s.fe.log.any (fun e => !e.complete && mine (s.queue e.q)) || s.fe.raft.any (fun w => mine (s.queue w.q))

/-- The next command is a RETIRE. -/
def execRetire (s : State) : Result :=
  match commandOf s 2 with
  | none => .next s
  | some bs =>
    let a := field bs 2 2
    match s.context? a with
    | none => .next (takeCommand s bs 5 true 0 0)
    | some _ =>
      if asidInUse s a then .next (takeCommand s bs 4 true 0 0)
      else
        let s1 := dropRange s a 0 0
        .next (takeCommand { s1 with mm := { s1.mm with contexts := s1.mm.contexts.map (fun c => if c.asid == a then { c with retiring := true } else c) } }
          bs 0 true 0 0)

/-- The next command is an INVAL. -/
def execInval (s : State) : Result :=
  match commandOf s 3 with
  | none => .next s
  | some bs =>
    let a := field bs 2 2
    match s.context? a with
    | none => .next (takeCommand s bs 5 true 0 0)
    | some _ => .next (takeCommand (dropRange s a (field bs 8 8) (field bs 16 8)) bs 0 true 0 0)

/-- A command that is done may complete: an INVAL waits for the accesses that used what it removed, and for migrations of its range (DEDUCED, log entry 59). -/
def mayComplete (s : State) (c : Command) : Bool :=
  c.ready && (c.op != 3 || c.status != 0 || (!rangeBusy s c.asid c.va c.arg c.start && !rangeMigrates s c.asid c.va c.arg))

/-- Command `i` completes: its completion is written, and a retired ASID may be bound again. -/
def execCommandCompletion (i : Nat) (s : State) : Result :=
  match s.mm.commands[i]? with
  | none => .next s
  | some c =>
    if !mayComplete s c || !ringHasRoom (s.ring 0 1) then .next s
    else
      let s0 := if c.op = 3 && c.status = 0 then dropRange s c.asid c.va c.arg else s
      let s1 := ringPush s0 0 1 (leBytes c.ctag.toNat 8 ++ leBytes (Config.commandStatus c.status).toNat 4 ++ leBytes 0 4)
      .next { s1 with mm :=
        { s1.mm with
          commands := s1.mm.commands.eraseIdx i
          contexts := if c.op = 2 && c.status = 0 then s1.mm.contexts.filter (fun x => x.asid != c.asid) else s1.mm.contexts } }

/-! ## MIGRATE (R277, R296) -/

/-- The leaf of a page as the tables hold it now: its frame, attribute and size (DEDUCED, log entry 59). -/
def tableLeaf (s : State) (c : Context) (va : Nat) : Option (Leaf × Nat) :=
  let rd (pa : Nat) : Option DWord := (homeRead s c.tenancy 0 pa 8).map (fun bs => BitVec.ofNat 64 (leNat bs))
  if !addrInRange va then none
  else
    let r := walkFrom rd va 2 false 3 c.root
    match r.1 with
    | .ok l => some (l, r.2.1)
    | _ => none

/-- The next command is a MIGRATE: refused at once, or accepted. -/
def execMigrate (s : State) : Result :=
  match commandOf s 4 with
  | none => .next s
  | some bs =>
    let va := field bs 8 8
    let new := field bs 16 8
    match (s.context? (field bs 2 2)).bind (fun c => tableLeaf s c va) with
    | none => .next (takeCommand s bs 6 true 0 0)
    | some (l, size) =>
      if 65536 < size || va % size != 0 then .next (takeCommand s bs 7 true 0 0)
      else if !isDram new || dramEnd < new + size || new % size != 0 then .next (takeCommand s bs 8 true 0 0)
      else if rangeMigrates s (field bs 2 2) va size then .next (takeCommand s bs 9 true 0 0)
      else .next (takeCommand s bs 0 false size l.pa)

/-- A byte range of a frame holds a place. -/
def inFrame (old size : Nat) : Place → Bool
  | .global pa _ _ _ => decide (old ≤ pa) && decide (pa < old + size)
  | .pool _ => false

/-- A store to the frame is not performed yet, or an engine owns or pins a line of it, or a lease on it has not ended (DEDUCED, log entry 60). -/
def frameHeld (s : State) (old size : Nat) : Bool :=
  s.fe.groups.any (fun g => (groupBuffer g).any (fun x => inFrame old size x.place)) ||
    (List.range ((size + 511) / 512)).any (fun k => decide (s.clock < lookupD s.mm.llcLease (lineOf (old + 512 * k))) || lineOwned s (old + 512 * k)) ||
    pinned s (.global old 0 0 size) size

/-- A load from the frame is still to be performed. -/
def frameRead (s : State) (old size : Nat) : Bool :=
  s.fe.groups.any (fun g => g.pending.any (fun x => x.parts.any (fun r => match r.load with | some (p, _) => inFrame old size p | none => false)))

/-- Every dirty copy of the frame's lines reaches its home. -/
def cleanFrame (s : State) (old size : Nat) : State :=
  let inF (sec : Nat) : Bool := decide (old ≤ 64 * sec) && decide (64 * sec < old + size)
  let s1 := (s.mm.l1.filter (fun x => inF x.pa && x.dirty != 0)).foldl (fun s x => (cleanL1 s (sectorParty s x) x true).1) s
  (s1.mm.l2.filter (fun x => inF x.pa && x.dirty != 0)).foldl (fun s x => (cleanL2 s x).1) s1

/-- A sector number of the old frame, in the new one. -/
def movedSector (old size new sec : Nat) : Nat := if old ≤ 64 * sec && 64 * sec < old + size then sec + new / 64 - old / 64 else sec

/-- Copy the page to the new frame (R277 step 3). A sector that fails stays failed (DEDUCED, log entry 60). -/
def copyFrame (s : State) (asid t old size new : Nat) (attr : Nat) : State :=
  let P : Party := { cluster := 0, core := 0, asid, tenancy := t, view := 0, part := 63, bid := 0 }
  (List.range (size / 64)).foldl (fun s k =>
    match (if attr = 2 then extRead s P (old + 64 * k) 64 else homeRead s t 0 (old + 64 * k) 64) with
    | some bs =>
      let s1 := dramWrite s t (new + 64 * k) bs
      { s1 with mm := { s1.mm with bad := s1.mm.bad.filter (fun x => x != new / 64 + k) } }
    | none => { s with mm := { s.mm with bad := s.mm.bad ++ [new / 64 + k] } }) s

/-- The page's view sectors, and what splits watch, go over to the new frame: until the switch, loads read the old one (R277). -/
def moveSectors (s1 : State) (old size new : Nat) : State :=
  let mv := movedSector old size new
  let s2 : State := { s1 with mm := { s1.mm with sectors := s1.mm.sectors.map (fun x => { x with pa := mv x.pa }) } }
  s2.mapGroups (fun g => g.mapSplits (fun p =>
    match p.park with
    | .word x w d => { p with park := .word (mv x) w d }
    | _ => p))

/-- The address of the level-0 entry of a page. -/
def leafSlot (s : State) (c : Context) (va : Nat) : Option Nat :=
  let next (frame level : Nat) : Option Nat :=
    (homeRead s c.tenancy 0 (frame + 8 * (va / 2 ^ (12 + 9 * level) % 512)) 8).map (fun bs => leNat bs / 4096 % 2 ^ 40 * 4096)
  ((next c.root 3).bind (fun f => next f 2)).bind (fun f => next f 1) |>.map (fun f => f + 8 * (va / 4096 % 512))

/-- Write the new frame into the leaf entry, or the 16 entries of a 64 KiB page, take the page's view sectors over, and complete the
invalidation (R277 step 4). -/
def switchFrame (s : State) (c : Context) (va old size new : Nat) : State :=
  match leafSlot s c va with
  | none => s
  | some a =>
    let s1 := (List.range (size / 4096)).foldl (fun s i =>
      match homeRead s c.tenancy 0 (a + 8 * i) 8 with
      | some bs => dramWrite s c.tenancy (a + 8 * i) (leBytes (leNat bs / 2 ^ 52 * 2 ^ 52 + (new + 4096 * i) + leNat bs % 4096) 8)
      | none => s) s
    dropRange (moveSectors s1 old size new) c.asid va size

/-- A view that is being committed has a sector of the page (R277). -/
def frameCommits (s : State) (old size : Nat) : Bool :=
  s.mm.sectors.any (fun x => decide (old ≤ 64 * x.pa) && decide (64 * x.pa < old + size) && ((s.view? x.view).bind (·.commit)).isSome)

def State.setCommand (s : State) (i : Nat) (c : Command) : State := { s with mm := { s.mm with commands := s.mm.commands.set i c } }

/-- A migration takes its next step, where it may: marking the page, waiting for its lines, copying, switching, letting stores go on (DEDUCED, log entry 60). -/
def execMigrateProceed (i : Nat) (s : State) : Result :=
  match s.mm.commands[i]? with
  | none => .next s
  | some c =>
    match s.mm.contexts.find? (fun x => x.asid == c.asid) with
    | none => .next s
    | some x =>
      if c.op != 4 || c.ready then .next s
      else
        match c.step with
        | 0 => if frameCommits s c.old c.size then .next s else .next (s.setCommand i { c with step := 1, start := s.clock })
        | 1 =>
          let s1 := cleanFrame s c.old c.size
          if frameHeld s1 c.old c.size then .next s1 else .next (s1.setCommand i { c with step := 2 })
        | 2 =>
          let attr := ((tableLeaf s x c.va).map (·.1.attr)).getD 0
          .next ((copyFrame s c.asid x.tenancy c.old c.size c.arg attr).setCommand i { c with step := 3 })
        | 3 =>
          if frameRead s c.old c.size then .next s
          else .next ((switchFrame s x c.va c.old c.size c.arg).setCommand i { c with step := 4 })
        | _ => .next (s.setCommand i { c with step := 5, ready := true })

/-- Step 2 of a migration has lasted 1,000,000 ticks: the page is unmarked. -/
def execMigratePinned (i : Nat) (s : State) : Result :=
  match s.mm.commands[i]? with
  | none => .next s
  | some c =>
    if c.op = 4 && !c.ready && c.step = 1 && c.start + 1000000 ≤ s.clock then .next (s.setCommand i { c with step := 0, status := 10, ready := true })
    else .next s

/-! ## Answers to replayable faults (R294, R383, R385, R418) -/

/-- A split in FAULT has unfinished accesses on a page: its lanes there, and the lowest of their addresses (DEDUCED, log entry 27). -/
def faultLanes (q : Split) (page : Nat) : Option (LaneMask × Nat) :=
  if q.st != .fault then none
  else
    match q.faddr.filter (fun x => x.2 / 4096 * 4096 == page) with
    | [] => none
    | xs =>
      let m := if xs.all (fun x => decide (x.1 < 32)) then maskOf (xs.map (·.1)) else q.active
      some (m, xs.foldl (fun a x => min a x.2) ((xs.head?.map (·.2)).getD 0))

/-- INVALID reaches the splits that wait on a page: TRANSLATION, but for a group in supervisor mode or whose block is leaving (R418). -/
def invalidSplits (s : State) (asid page : Nat) : State :=
  s.fe.groups.foldl (fun s g0 =>
    (List.range 4).foldl (fun s i =>
      match s.split? g0.gid i with
      | none => s
      | some (g, q) =>
        let running := match s.block? g.bid with | some b => b.st == .running && !evicted b g | none => false
        if (s.party g).asid != asid || g.mode || !running then s
        else
          match faultLanes q page with
          | some (m, a) => raiseAt s g.gid i q.pc (.mk' 0x06 m (BitVec.ofNat 64 a)) false
          | none => s) s) s

/-- A response reaches the engines that have met its page: requests, and the MMAs of every tag. -/
def answerEngines (s : State) (asid page : Nat) (invalid : Bool) : State :=
  let s1 := s.en.copies.foldl (fun s c =>
    match s.en.copies.find? (fun x => x.id == c.id) with
    | some r => answerCopy s r asid page invalid
    | none => s) s
  { s1 with en := { s1.en with tags := s1.en.tags.map (fun t => t.answered asid page invalid) } }

/-- A response for a page: its fault is no longer outstanding, and INVALID fails what waits on it. -/
def respond (s : State) (asid page : Nat) (pri invalid : Bool) : State :=
  let one (f : PageFault) : Bool := f.asid == asid && f.va == page && f.pri.isSome == pri
  if !s.mm.faults.any (fun f => one f && f.posted) then s
  else
    let s0 : State := { s with mm := { s.mm with faults := s.mm.faults.filter (fun f => !one f) } }
    let s1 := sendRequests s0.mm.faults.length s0
    let s2 := answerEngines s1 asid page invalid
    if invalid then invalidSplits s2 asid page else s2

/-- The host answers a record of the fault queue. -/
def execFaultResponse (asid va : Nat) (invalid : Bool) (s : State) : Result :=
  barRow [0] 0x20108 s (fun s => respond s asid (va / 4096 * 4096) false invalid)

/-- The page requests of a function that are outstanding. -/
def functionRequests (s : State) (fn : Nat) : List PageFault := s.mm.faults.filter (fun f => f.pri.any (fun r => r.fn == fn))

/-- A PRG Response of a function. -/
def execPrgResponse (fn asid va code : Nat) (s : State) : Result :=
  let page := va / 4096 * 4096
  let mine := (functionRequests s fn).any (fun f => f.asid == asid && f.va == page)
  match code with
  | 0 => .next (if mine then respond s asid page true false else s)
  | 1 => .next (if mine then respond s asid page true true else s)
  | _ =>
    let s0 : State := { s with mm := { s.mm with faults := s.mm.faults.map (fun f => { f with posted := f.posted || f.pri.any (fun r => r.fn == fn) }) } }
    let s1 := (functionRequests s0 fn).foldl (fun s f => respond s f.asid f.va true true) s0
    .next { s1 with sys := { s1.sys with priOff := if s1.sys.priOff.contains fn then s1.sys.priOff else s1.sys.priOff ++ [fn] } }

/-- The host sets PRI Enable of a function. -/
def execPriEnable (fn : Nat) (s : State) : Result := .next { s with sys := { s.sys with priOff := s.sys.priOff.filter (fun x => x != fn) } }

/-- An access to host memory of a range is not performed yet. -/
def hostBusy (s : State) (addr len : Nat) : Bool :=
  s.fe.groups.any (fun g => (groupBuffer g).any (fun x => inFrame (2 ^ 51 + addr) len x.place)) || frameRead s (2 ^ 51 + addr) len

/-- An ATS invalidation of a function completes once every access that used it has been performed (R384). -/
def execAtsInvalidation (fn addr len : Nat) (s : State) : Result :=
  if hostBusy s addr len then .next s
  else
    .next { s with sys := { s.sys with ats := s.sys.ats.filter (fun x => !(x.1 == fn && decide (addr < 4096 * x.2.2 + 4096) && decide (4096 * x.2.2 < addr + len))) } }

end Sys2Proof.Machine
end

