-- ==== Sys2Proof/Machine/Errors.lean ====
section
/-! DEFINITION. Errors that hardware finds and what they bring about, the link, the echo queue, and the loss of a cluster or site
(21_views_containment_hardware.md R371 to R376; 23 R386 to R388; 15 R308; 08 R182; 13 R281, R282; 25 R416). -/

namespace Sys2Proof.Machine

/-! ## Access that ends in an abort completion (R372, R387) -/

/-- Lanes of an outstanding load or atomic end in an abort: their registers keep their values, and MEM_ABORT follows at the ebb (R52). -/
def failLanes (s : State) (gid seq : Nat) (lanes : LaneMask) (pa va : Nat) : State :=
  match s.group? gid with
  | none => s
  | some g =>
    match g.pending.find? (fun x => x.seq == seq) with
    | none => s
    | some x =>
      let P := s.party g
      let s1 := noteAbort (abortTo s P pa va (abortAction s P)) gid (lowestHolder g x) pa
      settleGroup (dropParts s1 gid x (x.parts.filter (fun r => !laneIn lanes r.lane))) gid

/-- A buffered store ends in an abort. -/
def failStore (s : State) (gid i : Nat) (x : BufStore) : State :=
  match s.group? gid, x.place with
  | some g, .global pa va _ _ =>
    let s1 := (dropLink s gid i x).mapGroup gid (fun g => g.mapSplits (fun q => { q with buffer := q.buffer.filter (fun y => y != x) }))
    failEntry s1 gid i (s.party g) pa va x.scope
  | _, _ => s

/-- The first outstanding load of a sector: group, order, lane, and its addresses. -/
def loadOf (s : State) (sec : Nat) : Option (Nat × Nat × Nat × Nat × Nat) :=
  s.fe.groups.findSome? (fun g => g.pending.findSome? (fun x => x.parts.findSome? (fun r =>
    match r.load with
    | some (.global pa va _ _, _) => if pa / 64 = sec then some (g.gid, x.seq, r.lane, pa, va) else none
    | _ => none)))

/-- The first buffered store to a sector: group, split, and the store. -/
def storeOf (s : State) (sec : Nat) : Option (Nat × Nat × BufStore) :=
  s.fe.groups.findSome? (fun g => g.splits.findSome? (fun q =>
    (q.buffer.find? (fun x => match x.place with | .global pa _ _ _ => pa / 64 == sec | .pool _ => false)).map (fun x => (g.gid, q.idx, x))))

/-- A flit of an access to a sector has failed for the ninth time: that access ends in an abort. Where none is outstanding, it is the next access to
the sector, whoever makes it (R371, R372) (DEDUCED, log entry 51). -/
def failAccess (s0 : State) (unit sec : Nat) : State :=
  let s : State := { s0 with mm := { s0.mm with flits := setKey s0.mm.flits sec unit } }
  match loadOf s sec with
  | some (gid, seq, l, pa, va) => failLanes s gid seq (1#32 <<< l) pa va
  | none => match storeOf s sec with
    | some (gid, i, x) => failStore s gid i x
    | none => s

/-! ## Checks that fail (R371 to R374, R379) -/

/-- The tenancy whose data a DRAM sector holds: that of the key it was written under, where a slot holds it. -/
def sectorOwner (s : State) (sec : Nat) : Option Nat :=
  (sectorKey s sec).bind (fun k => (s.sys.slots.find? (fun x => x.slot != 0 && x.loaded && x.key.toNat == k)).map (·.owner.toNat))

/-- A record of a sector. -/
def sectorError (s : State) (unit sev action sec : Nat) (t : Option Nat) (cluster core : Nat) (va : Option (Nat × Nat)) : State :=
  writeError s { unit, sev, action, cause := 0, tenancy := t, va, cluster, core, slot := 0, pa := 64 * sec, launch := 0, block := 0xFFFFFFFF }

/-- A copy of a lost sector serves no more of it than the bytes its own holder has written: reads go to the home, where they end in aborts (R373). -/
def dropLost (s : State) (v sec : Nat) : State :=
  let hit (w pa : Nat) : Bool := pa == sec && (v == 0 || (viewChain s 5 w).contains v)
  let s1 := s.setL1 (s.mm.l1.map (fun x => if hit x.view x.pa then { x with valid := x.dirty } else x))
  s1.setL2 (s1.mm.l2.map (fun x => if hit x.view x.pa then { x with valid := x.dirty } else x))

/-- A dirty sector is lost: its home marks it; a view's is the view's own, and fails what reads or commits it there (R368, R373) (DEDUCED, log entry 51). -/
def loseSector (s : State) (v sec : Nat) (ws : List (Nat × Nat × Scope)) : State :=
  let s1 : State :=
    if v = 0 then { s with mm := { s.mm with lost := if s.mm.lost.contains sec then s.mm.lost else s.mm.lost ++ [sec] } }
    else markBad s v sec 1
  failWriters (dropLost s1 v sec) sec ws

/-- An uncorrectable error in one of the L1 copies of a sector: a clean line is fetched again, a dirty one is lost (DEDUCED, log entry 51). -/
def l1Error (s : State) (sec : Nat) : State :=
  match chosen s (s.mm.l1.filter (fun x => x.pa == sec)) with
  | none => s
  | some x =>
    let t := (sectorParty s x).tenancy
    let s1 := s.setL1 (s.mm.l1.filter (fun y => y != x))
    let va := some (64 * x.va, x.asid)
    if x.dirty == 0 then sectorError s1 3 1 0 sec (some t) x.cluster x.core va
    else sectorError (loseSector s1 x.view sec (x.writers.map (fun w => (w.1, w.2, x.scope)))) 3 2 6 sec (some t) x.cluster x.core va

/-- The same in one of the L2 copies (DEDUCED, log entry 51). -/
def l2Error (s : State) (sec : Nat) : State :=
  match chosen s (s.mm.l2.filter (fun x => x.pa == sec)) with
  | none => s
  | some x =>
    let s1 := s.setL2 (s.mm.l2.filter (fun y => y != x))
    if x.dirty == 0 then sectorError s1 2 1 0 sec (some x.tenancy) x.cluster 0 none
    else sectorError (loseSector s1 x.view sec (x.writers.map (fun w => (w.1, w.2, x.scope)))) 2 2 6 sec (some x.tenancy) x.cluster 0 none

/-- The data of a sector that stands at its home, in its DRAM or its LLC: view 0's, and a view's sector, spilled to DRAM or held in the LLC. -/
def homeCopies (s : State) (unit sec : Nat) : List Nat :=
  0 :: (s.mm.sectors.filter (fun x => x.pa == sec && !x.dead && x.spilled == (unit == 0))).map (·.view)

/-- An uncorrectable error in one of the copies of a sector at its home: a sector whose only current copy it was is lost, with its record; another is met
by the reads of it, which end in aborts with theirs, and by a commit of its view (R368, R372, R373, R379) (DEDUCED, log entry 51). -/
def homeError (s : State) (unit sec : Nat) (lost : Bool) : State :=
  let v := (chosen s (homeCopies s unit sec)).getD 0
  if lost then sectorError (loseSector s v sec (writersOf s v sec)) unit 2 6 sec (if v = 0 then sectorOwner s sec else none) (24 * homeSite (64 * sec)) 0 none
  else if v != 0 then markBad s v sec unit
  else
    { s with mm :=
      { s.mm with
        bad := if s.mm.bad.contains sec then s.mm.bad else s.mm.bad ++ [sec]
        failedIn := setKey s.mm.failedIn sec unit } }

/-- An uncorrectable error in a pool's bytes: the reads of them end in aborts, with their records (R176, R371, R379) (DEDUCED, log entry 51). -/
def poolError (s : State) (sec : Nat) : State :=
  { s with mm := { s.mm with bad := if s.mm.bad.contains sec then s.mm.bad else s.mm.bad ++ [sec] } }

/-- A check of a unit fails on the sector at an address (DEDUCED, log entry 51). -/
def execErrorDetected (unit pa : Nat) (corrected lost : Bool) (s : State) : Result :=
  let sec := pa / 64
  if corrected then .next (sectorError s (unit % 12) 0 0 sec (sectorOwner s sec) (24 * homeSite pa) 0 none)
  else
    match unit with
    | 0 => .next (homeError s 0 sec lost)
    | 1 => .next (homeError s 1 sec lost)
    | 2 => .next (if poolErrors ≤ pa then poolError s sec else l2Error s sec)
    | 3 => .next (l1Error s sec)
    | 5 => .next (failAccess s 5 sec)
    | 6 => .next (failAccess s 6 sec)
    | 8 => .next (failAccess s 8 sec)
    | _ => .next (sectorError s (unit % 12) 1 0 sec none 0 0 none)

/-- An uncorrectable error of a register file strikes a block: a resilient one rolls back, an atomic one aborts, once a commit under way has ended,
and any other is killed (R374) (DEDUCED, log entry 35). -/
def strikeBlock (s : State) (b : Block) : State :=
  let act := abortAction s (s.partyOf b)
  if act = 2 then
    match b.shadow with
    | some sh => rollback (blockError s b 4 1 2 0 0) b sh
    | none => s
  else if act = 8 then
    if commitRuns s b then s.mapBlock b.bid (fun x => { x with struck := true })
    else abortAtomic (blockError s b 4 1 8 0 0) b
  else killBlock (blockError s b 4 1 9 0 0) b

/-- A block struck during a commit that has ended since (R374). -/
def struckStep (s : State) (bid : Nat) : State :=
  match s.block? bid with
  | none => s
  | some b =>
    if b.struck && !commitRuns s b then strikeBlock (s.mapBlock bid (fun x => { x with struck := false })) { b with struck := false }
    else s

/-- A register file or split table check of a group fails (R374) (DEDUCED, log entry 35). -/
def execRegisterFileError (gid : Nat) (corrected : Bool) (s : State) : Result :=
  match s.group? gid with
  | none => .next s
  | some g =>
    match s.block? g.bid with
    | none => .next s
    | some b =>
      if !onCore s g then .next s
      else if corrected then .next (blockError s b 4 0 0 0 0)
      else .next (strikeBlock s b)

/-! ## The link (R387) -/

/-- The access of a link request ends in an abort (DEDUCED, log entry 53). -/
def failLink (s : State) (r : LinkReq) : State :=
  let s1 : State := { s with en := { s.en with link := s.en.link.filter (fun x => x.id != r.id) } }
  match s.split? r.gid r.sp with
  | none => s1
  | some (g, q) =>
    if r.isStore then
      match q.buffer.find? (fun x => (storeLink s r.gid r.sp x).map (·.id) == some r.id && x.seq == r.seq && overLink s x.place) with
      | some x => failStore s r.gid r.sp x
      | none => s1
    else
      if g.pending.any (fun x => x.seq == r.seq && x.parts.any (fun y => y.lane == r.lane)) then
        failLanes s1 r.gid r.seq (1#32 <<< r.lane) r.pa r.va
      else s1

/-- A flit of a request fails: it is sent again, up to 8 times. -/
def execFlitRetry (req : Nat) (s : State) : Result :=
  match s.en.link.find? (fun x => x.id == req) with
  | none => .next s
  | some r =>
    if r.retries < 8 then
      let t := (s.group? r.gid).map (fun g => (s.party g).tenancy)
      let s1 := writeError s { unit := 8, sev := 0, action := 0, cause := 0, tenancy := t, va := none, cluster := 0, core := 0, slot := 0, pa := 0,
                               launch := 0, block := 0xFFFFFFFF }
      .next { s1 with en := { s1.en with link := s1.en.link.map (fun x => if x.id == req then { x with retries := x.retries + 1 } else x) } }
    else .next (failLink s r)

/-- A request has not completed after 2^22 ticks. -/
def execLinkAccessTimeout (req : Nat) (s : State) : Result :=
  match s.en.link.find? (fun x => x.id == req) with
  | none => .next s
  | some r => if r.start + 2 ^ 22 ≤ s.clock then .next (failLink s r) else .next s

/-- The bytes that a remote atomic writes: the slots of set A, then those of set B; a compare value stands before the new one (R177) (DEDUCED, log entry 53). -/
def remoteAtomic (k : Nat) (bs old : List Byte) : List Byte :=
  let a (z : AtomA) : List Byte := leBytes (atomAWord z (BitVec.ofNat 32 (leNat old)) (BitVec.ofNat 32 (field bs 0 4))).toNat 4
  let b (z : AtomB) : List Byte := leBytes (atomBWord z (BitVec.ofNat 64 (leNat old)) (BitVec.ofNat 64 (field bs 0 (atomBSize z)))).toNat (atomBSize z)
  match k with
  | 0 => a .add
  | 1 => a .fadd
  | 2 => a .min
  | 3 => a .max
  | 4 => a .and
  | 5 => a .or
  | 6 => a .exch
  | 7 => if old == bs.take 4 then (bs.drop 4).take 4 else old
  | 8 => b .xor
  | 9 => b .umin
  | 10 => b .umax
  | 11 => b .add64
  | 12 => b .exch64
  | 13 => if old == bs.take 8 then (bs.drop 8).take 8 else old
  | 14 => b .min64
  | _ => b .max64

/-- Bytes of a remote atomic's location. -/
def remoteSize (k : Nat) : Nat := if k < 11 then 4 else 8

/-- The frame is exported to a tenancy (R388) (DESIGN CHOICE, log entry 70). -/
def exported (s : State) (t off : Nat) : Bool :=
  s.sys.expEn && isDram off && (match homeRead s deviceTenancy 0 (s.sys.expBase.toNat / 4096 * 4096 + off / 2 ^ 21) 1 with
    | some bs => leNat bs == t + 1
    | none => false)

/-- A remote access waits: an engine owns the line, a pin holds it, or its page is moving to a new frame (R273, R277). -/
def remoteHeld (s : State) (off n : Nat) : Bool :=
  lineOwned s off || pinned s (.global off 0 1 4096) n || s.mm.commands.any (fun c => c.op == 4 && !c.ready && decide (1 ≤ c.step) && inFrame c.old c.size (.global off 0 1 4096))

/-- The access of another device's tenancy ends in an abort: a record at this device where a unit of it has failed (R372, R387, R399). -/
def remoteAbort (s : State) (tenancy off : Nat) : State :=
  abortAs s { cluster := 24 * homeSite off, core := 0, asid := 0, tenancy, view := 0, part := 0, bid := 0 } off none 0

/-- Another device accesses this device's memory: kind 0 a load, 1 a store, and from 2 on an atomic of slot kind - 2 (DEDUCED, log entry 53). -/
def execRemoteAccess (tenancy off kind : Nat) (bytes : List Byte) (s : State) : Result :=
  let P : Party := { cluster := 24 * homeSite off, core := 0, asid := 0, tenancy, view := 0, part := 0, bid := 0 }
  if !exported s tenancy off then
    .next (writeError s { unit := 8, sev := 1, action := 0, cause := 0, tenancy := none, va := none, cluster := 0, core := 0, slot := 0, pa := off,
                          launch := 0, block := 0xFFFFFFFF })
  else
    match kind with
    | 0 => if (homeRead s tenancy 0 off 1).isNone then .next (remoteAbort s tenancy off) else .next s
    | 1 =>
      if remoteHeld s off bytes.length then .next s
      else if storeFails s P (.global off 0 0 4096) bytes.length then .next (remoteAbort s tenancy off)
      else .next (dramWrite s tenancy off bytes)
    | k + 2 =>
      if remoteHeld s off (remoteSize k) then .next s
      else
        match homeRead s tenancy 0 off (remoteSize k) with
        | some old => .next (dramWrite s tenancy off (remoteAtomic k bytes old))
        | none => .next (remoteAbort s tenancy off)

/-! ## The echo queue (R375, R376) -/

/-- The oldest entry of a scheduler. -/
def oldestEcho (s : State) (sched : Nat) : Option EchoEntry := s.fe.echo.find? (fun e => e.sched == sched)

/-- Put another entry in place of an entry, or none. -/
def replaceEcho (s : State) (e : EchoEntry) (r : Option EchoEntry) : State :=
  { s with fe := { s.fe with echo := s.fe.echo.filterMap (fun x => if x == e then r else some x) } }

/-- The oldest entry is re-executed on some lanes; a mismatch writes its record, and raises ECHO at the owning split's next issue slot (R376, R379)
(DEDUCED, log entry 50). -/
def execEchoReexecute (sched : Nat) (lanes mismatch : LaneMask) (s : State) : Result :=
  match (if coreStopped s (sched / 16) then none else oldestEcho s sched) with
  | none => .next s
  | some e =>
    let now := e.left &&& lanes
    let bad := now &&& mismatch
    let rest := e.left &&& ~~~now
    if bad != 0 then
      let s1 := (replaceEcho s e none).mapSplit e.gid e.sp (fun q => { q with echoTrap := q.echoTrap <|> some (e.addr, bad) })
      .next (match s.group? e.gid with | some g => checkRecord s1 g 10 0x13 | none => s1)
    else .next (replaceEcho s e (if rest == 0 then none else some { e with left := rest }))

/-- The oldest entry was not checked within 256 cycles: it is dropped (DEDUCED, log entry 50). -/
def execEchoEntryTimeout (sched : Nat) (s : State) : Result :=
  match oldestEcho s sched with
  | none => .next s
  | some e =>
    if 256 * 80 ≤ e.age then .next (replaceEcho s e none) else .next s

/-! ## Loss of a cluster or a site (R308) -/

/-- A block's rivals and views are gone, and what it held is free; its own entry remains. -/
def stripBlock (s : State) (b : Block) : State × Block :=
  let root := (s.block? (rootBid s 5 b.forkRec b.bid)).getD b
  let rs := rivalsOf s b
  let views := rs.filterMap (fun r => (viewChain s 5 r.view).getLast?)
  let s1 := views.foldl (fun s v => discardTree s v root.bid) s
  let s2 := ((s1.fe.blocks.filter (fun x => x.lid == b.lid && x.index == b.index && x.bid != root.bid)).map (·.bid)).foldl removeBlock s1
  let s3 := { s2 with mm := { s2.mm with forks := s2.mm.forks.filter (fun f => !(f.base.lid == b.lid && f.base.index == b.index)) } }
  (dropGroups (killTags (releaseStorage s3 root.bid) root.bid) root.bid, root)

/-- A block runs again from its start, resume-first, and its cohort's allocations with it, where no member goes on with them (DEDUCED, log entry 52). -/
def restartBlock (s : State) (b : Block) : State :=
  let r := stripBlock s b
  let s1 := r.1.mapBlock r.2.bid (fun x =>
    { x with st := .waiting, view := 0, rival := 0, forkRec := none, clone := false, shadow := none, shadowCopy := 2, staleCopy := false, rolled := false, evict := [], keep := false,
             rollbacks := 0, committed := false, asked := none, struck := false })
  if (cohortOthers s1 r.2).all (fun x => x.st == .ended || x.st == .waiting) then freeAllocs s1 (fun a => a.cohortOwned && a.owner == cohortKey r.2)
  else gcSegs s1

/-- A block recorded complete that has lost its registers does not run again: it ends, once a commit of it that is under way has ended (R259, R308)
(DEDUCED, log entry 52). -/
def loseBlock (s : State) (b : Block) : State :=
  if mustFinish s b then leaveEnding s b else let r := stripBlock s b; exitBlock r.1 r.2

/-- A cluster's copies, pools, tags, requests and translations are gone (DEDUCED, log entry 52). -/
def clearCluster (s : State) (c : Nat) : State :=
  let s1 := s.setL1 (s.mm.l1.filter (fun x => x.cluster != c))
  let s2 := s1.setL2 (s1.mm.l2.filter (fun x => x.cluster != c))
  let gone := (s2.en.copies.filter (fun x => x.cluster == c)).map (·.id)
  let s3 : State :=
    { s2 with
      mm :=
        { s2.mm with
          tlb := s2.mm.tlb.filter (fun x => x.cluster != c)
          allocs := s2.mm.allocs.filter (fun x => x.cluster != c)
          pools := s2.mm.pools.filter (fun x => x.cluster != c)
          owned := s2.mm.owned.filter (fun x => !gone.contains x.2) }
      en := { s2.en with tags := s2.en.tags.filter (fun x => x.cluster != c), copies := s2.en.copies.filter (fun x => x.cluster != c) } }
  gcSegs s3

/-- A site's copies of the queue logs are gone, and are made again from the other copy; an entry without one is lost (R307, R308) (DEDUCED, log entry
45). -/
def loseCopies (n : Nat) (log : List LogEntry) : List LogEntry :=
  (log.filter (fun e => !(e.sites.filter (· != n)).isEmpty)).map (fun e => { e with sites := logSites e.q })

/-- A cluster, or every cluster of a site, is reset or lost (DEDUCED, log entry 52). -/
def execUnitLoss (site : Bool) (n : Nat) (s : State) : Result :=
  let cs := if site then (List.range 24).map (fun k => 24 * n + k) else [n]
  let held (b : Block) : Bool :=
    cs.contains b.cluster && b.st != .ended && b.st != .ending && (b.st != .waiting || b.rolled || (b.forkRec.isSome && !b.clone)) && (b.st != .saved || b.keep)
  let lids := ((s.fe.blocks.filter held).map (·.lid)).eraseDups
  let bs := s.fe.blocks.filter (fun b => lids.contains b.lid && b.st != .ended && !b.committed && rootBid s 5 b.forkRec b.bid == b.bid)
  let done := s.fe.blocks.filter (fun b => held b && b.committed && rootBid s 5 b.forkRec b.bid == b.bid)
  let s1 := done.foldl loseBlock (bs.foldl restartBlock s)
  let s2 := cs.foldl clearCluster s1
  let s3 := if site then { s2 with fe := { s2.fe with log := loseCopies n s2.fe.log } } else s2
  .next (settleWindows { s3 with mm := { s3.mm with walk := if site then s3.mm.walk.filter (fun x => x.site != n) else s3.mm.walk } })

/-! ## Sensors and ageing (R182, R281, R282, R416) -/

/-- What a sensor's reading counts as, in units of 1/16 °C: none counts as 110 °C (DESIGN CHOICE, log entry 15). -/
def sensorCounts (x : BitVec 16) : Nat := if x = 0xFFFF then 1760 else x.toNat

/-- A site enters, or leaves, thermal stop: the clocks of its powered core and matrix islands stop, or start again at ratio 4 (DEDUCED, log entry 68). -/
def thermal (s : State) (site : Nat) (stop : Bool) : State :=
  let f (i : Island) : Island :=
    if !i.on then i else if stop then { i with stopped := true } else if i.stopped then { i with stopped := false, ratio := 4 } else i
  let s1 := (List.range 48).foldl (fun s k => s.mapIsland (48 * site + k) f) s
  { s1 with sys := { s1.sys with stops := s1.sys.stops.filter (· != site) ++ (if stop then [site] else []) } }

/-- THROT follows the islands (R411). -/
def noteIslands (s : State) : State :=
  let own := s.sys.islands.filter (fun x => decide (x.i < 192) && x.on)
  { s with sys := { s.sys with throt := own.any (fun x => decide (x.ratio.toNat < 16)) } }

/-- A site samples its sensors, every 1,000 ticks (DESIGN CHOICE, log entry 15; DEDUCED, log entry 68). -/
def execTemperatureSample (site : Nat) (readings : List (BitVec 16)) (s : State) : Result :=
  if s.clock % 1000 != 0 || 4 ≤ site then .next s
  else
    let rs := (List.range 16).map (fun i => readings.getD i 0xFFFF)
    let t := rs.foldl (fun m x => max m (sensorCounts x)) 0
    let s1 : State :=
      { s with sys :=
        { s.sys with
          sensors := (s.sys.sensors.take (16 * site)) ++ rs ++ s.sys.sensors.drop (16 * site + 16)
          siteT := s.sys.siteT.set site t } }
    let s2 := if rs.any (fun x => x != 0xFFFF && decide (1840 ≤ x.toNat)) then thermal s1 site true
      else if rs.all (fun x => decide (sensorCounts x ≤ 1600)) then thermal s1 site false
      else s1
    .next (noteIslands s2)

/-- The sectors of an L2 line of a cluster that have an age in reference microseconds (DEDUCED, log entry 69). -/
def agedL2 (s : State) (cluster line us : Nat) : List L2Sector :=
  s.mm.l2.filter (fun x => x.cluster == cluster && x.pa / 8 == line && decide (us * ageMicro ≤ x.age))

/-- An L2 line of age 48 reference microseconds: its dirty sectors are written back (DEDUCED, log entry 69). -/
def execL2LineWriteback (cluster line : Nat) (s : State) : Result :=
  .next ((agedL2 s cluster line 48).foldl (fun s x => if x.dirty == 0 then s else (cleanL2 s x).1) s)

/-- An L2 line of age 56 reference microseconds is dropped (DEDUCED, log entry 69). -/
def execL2LineDrop (cluster line : Nat) (s : State) : Result :=
  let old := agedL2 s cluster line 56
  let s1 := old.foldl (fun s x => if x.dirty == 0 then s else (cleanL2 s x).1) s
  .next (s1.setL2 (s1.mm.l2.filter (fun x => !(x.cluster == cluster && x.pa / 8 == line && decide (56 * ageMicro ≤ x.age)))))

end Sys2Proof.Machine
end

