-- ==== Sys2Proof/Machine/Trust.lean ====
section
/-! DEFINITION. The SPDM responders, measurements, key slots, sealed blobs, layout and handover (24_trust.md R400 to R409), and a
partition's supervisor image (18_traps.md R340).

The manual gives what each message holds, and no message's layout but the sealed blob's; log entry 41 gives the layouts the model takes. -/

namespace Sys2Proof.Machine

/-- The bytes of a 64-byte value. -/
def wideBytes (x : BitVec 512) : List Byte := leBytes x.toNat 64

/-- A measurement register is extended by a digest (R401). -/
def extendMeas (s : State) (i : Nat) (d : BitVec 512) : State :=
  { s with sys := { s.sys with meas := s.sys.meas.set i (shake256 (wideBytes (s.sys.meas.getD i 0) ++ wideBytes d)) } }

/-- A value drawn at random. -/
def draw (s : State) : BitVec 256 × State := (Config.nonce s.sys.drawn, { s with sys := { s.sys with drawn := s.sys.drawn + 1 } })

/-! ## Layout (R407) -/

/-- The partitions that a tenancy shares. -/
def shares (s : State) (t p : Nat) : Bool := p != 63 && (s.partition p).tens.any (fun x => x.toNat == t)

/-- The quarters that PART or LENT places in a partition the tenancy shares, in order. -/
def layoutQuarters (s : State) (t : Nat) : List Quarter :=
  (List.range 384).filterMap (fun q => s.sys.quarters.find? (fun x => x.q == q && (shares s t x.part.toNat || shares s t x.lent.toNat)))

/-- The layout of a tenancy, written out in quarter, then partition, order (DEDUCED, log entry 43). -/
def layoutBytes (s : State) (t : Nat) : List Byte :=
  let qs := layoutQuarters s t
  let ps := (List.range 63).filter (fun p => shares s t p && qs.any (fun x => x.part.toNat == p || x.lent.toNat == p))
  qs.flatMap (fun x => leBytes x.q 2 ++ leBytes x.part.toNat 1 ++ leBytes x.lent.toNat 1) ++ leBytes ((s.tenancy t).slot.getD 0) 1 ++
  ps.flatMap (fun p => leBytes p 1 ++ (s.partition p).tens ++ leBytes (s.partition p).slice.toNat 1 ++ wideBytes (s.partition p).imageDigest)

/-- The layout digest; the physical function's is 0 (R404). -/
def layoutDigest (s : State) (t : Nat) : BitVec 512 := if t = 255 then 0 else shake256 (layoutBytes s t)

/-- The tenancies whose layout a change can reach (DEDUCED, log entry 43). -/
def layoutTenancies (s : State) : List Nat :=
  (((s.sys.parts.flatMap (·.tens)).map (·.toNat)) ++ s.sys.tenancies.map (·.t)).filter (fun t => t != 255)

/-- A completed change of `s` into `s'`: LSEQ grows for each tenancy whose layout it changed (R407) (DEDUCED, log entry 43). -/
def noteLayout (s s' : State) : State :=
  ((layoutTenancies s ++ layoutTenancies s').eraseDups).foldl
    (fun r t => if layoutBytes s t = layoutBytes s' t then r else r.mapTenancy t (fun x => { x with lseq := x.lseq + 1 })) s'

/-! ## Answers (R402 to R404) -/

/-- The responder's last answer. -/
def answer (s : State) (fn : Nat) (bs : List Byte) : State := s.mapResponder fn (fun r => { r with answer := bs })

/-- ERROR with a code. -/
def spdmError (s : State) (fn code : Nat) : State := answer s fn [0x14, 0x7F, BitVec.ofNat 8 code, 0]

/-- A request that the state does not accept: the transcript is reset and the state is IDLE. Open sessions survive. -/
def unexpected (s : State) (fn : Nat) : State :=
  (spdmError s fn 0x04).mapResponder fn (fun r => { r with st := .idle, transcript := [], opening := none })

/-- The checks of a request, in R403's order: no other is being answered, the state accepts it, its version, its fields. Then it is answered, and
request and answer join the transcript. No request is answered before boot completes (R401, R410) (PRESUMED, log entry 41; DEDUCED, log entry 42). -/
def spdm (s : State) (fn code : Nat) (version : Byte) (payload : List Byte) (accepted formed : Bool)
    (run : List Byte → State → List Byte × State) : Result :=
  if s.sys.stage != .ready then .next s
  else if (s.responder fn).busy then .next (spdmError s fn 0x03)
  else if !accepted then .next (unexpected s fn)
  else if version != 0x14 then .next (spdmError s fn 0x41)
  else if !formed then .next (spdmError s fn 0x01)
  else
    let req := version :: BitVec.ofNat 8 code :: payload
    let (bs, s1) := run req s
    .next ((answer s1 fn bs).mapResponder fn (fun r => { r with transcript := r.transcript ++ req ++ bs }))

/-- The responder is in a state. -/
def inState (s : State) (fn : Nat) (st : SpdmState) : Bool := (s.responder fn).st == st

/-- The responder moves to a state. -/
def toState (st : SpdmState) (s : State) (fn : Nat) : State := s.mapResponder fn (fun r => { r with st })

/-- GET_VERSION: accepted in every state; the transcript starts again with it (PRESUMED, log entry 41). -/
def execGetVersion (fn : Nat) (version : Byte) (payload : List Byte) (s : State) : Result :=
  spdm s fn 0x84 version payload true (payload.length == 2) (fun _ s =>
    ([0x14, 0x04, 0, 0, 0x14], s.mapResponder fn (fun r => { r with st := .versioned, transcript := [], opening := none })))

/-- CAPABILITIES: CERT, CHAL, MEAS with signature, ENCRYPT, MAC, KEY_EX (PRESUMED, log entry 41). -/
def execGetCapabilities (fn : Nat) (version : Byte) (payload : List Byte) (s : State) : Result :=
  spdm s fn 0xE1 version payload (inState s fn .versioned) (payload.length == 18) (fun _ s =>
    ([0x14, 0x61, 0, 0] ++ leBytes 0x2D6 4, toState .caps s fn))

/-- An algorithm of Clepin's registry. -/
def registryAlg (n : Nat) : List Byte := [0x07] ++ leBytes 0x0001D7C5 4 ++ leBytes n 2

/-- A list cut or filled with zeros to a length. -/
def fit (n : Nat) (bs : List Byte) : List Byte := bs.take n ++ List.replicate (n - bs.length) 0

/-- Entry `i` of a requester's offer. -/
def offered (payload : List Byte) (i : Nat) : List Byte := (payload.drop (9 + 7 * i)).take 7

/-- The requester's offer has what R402 selects: the counts of its ExtAsym, ExtHash and DHE entries, its AEAD and KeySchedule masks, then the entries
(PRESUMED, log entry 41). -/
def offerOk (payload : List Byte) : Bool :=
  let a := (payload.getD 2 0).toNat
  let h := (payload.getD 3 0).toNat
  let d := (payload.getD 4 0).toNat
  payload.length == 9 + 7 * (a + h + d) && (payload.getD 5 0).getLsbD 1 && (payload.getD 7 0).getLsbD 0 &&
    (List.range a).any (fun i => offered payload i == registryAlg 1) && (List.range h).any (fun i => offered payload (a + i) == registryAlg 2) &&
    (List.range d).any (fun i => offered payload (a + h + i) == registryAlg 3)

/-- ALGORITHMS: what R402 selects; an offer without it is malformed (DEDUCED, log entry 42). -/
def execNegotiateAlgorithms (fn : Nat) (version : Byte) (payload : List Byte) (s : State) : Result :=
  spdm s fn 0xE3 version payload (inState s fn .caps) (offerOk payload) (fun _ s =>
    ([0x14, 0x63, 0, 0] ++ leBytes 0 4 ++ leBytes 0 4 ++ registryAlg 1 ++ registryAlg 2 ++ registryAlg 3 ++ leBytes 2 2 ++ leBytes 1 2,
     toState .negotiated s fn))

/-- The device identity's public key (R401). -/
def identityKey (s : State) : List Byte := (Config.identityPair Config.deviceSecret (s.sys.meas.getD 0 0)).1

/-- The device's own identity digest (R409) (DEDUCED, log entry 42). -/
def identityDigest (s : State) : BitVec 512 := shake256 (identityKey s)

/-- The device identity's signature over a message: 1,280 bytes (R401, R404). -/
def signature (s : State) (msg : List Byte) : List Byte :=
  fit 1280 (Config.falconSign (Config.identityPair Config.deviceSecret (s.sys.meas.getD 0 0)).2 msg)

/-- The certificate chain of slot 0: root, identity, and alias for the present MEAS0, as long as R404's trace has it (R402) (PRESUMED, log entry 41). -/
def chainOf (s : State) : List Byte :=
  fit 6208 (Config.rootCert ++ Config.identityCert (identityKey s) ++ Config.aliasCert (s.sys.meas.getD 0 0))

/-- DIGESTS: slot 0's. -/
def execGetDigests (fn : Nat) (version : Byte) (payload : List Byte) (s : State) : Result :=
  spdm s fn 0x81 version payload (inState s fn .negotiated) (payload.length == 2) (fun _ s =>
    ([0x14, 0x01, 0, 0x01] ++ wideBytes (shake256 (chainOf s)), s))

/-- CERTIFICATE: the part of the chain from an offset, and how much remains. The payload is the slot, a parameter, the offset and the length (PRESUMED,
log entry 41); no slot but 0 is offered. -/
def execGetCertificate (fn : Nat) (version : Byte) (payload : List Byte) (s : State) : Result :=
  let c := chainOf s
  let off := field payload 2 2
  let rest := c.drop off
  let n := field payload 4 2
  let formed := payload.length == 6 && payload.getD 0 0 == 0 && decide (off ≤ c.length)
  spdm s fn 0x82 version payload (inState s fn .negotiated) formed (fun _ s =>
    ([0x14, 0x02, 0, 0] ++ leBytes (rest.take n).length 2 ++ leBytes (rest.drop n).length 2 ++ rest.take n, s))

/-- A signed answer: the signature covers the transcript, the request with its nonce, and the answer's own contents (R404). -/
def signed (s : State) (fn : Nat) (req body : List Byte) : List Byte :=
  body ++ signature s ((s.responder fn).transcript ++ req ++ body)

/-- CHALLENGE_AUTH: the chain's hash, the responder's nonce, a signature. The payload is the slot, no summary, and the requester's nonce (PRESUMED, log
entry 41). -/
def execChallenge (fn : Nat) (version : Byte) (payload : List Byte) (s : State) : Result :=
  let formed := payload.length == 34 && payload.getD 0 0 == 0 && payload.getD 1 0 == 0
  spdm s fn 0x83 version payload (inState s fn .negotiated) formed (fun req s =>
    let (n, s1) := draw s
    (signed s1 fn req ([0x14, 0x03, 0, 0] ++ wideBytes (shake256 (chainOf s1)) ++ leBytes n.toNat 32), s1))

/-- What a measurement block of a function holds (R404). -/
def measValue (s : State) (fn i : Nat) : List Byte :=
  let t := s.tenancy (s.responder fn).tenancy
  if i ≤ 4 then wideBytes (s.sys.meas.getD (i - 1) 0)
  else if i = 5 then wideBytes (layoutDigest s t.t)
  else if i = 6 then leBytes t.lseq.toNat 8
  else leBytes t.hseq.toNat 8

/-- The type of a block's value: a digest of firmware, of hardware configuration or of a layout, or a raw number (PRESUMED, log entry 41). -/
def measType (i : Nat) : Nat := if i ≤ 3 then 0x01 else if i = 4 then 0x02 else if i = 5 then 0x03 else 0x83

/-- A measurement block in the DMTF measurement value form: index, the form, its size, the value's type and size, the value (R404) (PRESUMED, log entry
41). -/
def measBlock (s : State) (fn i : Nat) : List Byte :=
  let v := measValue s fn i
  leBytes i 1 ++ [0x01] ++ leBytes (3 + v.length) 2 ++ leBytes (measType i) 1 ++ leBytes v.length 2 ++ v

/-- The blocks that an operation asks for: none but their number, one, or all (PRESUMED, log entry 41). -/
def measBlocks (op : Byte) : List Nat := if op = 0 then [] else if op = 0xFF then [1, 2, 3, 4, 5, 6, 7] else [op.toNat]

/-- MEASUREMENTS. The payload is whether a signature is requested, the operation, and with a signature the requester's nonce and the slot (PRESUMED, log
entry 41). -/
def execGetMeasurements (fn : Nat) (version : Byte) (payload : List Byte) (s : State) : Result :=
  let sign := payload.getD 0 0 == 1
  let op := payload.getD 1 0
  let formed := decide (payload.getD 0 0 ≤ 1) && (decide (op ≤ 7) || op == 0xFF) &&
    payload.length == (if sign then 35 else 2) && payload.getD 34 0 == 0
  spdm s fn 0xE0 version payload (inState s fn .negotiated) formed (fun req s =>
    let bs := (measBlocks op).flatMap (measBlock s fn)
    let body := [0x14, 0x60, if op = 0 then 7 else 0, 0] ++ leBytes (measBlocks op).length 1 ++ leBytes bs.length 3 ++ bs
    (if sign then signed s fn req body else body, s))

/-- KEY_EXCHANGE: a ciphertext for the requester's ML-KEM-1024 key, and a signature; a session's transcript begins. The payload is no summary, the slot,
the requester's half of the session's identifier, and the key (PRESUMED, log entry 41; DEDUCED, log entry 42). -/
def execKeyExchange (fn : Nat) (version : Byte) (payload : List Byte) (s : State) : Result :=
  let formed := payload.length == 1572 && payload.getD 0 0 == 0 && payload.getD 1 0 == 0
  spdm s fn 0xE4 version payload (inState s fn .negotiated) formed (fun req s =>
    let (_, s1) := draw s
    let half := (s.responder fn).sessions.length % 65536
    let bs := signed s1 fn req ([0x14, 0x64, 0, 0] ++ leBytes half 2 ++ fit 1568 (Config.kemCipher (payload.drop 4) s.sys.drawn))
    let x : Session := { id := field payload 2 2 + 65536 * half, transcript := req ++ bs }
    (bs, s1.mapResponder fn (fun r => { r with opening := some x })))

/-- FINISH: the session that KEY_EXCHANGE began is open, once the requester's part verifies against its transcript. -/
def execFinish (fn : Nat) (version : Byte) (payload : List Byte) (s : State) : Result :=
  let r := s.responder fn
  spdm s fn 0xE5 version payload (r.st == .negotiated && r.opening.isSome) (r.opening.any (fun x => Config.finishVerify x.transcript payload))
    (fun req s =>
      let bs := [0x14, 0x65, 0, 0]
      let opened := (r.opening.map (fun x => { x with transcript := x.transcript ++ req ++ bs })).toList
      (bs, s.mapResponder fn (fun r => { r with opening := none, sessions := r.sessions ++ opened })))

/-- The request codes that the responder knows. -/
def spdmCodes : List Byte := [0x84, 0xE1, 0xE3, 0x81, 0x82, 0x83, 0xE0, 0xE4, 0xE5, 0xFE]

/-- Clepin's registry identity in a vendor-defined message (R402, R405) (PRESUMED, log entry 41). -/
def vendorHead : List Byte := leBytes 7 2 ++ [4] ++ leBytes 0x0001D7C5 4

/-- A vendor-defined answer: its status, and what it returns (R405) (PRESUMED, log entry 41). -/
def vendorAnswer (status : Nat) (data : List Byte) : List Byte :=
  [0x14, 0x7E, 0, 0] ++ vendorHead ++ leBytes (1 + data.length) 2 ++ [BitVec.ofNat 8 status] ++ data

/-- The lengths that a key command's fields may have; HANDOVER_IMPORT comes with its record or without (R405, R409). -/
def fieldsLengths (code : Byte) : List Nat :=
  if code = 0x01 then [136]
  else if code = 0x02 then [64]
  else if code = 0x03 then [188]
  else if code = 0x04 then [0]
  else if code = 0x10 then [3208]
  else if code = 0x11 then [8]
  else if code = 0x12 then [8 + 4737, 8 + 4737 + 1417]
  else if code = 0x13 then [1417]
  else []

/-- A vendor-defined request's payload after two parameters: Clepin's identity, a length, and the command of that length. -/
def vendorFormed (payload : List Byte) : Bool :=
  (payload.drop 2).take 7 == vendorHead && decide (12 ≤ payload.length) && field payload 9 2 + 11 == payload.length

/-- A vendor-defined request carries a key command whose fields have its length (R405) (DEDUCED, log entry 42). -/
def commandFormed (payload : List Byte) : Bool := (fieldsLengths (payload.getD 11 0)).any (fun n => payload.length == 12 + n)

/-- A request that belongs to no row of its own: its code is unknown, its version is wrong, or it is a vendor-defined request that is no key
command with its fields. That one is not accepted without a session, InvalidRequest under another identity, and else BAD_COMMAND (R403, R405) (DEDUCED,
log entry 42). -/
def execUnsupportedRequest (fn : Nat) (code : Byte) (version : Byte) (payload : List Byte) (s : State) : Result :=
  let r := s.responder fn
  if s.sys.stage != .ready then .next s
  else if r.busy then .next (spdmError s fn 0x03)
  else if !spdmCodes.contains code then .next (spdmError s fn 0x07)
  else if code == 0xFE && r.sessions.isEmpty then .next (unexpected s fn)
  else if version != 0x14 then .next (spdmError s fn 0x41)
  else if code != 0xFE then .next s
  else if !vendorFormed payload then .next (spdmError s fn 0x01)
  else .next (if commandFormed payload then s else answer s fn (vendorAnswer 7 []))

/-! ## Key commands (R405 to R409) -/

/-- A key command's answer: its status, and what it returns (PRESUMED, log entry 41). -/
def keyAnswer (s : State) (fn status : Nat) (data : List Byte) : State := answer s fn (vendorAnswer status data)

/-- The first check that fails, in the order of the status numbers (R405) (DEDUCED, log entry 42). -/
def firstFailed : List (Nat × Bool) → Option Nat
  | [] => none
  | (n, bad) :: r => if bad then some n else firstFailed r

/-- A key command: in an open session of a function that serves a tenancy; a command that does not return DONE changes nothing (R405) (DEDUCED, log entry 42). -/
def keyCommand (fn : Nat) (s : State) (checks : Nat → List (Nat × Bool)) (run : Nat → State → List Byte × State) : Result :=
  let r := s.responder fn
  if s.sys.stage != .ready then .next s
  else if r.busy then .next (spdmError s fn 0x03)
  else if r.sessions.isEmpty then .next (unexpected s fn)
  else
    match firstFailed (checks r.tenancy ++ [(7, decide (255 ≤ r.tenancy))]) with
    | some n => .next (keyAnswer s fn n [])
    | none =>
      let (bs, s1) := run r.tenancy s
      .next (keyAnswer (noteLayout s s1) fn 0 bs)

/-- The slot a tenancy's key goes to: its present one, or the lowest free one (R405) (DEDUCED, log entry 42). -/
def slotFor (s : State) (t : Nat) : Option Nat :=
  match (s.tenancy t).slot with
  | some n => some n
  | none => (List.range 64).find? (fun n => n != 0 && !(s.slot n).loaded && (s.slot n).owner == 0xFF)

/-- Map the tenancy to its slot and load a key. -/
def loadKey (s : State) (t : Nat) (key : BitVec 512) : State :=
  match slotFor s t with
  | none => s
  | some n =>
    (s.mapSlot n (fun x => { x with loaded := true, owner := BitVec.ofNat 8 t, key := key })).mapTenancy t (fun x => { x with slot := some n })

/-- A layout sequence number that is not the tenancy's (R408). -/
def stale (s : State) (t : Nat) (lseq : DWord) : Bool := (s.tenancy t).lseq != lseq

/-- The key a tenancy works under. -/
def workingKey (s : State) (t : Nat) : Option (BitVec 512) :=
  match (s.tenancy t).slot with
  | some n => if (s.slot n).loaded then some (s.slot n).key else none
  | none => none

/-- KEY_PROVISION: map the tenancy to a slot and load the key. POLICY takes no part in that (R405). -/
def execKeyProvision (fn : Nat) (lseq : DWord) (key : BitVec 512) (_policy : BitVec 512) (s : State) : Result :=
  keyCommand fn s (fun t => [(3, stale s t lseq), (4, (slotFor s t).isNone)]) (fun t s => ([], loadKey s t key))

/-- Bytes 0 to 87 of a tenancy's sealed blob (R406) (PRESUMED, log entry 41). -/
def blobHead (t : Nat) : List Byte := leBytes 1 2 ++ leBytes 1 1 ++ leBytes t 1 ++ List.replicate 84 0

/-- The seal key: the device, its management and base-die firmware, and the policy (R406) (PRESUMED, log entry 85). -/
def sealKey (s : State) (policy : BitVec 512) : List Byte :=
  shake ([0x43, 0x4C, 0x4D, 0x34, 0x20, 0x73, 0x65, 0x61, 0x6C] ++ wideBytes Config.deviceSecret ++ wideBytes (s.sys.meas.getD 0 0) ++
    wideBytes (s.sys.meas.getD 1 0) ++ wideBytes policy) 32

/-- KEY_EXPORT: the sealed blob of the tenancy's key. -/
def execKeyExport (fn : Nat) (policy : BitVec 512) (s : State) : Result :=
  keyCommand fn s (fun t => [(7, (workingKey s t).isNone)]) (fun t s =>
    let (n, s1) := draw s
    let nonce := leBytes n.toNat 12
    (blobHead t ++ nonce ++ gcmSeal (sealKey s policy) nonce (blobHead t) (wideBytes ((workingKey s t).getD 0)), s1))

/-- Open a sealed blob; `none` where its tag fails (R406). -/
def openBlob (s : State) (policy : BitVec 512) (blob : List Byte) : Option (BitVec 512) :=
  (gcmOpen (sealKey s policy) ((blob.drop 88).take 12) (blob.take 88) (blob.drop 100)).map (fun bs => BitVec.ofNat 512 (leNat bs))

/-- KEY_LOAD: open the blob, and load its key as KEY_PROVISION does (DEDUCED, log entry 42). -/
def execKeyLoad (fn : Nat) (lseq : DWord) (blob : List Byte) (policy : BitVec 512) (s : State) : Result :=
  let k := openBlob s policy blob
  keyCommand fn s
    (fun t => [(1, k.isNone), (2, (blob.getD 3 0).toNat != t), (3, stale s t lseq), (4, (slotFor s t).isNone),
               (7, blob.length != 180 || blob.take 88 != blobHead t)])
    (fun t s => ([], loadKey s t (k.getD 0)))

/-- Erase a slot's key. -/
def eraseSlot (s : State) (n : Nat) : State := s.mapSlot n (fun x => { x with loaded := false, key := 0 })

/-- KEY_CLEAR: erase the slot's key and unmap the tenancy. -/
def execKeyClear (fn : Nat) (s : State) : Result :=
  keyCommand fn s (fun _ => []) (fun t s =>
    match (s.tenancy t).slot with
    | none => ([], s)
    | some n => ([], ((eraseSlot s n).mapSlot n (fun x => { x with owner := 0xFF })).mapTenancy t (fun x => { x with slot := none })))

/-! ### Handover (R409)

A state packet: tenancy (1 byte), HSEQ (8), destination identity digest (64), the wrapped key and the recovery wrap (1,660 bytes each), the
source's identity digest (64), its signature. A record, and a confirmation: tenancy, HSEQ, the packet's digest (64), the signer's identity
digest (64), its signature. -/

/-- Bytes of a packet, and of a record, that its signature covers. -/
def packetBody : Nat := 1 + 8 + 64 + 1660 + 1660 + 64

def recordBody : Nat := 1 + 8 + 64 + 64

/-- A field of a message as a 64-byte value. -/
def wideAt (bs : List Byte) (off : Nat) : BitVec 512 := BitVec.ofNat 512 (leNat ((bs.drop off).take 64))

def packetTenancy (bs : List Byte) : Nat := (bs.getD 0 0).toNat

def packetHseq (bs : List Byte) : DWord := BitVec.ofNat 64 (leNat ((bs.drop 1).take 8))

/-- Sign a message's body with the device's identity. -/
def signBody (s : State) (body : List Byte) : List Byte := body ++ signature s body

/-- A message's signature verifies under an identity: its own signatures under the device's (DEDUCED, log entry 42). -/
def verified (s : State) (who : BitVec 512) (n : Nat) (bs : List Byte) : Bool :=
  (who == identityDigest s && bs == signBody s (bs.take n)) || Config.identityVerify who (bs.take n) (bs.drop n)

/-- A key encapsulated to an ML-KEM-1024 key: ciphertext, nonce, and the key under AES-256-GCM with the shared secret (R409) (PRESUMED, log entry 41). -/
def kemWrap (ek : List Byte) (drawn : Nat) (nonce : List Byte) (key : BitVec 512) : List Byte :=
  let ct := fit 1568 (Config.kemCipher ek drawn)
  ct ++ nonce ++ gcmSeal (fit 32 (Config.kemSecret ek ct)) nonce [] (wideBytes key)

/-- The device's own opening of a wrap; `none` where its tag fails. -/
def kemUnwrap (bs : List Byte) : Option (BitVec 512) :=
  (gcmOpen (fit 32 (Config.kemSecret (fit 1568 Config.kemKey) (bs.take 1568))) ((bs.drop 1568).take 12) [] (bs.drop 1580)).map
    (fun k => BitVec.ofNat 512 (leNat k))

/-- A record, or a confirmation, of a packet (PRESUMED, log entry 41). -/
def packetRecord (s : State) (t : Nat) (hseq : DWord) (packet : List Byte) : List Byte :=
  signBody s (leBytes t 1 ++ leBytes hseq.toNat 8 ++ wideBytes (shake256 packet) ++ wideBytes (identityDigest s))

/-- HANDOVER_EXPORT: the signed state packet. -/
def execHandoverExport (fn : Nat) (hseq : DWord) (dest recovery : List Byte) (digest : BitVec 512) (s : State) : Result :=
  keyCommand fn s
    (fun t => [(5, decide (hseq ≤ (s.tenancy t).hseq)), (7, dest.length != 1568 || recovery.length != 1568 || (workingKey s t).isNone)])
    (fun t s =>
      let key := (workingKey s t).getD 0
      let (a, s1) := draw s
      let (b, s2) := draw s1
      let packet := signBody s (leBytes t 1 ++ leBytes hseq.toNat 8 ++ wideBytes digest ++ kemWrap dest s.sys.drawn (leBytes a.toNat 12) key ++
        kemWrap recovery s1.sys.drawn (leBytes b.toNat 12) key ++ wideBytes (identityDigest s))
      (packet, s2.mapTenancy t (fun x => { x with hseq, exported := some packet, committed := false, confirmed := false })))

/-- HANDOVER_COMMIT: the working key is erased, and then the signed commit-intent record is returned (DEDUCED, log entry 42). -/
def execHandoverCommit (fn : Nat) (hseq : DWord) (s : State) : Result :=
  let packet (t : Nat) : List Byte := ((s.tenancy t).exported).getD []
  keyCommand fn s
    (fun t => [(5, (s.tenancy t).hseq != hseq), (7, (s.tenancy t).exported.isNone || packetHseq (packet t) != hseq)])
    (fun t s =>
      let s1 := match (s.tenancy t).slot with | some n => eraseSlot s n | none => s
      (packetRecord s t hseq (packet t), s1.mapTenancy t (fun x => { x with committed := true })))

/-- A record is the signed commit-intent record of a packet, by the packet's source. -/
def namesPacket (record packet : List Byte) : Bool :=
  packetTenancy record == packetTenancy packet && packetHseq record == packetHseq packet && wideAt record 9 == shake256 packet

/-- HANDOVER_IMPORT: load the packet's key as KEY_PROVISION does, once for each HSEQ, and return the signed confirmation. -/
def execHandoverImport (fn : Nat) (lseq : DWord) (packet record : List Byte) (s : State) : Result :=
  let key := kemUnwrap ((packet.drop 73).take 1660)
  let source := wideAt packet (packetBody - 64)
  let again (t : Nat) : Bool := (s.tenancy t).imported == some packet && (s.tenancy t).hseq == packetHseq packet
  keyCommand fn s
    (fun t =>
      [(1, !verified s source packetBody packet || (!record.isEmpty && !verified s source recordBody record) ||
           wideAt packet 9 != identityDigest s || key.isNone),
       (2, packetTenancy packet != t || (!record.isEmpty && packetTenancy record != t)),
       (3, stale s t lseq), (4, (slotFor s t).isNone),
       (5, !again t && decide (packetHseq packet ≤ (s.tenancy t).hseq)),
       (6, !namesPacket record packet),
       (7, packet.length != packetBody + 1280 || record.length != recordBody + 1280)])
    (fun t s =>
      let s1 := if again t then s else (loadKey s t (key.getD 0)).mapTenancy t (fun x => { x with hseq := packetHseq packet, imported := some packet })
      (packetRecord s t (packetHseq packet) packet, s1))

/-- HANDOVER_CONFIRM: the destination's signed confirmation of the committed packet records the handover as complete. -/
def execHandoverConfirm (fn : Nat) (confirmation : List Byte) (s : State) : Result :=
  let packet (t : Nat) : List Byte := ((s.tenancy t).exported).getD []
  keyCommand fn s
    (fun t =>
      [(1, !verified s (wideAt (packet t) 9) recordBody confirmation || wideAt confirmation 9 != shake256 (packet t)),
       (2, packetTenancy confirmation != t), (5, packetHseq confirmation != (s.tenancy t).hseq), (6, !(s.tenancy t).committed), (7, confirmation.length != recordBody + 1280)])
    (fun t s => ([], s.mapTenancy t (fun x => { x with confirmed := true })))

/-! ## Supervisor images (R340, R401) -/

/-- The host loads a partition's supervisor image: measured into MEAS2, with its entry and save region (DEDUCED, log entry 58). -/
def execSupervisorImageLoad (part : Nat) (image : List Byte) (entry save : Pc) (s : State) : Result :=
  if s.sys.stage != .ready || decide (63 ≤ part) then .next s
  else
    let d := shake256 image
    let s1 := (extendMeas s 2 d).mapPartition part (fun p => { p with tvec := entry, saveBase := save, imageDigest := d })
    .next (noteLayout s s1)

end Sys2Proof.Machine
end

