-- ==== Sys2Proof/Machine/Quarters.lean ====
section
/-! DEFINITION. Quarters and their loans, the tenancy latches, and the rate controllers (23_system.md R389, R390, R395; 24 R396, R397, R407;
25 R413, R414; 15 R319, R320). -/

namespace Sys2Proof.Machine

/-! ## Islands of a cluster (R413, R414) -/

/-- The ratio that a cluster's islands are switched on at: that of a powered island of its site, else of any, else full (DEDUCED, log entry 55). -/
def presentRatio (s : State) (cluster : Nat) : BitVec 5 :=
  let own := s.sys.islands.filter (fun x => decide (x.i < 192) && x.on)
  (((own.filter (fun x => x.i / 48 == siteOf cluster)) ++ own).head?.map (·.ratio)).getD 16

/-- Both islands of a cluster are on. -/
def clusterOn (s : State) (cluster : Nat) : Bool := (s.island (2 * cluster)).on && (s.island (2 * cluster + 1)).on

/-- Switch both islands of a cluster on, with their clocks stopped while the site is in thermal stop, or off (R414, R416) (DEDUCED, log entry 55). -/
def powerCluster (s : State) (cluster : Nat) (on : Bool) : State :=
  let k := if on then presentRatio s cluster else 0
  let f (x : Island) : Island := if x.on == on then x else { x with on, stopped := on && s.sys.stops.contains (siteOf cluster), ratio := k }
  noteIslands ((s.mapIsland (2 * cluster) f).mapIsland (2 * cluster + 1) f)

/-- Some quarter of the cluster is assigned or lent. -/
def clusterAssigned (s : State) (cluster : Nat) : Bool :=
  (List.range 4).any (fun c => let q := s.quarter (4 * cluster + c); q.part != 63 || q.lent != 63)

/-! ## Changes of a quarter (R390) -/

/-- The values of a pending change take effect: PEND clears, the islands follow, and LSEQ grows where a layout changes (R407, R414) (DEDUCED, log entry 55). -/
def completeQuarter (s : State) (quarter : Nat) : State :=
  let cluster := quarter / 4
  let s1 := s.mapQuarter quarter (fun q => { q with part := q.newPart, lent := q.newLent, pend := false, graceEnd := none })
  let s2 := if clusterAssigned s1 cluster then powerCluster s1 cluster true else powerCluster (clearCluster s1 cluster) cluster false
  noteLayout s s2

/-- A write of PART and LENT. It is ignored while a change is pending; a LENT that names the quarter's own partition is ignored; any other
sets PEND and starts the change. A loan on a powered cluster completes at once (DEDUCED, log entry 55). -/
def writeQuarter (s : State) (quarter : Nat) (part lent0 : BitVec 6) : State :=
  let q := s.quarter quarter
  let lent := if lent0 != 63 && lent0 == part then q.lent else lent0
  if q.pend || decide (384 ≤ quarter) then s
  else
    let s1 := s.mapQuarter quarter (fun q => { q with pend := true, newPart := part, newLent := lent })
    if q.lent != 63 && lent != q.lent then
      s1.mapQuarter quarter (fun q => { q with graceEnd := some (s.clock + 1000 * (s.partition q.part.toNat).grace.toNat) })
    else if part != q.part then
      startLatch s1 quarter (servingTenancy s1 ({ q with part, lent }).serves)
    else if clusterOn s1 (quarter / 4) || (part == 63 && lent == 63) then completeQuarter s1 quarter
    else s1

/-- A host write of a quarter's register (R390, R410). -/
def quarterRow (quarter : Nat) (s : State) (k : State → State) : Result := barRow [0] (0x70000 + 8 * quarter) s k

/-- PART is written. -/
def execQuarterPartWrite (quarter : Nat) (v : BitVec 6) (s : State) : Result :=
  quarterRow quarter s (fun s => writeQuarter s quarter v (s.quarter quarter).lent)

/-- LENT is written from 63 to a borrower. -/
def execQuarterLend (quarter : Nat) (v : BitVec 6) (s : State) : Result :=
  if (s.quarter quarter).lent != 63 then .next s else quarterRow quarter s (fun s => writeQuarter s quarter (s.quarter quarter).part v)

/-- LENT is written from a borrower to 63: the grace period of the owner begins (R320). -/
def execQuarterReclaim (quarter : Nat) (s : State) : Result :=
  if (s.quarter quarter).lent == 63 then .next s else quarterRow quarter s (fun s => writeQuarter s quarter (s.quarter quarter).part 63)

/-- The pending change can complete: the grace is over and the latch change with it. -/
def quarterDone (s : State) (quarter : Nat) : Bool :=
  let q := s.quarter quarter
  q.pend && q.graceEnd.isNone && !(s.latch quarter).lpend

/-- The change of a quarter completes. -/
def execLayoutChangeComplete (quarter : Nat) (s : State) : Result :=
  if quarterDone s quarter then .next (completeQuarter s quarter) else .next s

/-! ## Latch changes (R397) -/

/-- A block is still placed on the core. -/
def coreOccupied (s : State) (core : Nat) : Bool :=
  s.fe.blocks.any (fun b => 4 * b.cluster + b.core == core &&
    (b.st == .running || b.st == .stopping || b.st == .saving || b.st == .restoring))

/-- The bound tags of a core's quadrant, each by its primary slot. -/
def quadrantTags (s : State) (core : Nat) : List Nat :=
  (((List.range 8).map (fun j => 8 * (core % 4) + j)).filter (fun p => (s.tag (core / 4) p).st != .free)).map (primaryTag s (core / 4))

/-- Free the tags of a quadrant by TAGKILL; those with waves in the array drain first. -/
def killQuadrant (s : State) (core : Nat) : State :=
  (quadrantTags s core).eraseDups.foldl (fun s p =>
    if (s.tag (core / 4) p).inflight.isEmpty then clearTag s (core / 4) p
    else if (s.tag (core / 4) p).st == .killing then s else killTag s (core / 4) p) s

/-- Clean and drop the L2 lines of a partition's pools in a cluster. -/
def dropL2 (s : State) (p : L2Sector → Bool) : State :=
  let s1 := (s.mm.l2.filter p).foldl (fun s x => if x.dirty == 0 then s else (cleanL2 s x).1) s
  s1.setL2 (s1.mm.l2.filter (fun x => !p x))

/-- Every allocation with a segment in a pool is gone, those of shadows and snapshots too, and the pool's words read 0 (R397) (DEDUCED, log entry 55). -/
def emptyPool (s : State) (cluster pool : Nat) : State :=
  let inPool (a : Alloc) : Bool := a.segs.any (fun g => g / 65536 == cluster && g % 65536 / 768 == pool)
  let strip (x : Shadow) : Shadow := { x with allocs := x.allocs.filter (fun a => !inPool a) }
  freeAllocs
    { s with
      fe := { s.fe with blocks := s.fe.blocks.map (fun b => { b with shadow := b.shadow.map strip }) }
      mm := { s.mm with forks := s.mm.forks.map (fun f => { f with snapshot := strip f.snapshot }) } } inPool

/-- Scrub a pool: a scratchpad pool holds no allocation and reads 0, a FIFO is empty, a cache pool's lines are clean and gone. -/
def scrubPool (s : State) (cluster pool : Nat) : State :=
  match (s.pool cluster pool).mode with
  | .scratch => emptyPool s cluster pool
  | .fifo => s.mapPool cluster pool (fun x => { x with entries := [] })
  | .cache => flushPool s cluster pool

/-- The partition that a quarter serves once its pending change is over; while a grace runs, the one it serves now (R320, R390). -/
def servesNext (q : Quarter) : Nat := if q.pend && q.graceEnd.isNone then ({ q with part := q.newPart, lent := q.newLent } : Quarter).serves else q.serves

/-- The latch change of a core: once no block, copy or bound tag remains, the core and its pools are scrubbed and the latch takes NEXT (DEDUCED, log entry 55). -/
def execLatchChange (core : Nat) (s : State) : Result :=
  let cluster := core / 4
  if !(s.latch core).lpend || coreOccupied s core || s.en.copies.any (fun c => c.cluster == cluster && c.core == core % 4) then .next s
  else
    let s1 := killQuadrant s core
    if !(quadrantTags s1 core).isEmpty then .next s1
    else
      let s2 := flushL1 s1 (fun x => x.cluster == cluster && x.core == core % 4)
      let s3 : State := { s2 with fe := { s2.fe with echo := s2.fe.echo.filter (fun e => e.sched / 4 != core) } }
      let s4 := (List.range 16).foldl (fun s i => scrubPool s cluster (16 * (core % 4) + i)) s3
      let s5 := s4.mapLatch core (fun h => { h with latch := h.next, lpend := false, again := false })
      let t := servingTenancy s5 (servesNext (s5.quarter core))
      .next (if (s4.latch core).again && (s5.latch core).latch.toNat != t then startLatch s5 core t else s5)

/-- The host writes NEXT: ignored while a change is in progress; a value other than LATCH starts one (R396). -/
def writeLatch (s : State) (core : Nat) (v : Byte) : State :=
  let h := s.latch core
  if h.lpend then s
  else if v == h.latch then s.mapLatch core (fun h => { h with next := v })
  else startLatch s core v.toNat

/-! ## Rate control (R395) -/

/-- A source's controller at the start: at its peak, which CAP allows at reset (DESIGN CHOICE, log entry 18). A source that is not listed holds
this: none of its tenancy's marks has reached it, and CAP has not been written (`writeRate`). -/
def Rate.atStart (t source : Nat) : Rate := { t, source, rate := 256 * 2 ^ 16, mark := false }

/-- Every source of a tenancy has its controller listed: 96 clusters and 4 sites (R395). -/
def listRates (s : State) (t : Nat) : State :=
  { s with sys := { s.sys with
      rates := (List.range 100).foldl (fun r k => updOrAdd (fun x => x.t == t && x.source == k) (Rate.atStart t k) id r) s.sys.rates } }

/-- A source of a tenancy ends a period of 1,024 ticks: down by a sixteenth with a mark, else up by 1/64 of the peak (DEDUCED, log entry 56). -/
def execRateControlPeriod (tenancy source : Nat) (s : State) : Result :=
  if s.clock % 1024 != 0 || decide (100 ≤ source) || decide (255 ≤ tenancy) then .next s
  else
    let t := s.tenancy tenancy
    let lo := (t.floor.toNat + 1) * 2 ^ 16
    let hi := (t.cap.toNat + 1) * 2 ^ 16
    let f (x : Rate) : Rate :=
      { x with rate := if x.mark then max lo (x.rate - x.rate / 16) else min hi (x.rate + 2 ^ 18), mark := false }
    .next
      { s with sys :=
        { s.sys with
          rates := updOrAdd (fun x => x.t == tenancy && x.source == source) (Rate.atStart tenancy source) f s.sys.rates } }

/-- A congestion mark reaches a source of a tenancy (R394), and is counted (R392). -/
def receiveMark (s : State) (tenancy source : Nat) : State :=
  let p (x : Rate) : Bool := x.t == tenancy && x.source == source
  let rates := updOrAdd p (Rate.atStart tenancy source) (fun x => { x with mark := true }) s.sys.rates
  let s1 : State := { s with sys := { s.sys with rates } }
  s1.count 0x0D tenancy 1

end Sys2Proof.Machine
end

