-- ==== Sys2Proof/Machine/Boot.lean ====
section
/-! DEFINITION. Reset, boot, and the power ratios (25_bringup.md R410 to R415; 24 R401). -/

namespace Sys2Proof.Machine

/-- What a reset leaves of the machine: the monotonic storage of R409, and what lies outside the device. A sector of DRAM written before it
was written under a key that is gone (R412) (DESIGN CHOICE, log entry 21). -/
def afterReset (s : State) : State :=
  let z := State.reset
  let bare := ((s.mm.mem.filter (fun c => isDram c.1)).map (fun c => c.1 / 64)).eraseDups.filter (fun x => (sectorKey s x).isNone)
  { z with
    seq := s.seq
    nextId := s.nextId
    agenda := s.agenda
    mm := { z.mm with mem := s.mm.mem, keyed := s.mm.keyed ++ bare.map (fun x => (x, (s.slot 0).key.toNat)) }
    sys :=
      { z.sys with
        tenancies := s.sys.tenancies.map (fun t => { Tenancy.atReset t.t with hseq := t.hseq, imported := t.imported })
        atsDenied := s.sys.atsDenied
        hostAbort := s.sys.hostAbort
        remoteLease := s.sys.remoteLease
        refused := s.sys.refused
        drawn := s.sys.drawn } }

/-- Power-on reset: boot starts with the ROM stage (DESIGN CHOICE, log entry 21). -/
def execPowerOnReset (s : State) : Result :=
  let s1 := afterReset s
  .next { s1 with sys := { s1.sys with stage := .rom, stageStart := s1.clock } }

/-- Enter a stage (DEDUCED, log entry 57). -/
def enterStage (s : State) (g : Stage) : State := { s with sys := { s.sys with stage := g, stageStart := s.clock } }

/-- Boot fails with a code; the management core stops (R401, R411). -/
def bootFail (s : State) (code : Nat) : State := { s with sys := { s.sys with stage := .failed, failCode := BitVec.ofNat 8 code } }

/-- The digest of an image's body (R401). -/
def bodyDigest (m : Config.BootImage) : BitVec 512 := shake256 m.body

/-- The code with which an image's verification fails: its root key, or its signature (R401, R411). -/
def imageFails (m : Config.BootImage) : Option Nat :=
  if shake256 m.pubkey != Config.rootDigest then some 1
  else if !Config.falconVerify m.pubkey m.signature (wideBytes (bodyDigest m)) then some 2
  else none

/-- The ROM's steps: the firmware image is verified, and measured into MEAS0 (R401). -/
def romSteps (s : State) : State :=
  match imageFails Config.firmware with
  | some code => bootFail s code
  | none => enterStage (extendMeas s 0 (bodyDigest Config.firmware)) .firmware

/-- The images are verified and measured into MEAS1 in order; none goes on after one that fails (R401). -/
def measureImages (s : State) : List Config.BootImage → State × Bool
  | [] => (s, true)
  | m :: r => if (imageFails m).isSome then (s, false) else measureImages (extendMeas s 1 (bodyDigest m)) r

/-- The shared islands that serve hardware (R413). -/
def sharedIslands : List Nat := ((List.range 64).map (· + 192)).filter (fun i => i != 192 + 10 && i != 192 + 16 * 3 + 11)

/-- The shared islands are powered, and read 16. -/
def powerShared (s : State) : State := sharedIslands.foldl (fun s i => s.mapIsland i (fun x => { x with on := true, ratio := 16 })) s

/-- Slot 0's key is drawn anew (R399). -/
def drawSlot0 (s : State) : State :=
  let (a, s1) := draw s
  let (b, s2) := draw s1
  s2.mapSlot 0 (fun x => { x with loaded := true, key := a ++ b })

/-- The firmware's steps: the base dies and memory controllers, the fuses into MEAS3, and the shared islands (R401, R412). -/
def firmwareSteps (s : State) : State :=
  let r := measureImages s Config.subImages
  if r.2 then enterStage (powerShared (extendMeas r.1 3 (shake256 Config.fuses))) .training else bootFail r.1 3

/-- The failures of a stage that come from outside the images: the fuses, or a memory controller's training (R411, R412) (DEDUCED, log entry 57). -/
def stageFails (g : Stage) : List Nat :=
  match g with
  | .rom => [6]
  | .firmware => [6]
  | .training => [4]
  | _ => []

/-- A boot stage ends: with 0 its steps decide, and in success the next stage begins; else in failure (DEDUCED, log entry 57). -/
def execBootStageEnd (fail : Nat) (s : State) : Result :=
  if fail != 0 then .next (if (stageFails s.sys.stage).contains fail then bootFail s fail else s)
  else
    match s.sys.stage with
    | .rom => .next (romSteps s)
    | .firmware => .next (firmwareSteps s)
    | .training => .next (enterStage (drawSlot0 s) .ready)
    | _ => .next s

/-- A boot stage has lasted 5 s (DEDUCED, log entry 57). -/
def execBootStageTimeout (s : State) : Result :=
  match s.sys.stage with
  | .rom | .firmware | .training => if s.sys.stageStart + 5000000000 ≤ s.clock then .next (bootFail s 5) else .next s
  | _ => .next s

/-- The ratio of a core or matrix island after a millisecond (R415) (DEDUCED, log entry 56; DEDUCED, log entry 68). -/
def nextRatio (s : State) (pnow : Nat) (x : Island) : Nat :=
  let t := s.sys.siteT.getD (x.i / 48) 1760
  let k := x.ratio.toNat
  let past := decide (s.sys.plimit.toNat < pnow)
  let hot := decide (1680 ≤ t)
  let k1 := if past then max 4 (k - 1) else k
  let k2 := if hot then max 4 (k1 - 1) else k1
  if !past && !hot && decide (100 * pnow < 95 * s.sys.plimit.toNat) && decide (t < 1600) then min 16 (k + 1) else k2

/-- The management core sets the ratios of a millisecond, and PNOW holds its power (DESIGN CHOICE, log entry 15; DEDUCED, log entry 56). -/
def execPowerRatioUpdate (pnow : BitVec 16) (s : State) : Result :=
  if s.clock % 1000000 != 0 then .next s
  else
    let s1 : State := { s with sys := { s.sys with pnow } }
    let islands := s.sys.islands.map (fun x => if x.on && decide (x.i < 192) then { x with ratio := BitVec.ofNat 5 (nextRatio s pnow.toNat x) } else x)
    .next (noteIslands { s1 with sys := { s1.sys with islands } })

end Sys2Proof.Machine
end

