-- ==== Sys2Proof/Machine/HostWrite.lean ====
section
/-! DEFINITION. A host write to a function's BAR0 (23_system.md R381; 15 R299; 19 R342; 21 R367; 23 R382, R383, R388, R390 to R392, R395; 24 R396;
25 R410, R411). -/

namespace Sys2Proof.Machine

/-- Go on from a next state. -/
def andThen (r : Result) (k : State → Result) : Result :=
  match r with
  | .next s => k s
  | .fault f => .fault f
  | .refused x => .refused x

/-- A write of the 8 bytes at a multiple of 8: the register's new value where every bit of it is written, and which halves are. -/
structure BarWrite where
  v : DWord
  lo : Bool
  hi : Bool
deriving DecidableEq, Repr

/-- Bits `lo` to `lo + n - 1` of the value (DEDUCED, log entry 54). -/
def BarWrite.bits (w : BarWrite) (lo n : Nat) : Nat := (w.v.toNat / 2 ^ lo) % 2 ^ n

/-- A write merged with what the register reads (R381). -/
def barWrite (old : DWord) (off : Nat) (wide : Bool) (v : DWord) : BarWrite :=
  if wide then ⟨v, true, true⟩
  else if off % 8 = 0 then ⟨BitVec.ofNat 64 (old.toNat / 2 ^ 32 * 2 ^ 32 + v.toNat % 2 ^ 32), true, false⟩
  else ⟨BitVec.ofNat 64 (old.toNat % 2 ^ 32 + v.toNat % 2 ^ 32 * 2 ^ 32), false, true⟩

/-- PLIMIT (R411). -/
def writeIdentity (s : State) (fn off : Nat) (w : BarWrite) : State :=
  let n := w.bits 16 16
  if off = 0x18 && fn == 0 && decide (1000 ≤ n) && decide (n ≤ 3600) then { s with sys := { s.sys with plimit := BitVec.ofNat 16 n } } else s

/-- An address whose low 12 bits are 0. -/
def frameOf (w : BarWrite) : DWord := BitVec.ofNat 64 (w.v.toNat / 4096 * 4096)

/-- A queue's window (R299): what is writable only while ENABLE is 0 ignores other writes. -/
def writeQueue (s : State) (q off : Nat) (w : BarWrite) : Result :=
  let off_ := !(s.queue q).enable
  match off with
  | 0x00 => .next (s.mapQueue q (fun x => if off_ then { x with base := frameOf w } else x))
  | 0x08 =>
    .next (s.mapQueue q (fun x =>
      { x with size := if off_ then BitVec.ofNat 32 (w.bits 0 32) else x.size, prio := BitVec.ofNat 4 (max 1 (w.bits 32 4)) }))
  | 0x10 => if w.lo then execQtailDoorbell q (BitVec.ofNat 32 (w.bits 0 32)) s else .next s
  | 0x18 => if w.lo then execQheadWrite q (BitVec.ofNat 32 (w.bits 0 32)) s else .next s
  | 0x20 => .next (s.mapQueue q (fun x => if off_ then { x with evBase := frameOf w } else x))
  | 0x28 =>
    .next (s.mapQueue q (fun x =>
      { x with evSize := if off_ then BitVec.ofNat 32 (w.bits 0 32) else x.evSize, evHead := BitVec.ofNat 32 (w.bits 32 32) }))
  | 0x30 => if !w.lo then .next s else if w.bits 0 1 = 1 then execQueueEnable q s else execQueueDisable q s
  | 0x48 => .next (s.mapQueue q (fun x => if off_ then { x with nextSeq := w.v } else x))
  | _ => .next s

/-- A ring's register block (R382). -/
def writeRing (s : State) (fn r off : Nat) (w : BarWrite) : Result :=
  let off_ := !(s.ring fn r).enable
  match off with
  | 0x00 => .next (s.mapRing fn r (fun x => if off_ then { x with base := frameOf w } else x))
  | 0x08 =>
    .next (s.mapRing fn r (fun x =>
      let size := if off_ then BitVec.ofNat 32 (w.bits 0 32) else x.size
      { x with size, enable := w.bits 32 1 == 1 && ringSizeOk size }) |> fun s => postWaiting s.mm.faults.length s)
  | 0x10 => if w.lo then execRingHeadWrite fn r (BitVec.ofNat 32 (w.bits 0 32)) s else .next s
  | 0x18 => if w.lo && r == 0 then execCommandRingTail (BitVec.ofNat 32 (w.bits 0 32)) s else .next s
  | _ => .next s

/-- A write of COP starts a command; one that names no command, or sets a reserved bit, gives BAD_OP (R342) (DEDUCED, log entry 44). -/
def writeCop (s : State) (fn : Nat) (w : BarWrite) : Result :=
  let keep := w.bits 4 1 == 1
  let blk := w.bits 5 1 == 1
  if !w.lo then .next s
  else if w.bits 6 58 != 0 then command fn s (endCommand s fn 2)
  else
    match w.bits 0 4 with
    | 1 => execPreempt fn keep s
    | 2 => execKill fn s
    | 3 => execStop fn blk s
    | 4 => execResume fn s
    | 5 => execStep fn s
    | 6 => execDebugon fn blk s
    | 7 => execDebugoff fn s
    | _ => command fn s (endCommand s fn 2)

/-- The control window (R342). -/
def writeWindow (s : State) (fn off : Nat) (w : BarWrite) : Result :=
  match off with
  | 0x00 => .next (s.mapWindow fn (fun x => { x with launch := w.v }))
  | 0x08 =>
    .next (s.mapWindow fn (fun x =>
      { x with block := BitVec.ofNat 32 (w.bits 0 32), group := BitVec.ofNat 5 (w.bits 32 5), split := BitVec.ofNat 2 (w.bits 37 2) }))
  | 0x10 => writeCop s fn w
  | _ =>
    let n := (off - 0x20) / 8
    if 0x20 ≤ off ∧ off < 0x40 then
      .next (s.mapWindow fn (fun x =>
        { x with bpaddr := x.bpaddr.set n (BitVec.ofNat 48 (w.bits 0 48)), bpen := x.bpen.set n (w.bits 63 1 == 1) }))
    else .next s

/-- The event codes (R392); a reserved code reads back 0. -/
def eventCode (n : Nat) : Byte := if (1 ≤ n ∧ n ≤ 0x0E) ∨ (0x40 ≤ n ∧ n ≤ 0x42) then BitVec.ofNat 8 n else 0

/-- A counter (R392): a virtual function has no TENSEL and no ALL. -/
def writeCounter (s : State) (fn i off : Nat) (w : BarWrite) : State :=
  s.mapCounter fn i (fun c =>
    match off with
    | 0x0 =>
      { c with
        event := eventCode (w.bits 0 8)
        en := w.bits 8 1 == 1
        tensel := if fn = 0 then BitVec.ofNat 8 (w.bits 9 8) else c.tensel
        all := if fn = 0 then w.bits 17 1 == 1 else c.all }
    | _ => { c with value := w.v })

/-- A spill area (R367): ignored while any view exists, and where the area leaves the site's DRAM. -/
def writeSpill (s : State) (site off : Nat) (w : BarWrite) : State :=
  let base := if off = 0 then w.bits 21 31 * 2 ^ 21 else (s.sys.viewBase.getD site 0).toNat
  let size := if off = 0 then (s.sys.viewSize.getD site 0).toNat else w.bits 0 14
  let lo := site * 0x1800000000
  if !s.mm.views.isEmpty || decide (8192 < size) || decide (base < lo) || decide (lo + 0x1800000000 ≤ base) || decide (lo + 0x1800000000 < base + size * 2 ^ 21) then s
  else
    { s with sys :=
      { s.sys with viewBase := s.sys.viewBase.set site (BitVec.ofNat 64 base), viewSize := s.sys.viewSize.set site (BitVec.ofNat 14 size) } }

/-- A partition's register (R391): a write with a field out of range is ignored as a whole. -/
def writePartition (s : State) (p off : Nat) (w : BarWrite) : State :=
  match off with
  | 0x0 => noteLayout s (s.mapPartition p (fun x => { x with tens := (List.range 8).map (fun k => BitVec.ofNat 8 (w.bits (8 * k) 8)) }))
  | _ =>
    let slice := w.bits 0 6
    let grace := w.bits 6 14
    if 16 ≤ slice ∧ slice ≤ 32 ∧ grace ≤ 10000 then
      noteLayout s (s.mapPartition p (fun x => { x with slice := BitVec.ofNat 6 slice, grace := BitVec.ofNat 14 grace }))
    else s

/-- A tenancy's rates (R395): each source goes on from the rate it has; a FLOOR above CAP is ignored (DEDUCED, log entry 56). -/
def writeRate (s : State) (t : Nat) (w : BarWrite) : State :=
  if w.bits 0 8 < w.bits 8 8 then s
  else
    (listRates s t).mapTenancy t (fun x =>
      { x with cap := BitVec.ofNat 8 (w.bits 0 8), floor := BitVec.ofNat 8 (w.bits 8 8), weight := BitVec.ofNat 4 (max 1 (w.bits 16 4)) })

/-- A write of a function's registers once boot is complete: what the function does not see, and what only reads, ignores it (R381) (DEDUCED, log entry 54). -/
def writeBar (s : State) (fn off : Nat) (w : BarWrite) : Result :=
  let pf := fn == 0
  if off < 0x20 then .next (writeIdentity s fn off w)
  else if 0x10000 ≤ off ∧ off < 0x20000 then
    let q := (off - 0x10000) / 128
    if seesQueue s fn q then writeQueue s q (off % 128) w else .next s
  else if 0x20000 ≤ off ∧ off < 0x20100 then
    let r := (off - 0x20000) / 64
    if pf || r == 3 then writeRing s fn r (off % 64) w else .next s
  else if 0x40000 ≤ off ∧ off < 0x40040 then writeWindow s fn (off - 0x40000) w
  else if 0x50000 ≤ off ∧ off < 0x50100 then .next (writeCounter s fn ((off - 0x50000) / 16) (off % 16) w)
  else if !pf then .next s
  else if off = 0x20100 then .next { s with sys := { s.sys with frva := frameOf w } }
  else if off = 0x20108 then if w.lo then execFaultResponse (w.bits 0 12) s.sys.frva.toNat (w.bits 12 1 == 1) s else .next s
  else if 0x60000 ≤ off ∧ off < 0x60040 then .next (writeSpill s ((off - 0x60000) / 16) (off % 16) w)
  else if 0x70000 ≤ off ∧ off < 0x70C00 then
    if w.lo then .next (writeQuarter s ((off - 0x70000) / 8) (BitVec.ofNat 6 (w.bits 0 6)) (BitVec.ofNat 6 (w.bits 6 6))) else .next s
  else if 0x71000 ≤ off ∧ off < 0x713F0 then .next (writePartition s ((off - 0x71000) / 16) (off % 16) w)
  else if 0x72000 ≤ off ∧ off < 0x727F8 then .next (writeRate s ((off - 0x72000) / 8) w)
  else if 0x73000 ≤ off ∧ off < 0x73C00 then
    if w.lo then .next (writeLatch s ((off - 0x73000) / 8) (BitVec.ofNat 8 (w.bits 8 8))) else .next s
  else if off = 0x74000 then
    .next { s with sys := { s.sys with expEn := w.bits 0 1 == 1, expBase := BitVec.ofNat 64 (w.bits 12 40 * 4096) } }
  else .next s

/-- A host write of 4 or 8 bytes. Until boot is complete only the first 0x20 bytes take it (R410); a WAIT on its sector wakes (R186). -/
def execRegisterWrite (fn off : Nat) (wide : Bool) (v : DWord) (s : State) : Result :=
  if !barAligned off (if wide then 8 else 4) || decide (64 ≤ fn) || (s.sys.stage != .ready && decide (0x20 ≤ off)) then .next s
  else
    let s1 := wakeBar s fn off
    writeBar s1 fn (off / 8 * 8) (barWrite (readBar s1 fn (off / 8 * 8)) off wide v)

end Sys2Proof.Machine
end

