-- ==== Sys2Proof/Machine/Image.lean ====
section
/-! DEFINITION. The loader: checking an MLOF image, placing and relocating it, and registering its descriptors (04_object_format.md R87 to
R100). -/

namespace Sys2Proof.Machine

/-! ## Sections, symbols and relocations (R87 to R90) -/

/-- Why an image is refused, in the order of R98. -/
inductive ImageError where
  | badMagic | badVersion | badKind | badCrc | badSection | badSymbol | badReloc | badKernel | sigMismatch | badFlume
deriving DecidableEq, Repr

/-- A section table entry. -/
structure Section where
  i : Nat
  name : Nat
  ty : Nat
  flags : Nat
  align : Nat
  addr : Nat
  off : Nat
  size : Nat
  link : Nat
  info : Nat
  bytes : List Byte
deriving DecidableEq, Repr

/-- The section table of a file, with each section's file bytes. -/
def sections (f : List Byte) : List Section :=
  (List.range (field f 24 4)).map (fun i =>
    let x := (f.drop (field f 16 8 + 48 * i)).take 48
    let ty := field x 4 4
    { i, name := field x 0 4, ty, flags := field x 8 4, align := field x 12 4, addr := field x 16 8, off := field x 24 8, size := field x 32 8, link := field x 40 4,
      info := field x 44 4, bytes := if ty = 4 then [] else (f.drop (field x 24 8)).take (field x 32 8) })

/-- SFLAGS of a section type (R88). -/
def sectionFlags (ty : Nat) : Option Nat :=
  if ty = 1 then some 5 else if ty = 2 || ty = 4 then some 3 else if ty = 3 || ty = 8 || ty = 9 || ty = 11 then some 1
  else if ty = 5 || ty = 6 || ty = 7 || ty = 10 then some 0 else none

/-- The first section of a type, or an empty one. -/
def sectionOf (ss : List Section) (ty : Nat) : Section :=
  (ss.find? (fun x => x.ty == ty)).getD { i := 0, name := 0, ty, flags := 0, align := 0, addr := 0, off := 0, size := 0, link := 0, info := 0, bytes := [] }

/-- Entries of `n` bytes. -/
def entries (n : Nat) (bs : List Byte) : List (List Byte) := (List.range (bs.length / n)).map (fun i => (bs.drop (n * i)).take n)

/-! ## CRC-32C -/

def crcBit (c : Word) : Word := if c.getLsbD 0 then (c >>> 1) ^^^ 0x82F63B78 else c >>> 1

def crcByte (c : Word) (b : Byte) : Word := (List.range 8).foldl (fun x _ => crcBit x) (c ^^^ b.setWidth 32)

/-- CRC-32C of bytes (PRESUMED, log entry 40). -/
def crc32c (bs : List Byte) : Word := ~~~ (bs.foldl crcByte 0xFFFFFFFF)

/-! ## The checks of R98 -/

/-- The CRC and the length of the file are as the header says (PRESUMED, log entry 40). -/
def crcOk (f : List Byte) : Bool :=
  field f 40 8 == f.length && (crc32c (f.take 48 ++ List.replicate 4 0 ++ f.drop 52)).toNat == field f 48 4

/-- The fields of one section table entry, after entry 0, in a table whose string section has `str` bytes and whose symbol section is `sym` (R88, R98). -/
def sectionOk (f : List Byte) (n str sym : Nat) (x : Section) : Bool :=
  decide (x.name < str) && sectionFlags x.ty == some x.flags && decide (x.align ≤ 12) && x.addr % 2 ^ x.align == 0 && (x.ty != 1 || decide (8 ≤ x.align)) &&
    (if x.ty = 4 then x.off == 0 else decide (x.off + x.size ≤ f.length)) &&
    (if x.ty = 7 then x.link == sym && decide (0 < x.info) && decide (x.info < n) else x.link == 0 && x.info == 0)

/-- The string section holds NUL-terminated names, the first empty (R88). -/
def stringsOk (bs : List Byte) : Bool := bs.head? == some 0 && bs.getLast? == some 0

/-- ALLOC sections do not overlap. -/
def allocsApart : List Section → Bool
  | [] => true
  | x :: r =>
    r.all (fun y => x.flags % 2 == 0 || y.flags % 2 == 0 || decide (x.addr + x.size ≤ y.addr) || decide (y.addr + y.size ≤ x.addr)) && allocsApart r

/-- The section table as R87 and R88 give it; what breaks them in a way that R98 does not list is BAD_SECTION (DESIGN CHOICE, log entry 78). -/
def sectionsOk (f : List Byte) : Bool :=
  let ss := sections f
  let n := field f 24 4
  zeroField f 12 4 && zeroField f 52 12 && field f 16 8 % 8 == 0 && decide (2 ≤ n) && decide (n ≤ 255) && decide (field f 16 8 + 48 * n ≤ f.length) &&
    zeroField f (field f 16 8) 48 && (ss.drop 1).all (sectionOk f n (sectionOf ss 5).size (field f 36 4)) && stringsOk (sectionOf ss 5).bytes && allocsApart (ss.drop 1) &&
    [5, 6, 8, 9, 10, 11].all (fun t => decide ((ss.filter (fun x => x.ty == t)).length ≤ 1)) &&
    ((ss[field f 32 4]?).map (·.ty)) == some 5 && ((ss[field f 36 4]?).map (·.ty)) == some 6

/-- The symbol entries (R89). -/
def symbols (ss : List Section) : List (List Byte) := entries 24 (sectionOf ss 6).bytes

/-- A symbol after entry 0: not external, its name in the string section, its section one of the table or that of a constant, and a SIZE for a kernel or a
flume alone (R89, R98). -/
def symbolOk (ss : List Section) (y : List Byte) : Bool :=
  let kind := field y 4 1
  decide (1 ≤ kind) && decide (kind ≤ 5) && decide (field y 5 1 ≤ 1) && decide (field y 0 4 < (sectionOf ss 5).size) &&
    (if kind = 5 then field y 6 2 == 0xFFFF else decide (0 < field y 6 2) && decide (field y 6 2 < ss.length)) &&
    (kind == 3 || kind == 4 || zeroField y 16 8)

/-- The symbol section holds whole entries, the first of them zero; what breaks R89 in a way that R98 does not list is BAD_SYMBOL (DESIGN CHOICE, log
entry 78). -/
def symbolsOk (ss : List Section) : Bool :=
  (sectionOf ss 6).bytes.length % 24 == 0 && ((symbols ss).head?.map (fun y => zeroField y 0 24)).getD false && ((symbols ss).drop 1).all (symbolOk ss)

/-- S of a symbol once the image stands at `base` (R99). -/
def symbolAddr (ss : List Section) (base i : Nat) : Nat :=
  let y := (symbols ss).getD i []
  if field y 6 2 = 0xFFFF then field y 8 8 else base + ((ss[field y 6 2]?).map (·.addr)).getD 0 + field y 8 8

/-- S + A of a relocation, modulo 2^64. -/
def relocValue (ss : List Section) (base : Nat) (r : List Byte) : Nat := (symbolAddr ss base (field r 8 4) + field r 16 8) % 2 ^ 64

/-- A relocation that an image may carry: ABS64 or ABS32, of DATA, RODATA or KAUX (R90, R97, R98). A SYM that is 0 or past the symbol table, and reserved
bytes that are not 0, are BAD_RELOC too, which R98 does not list (DESIGN CHOICE, log entry 78). -/
def relocOk (ss : List Section) (base : Nat) (x : Section) (r : List Byte) : Bool :=
  let k := field r 12 2
  let t := ss.getD x.info (sectionOf ss 0)
  (k == 1 || k == 2) && zeroField r 14 2 && (t.ty == 2 || t.ty == 3 || t.ty == 8) && decide (field r 0 8 + (if k = 1 then 8 else 4) ≤ t.size) &&
    decide (0 < field r 8 4) && decide (field r 8 4 < (symbols ss).length) && (k == 1 || decide (relocValue ss base r < 2 ^ 32))

/-- A section's bytes with its relocations applied (R99). -/
def relocated (ss : List Section) (base : Nat) (t : Section) : List Byte :=
  (ss.filter (fun x => x.ty == 7 && x.info == t.i)).foldl (fun bs x =>
    (entries 24 x.bytes).foldl (fun bs r =>
      let n := if field r 12 2 = 1 then 8 else 4
      bs.take (field r 0 8) ++ leBytes (relocValue ss base r) n ++ bs.drop (field r 0 8 + n)) bs) t.bytes

/-! ## Kernel descriptors (R92, R93) -/

def argOf (x : List Byte) : ArgEntry := { reg := field x 0 1, wide := field x 1 1 == 1, off := field x 2 2, dflt := BitVec.ofNat 64 (field x 8 8) }
def scratchOf (x : List Byte) : ScratchEntry := { reg := field x 0 1, shared := field x 1 1 == 1, life := field x 2 1, bytes := field x 8 4 }
def fifoOf (x : List Byte) : FifoEntry := { reg := field x 0 1, width := field x 1 1, life := field x 2 1, depth := field x 8 4 }

/-- The KAUX entries that a descriptor names: `n` from an offset. -/
def auxEntries (aux : List Byte) (off n : Nat) : List (List Byte) := entries 16 ((aux.drop off).take (16 * n))

/-- A descriptor read from its 64 bytes and the relocated KAUX. -/
def kernelOf (ss : List Section) (base tenancy : Nat) (aux d : List Byte) (i : Nat) : Kernel :=
  { addr := base + (sectionOf ss 9).addr + 64 * i, tenancy, image := base, mode := BitVec.ofNat 2 (field d 6 2)
    entry := BitVec.ofNat 48 (base + ((ss[field d 4 2]?).map (·.addr)).getD 0 + field d 8 8)
    regs := field d 20 1, groups := field d 21 1, cohort := field d 22 1, gang := field d 23 1, dimx := field d 24 4, dimy := field d 28 4,
    dimz := field d 32 4, fmtInit := BitVec.ofNat 32 (field d 36 4), paramSize := field d 47 1
    args := (auxEntries aux (field d 40 4) (field d 44 1)).map argOf
    scratch := (auxEntries aux (field d 48 4) (field d 45 1)).map scratchOf
    fifos := (auxEntries aux (field d 52 4) (field d 46 1)).map fifoOf }

def isPow2 (n lo hi : Nat) : Bool := (List.range (hi + 1 - lo)).any (fun k => n == 2 ^ (lo + k))

def argOk (x : List Byte) : Bool :=
  let w := field x 1 1
  decide (w ≤ 1) && decide (field x 0 1 + w ≤ 29) && (w == 0 || field x 0 1 % 2 == 0) && (w == 1 || zeroField x 12 4)

/-- Each argument stands at the next offset aligned to its width, from `at_` on, and the last ends where the parameter area does (R79, R92, R93). -/
def argsPacked (paramSize : Nat) : Nat → List ArgEntry → Bool
  | at_, [] => at_ == paramSize
  | at_, a :: r =>
    let w := if a.wide then 8 else 4
    a.off == (at_ + w - 1) / w * w && argsPacked paramSize (a.off + w) r

def scratchOk (x : List Byte) : Bool :=
  decide (field x 0 1 ≤ 29) && decide (field x 1 1 ≤ 1) && decide (1 ≤ field x 2 1) && decide (field x 2 1 ≤ 60) && zeroField x 3 1 &&
    field x 8 4 % 512 == 0 && decide (512 ≤ field x 8 4) && decide (field x 8 4 ≤ 6291456) && zeroField x 12 4

def fifoOk (x : List Byte) : Bool :=
  let w := field x 1 1
  decide (field x 0 1 ≤ 29) && (w == 4 || w == 8 || w == 16) && decide (1 ≤ field x 2 1) && decide (field x 2 1 ≤ 60) && zeroField x 3 1 &&
    isPow2 (field x 8 4) 4 16 && decide (w * field x 8 4 ≤ poolBytes) && zeroField x 12 4

/-- The registers that a descriptor's entries name. -/
def namedRegs (k : Kernel) : List Nat :=
  k.args.flatMap (fun a => a.reg :: (if a.wide then [a.reg + 1] else [])) ++ k.scratch.map (·.reg) ++ k.fifos.map (·.reg)

def allDistinct : List Nat → Bool
  | [] => true
  | x :: r => !r.contains x && allDistinct r

/-- A count's entries lie in a section; with count 0 the offset is 0. An offset need not be a multiple of the entry's bytes (DESIGN CHOICE, log entry 78). -/
def spanOk (off n each size : Nat) : Bool := if n = 0 then off == 0 else decide (off + each * n ≤ size)

/-- A descriptor as R92 and R93 give it; what breaks them in a way that R98 does not list is BAD_KERNEL (DESIGN CHOICE, log entry 78). -/
def kernelOk (ss : List Section) (aux d : List Byte) (k : Kernel) : Bool :=
  let t := ss.getD (field d 4 2) (sectionOf ss 0)
  let code := field d 16 4
  let named := auxEntries aux (field d 40 4) (field d 44 1) ++ auxEntries aux (field d 48 4) (field d 45 1) ++ auxEntries aux (field d 52 4) (field d 46 1)
  decide (field d 0 4 < (sectionOf ss 5).size) && t.ty == 1 && decide (field d 6 2 ≤ 2) && field d 8 8 % 256 == 0 && code % 4 == 0 &&
    decide (field d 8 8 + code ≤ t.size) && k.regs % 8 == 0 && decide (8 ≤ k.regs) && decide (k.regs ≤ 96) && decide (1 ≤ k.groups) &&
    decide (k.groups ≤ 32) && decide (1 ≤ k.cohort) && decide (k.cohort ≤ 16) && decide (1 ≤ k.gang) && decide (k.gang ≤ 6) &&
    k.groups % k.gang == 0 && decide (1 ≤ k.dimx) && decide (1 ≤ k.dimy) && decide (1 ≤ k.dimz) && decide (k.dimx * k.dimy * k.dimz ≤ 2 ^ 32) &&
    fmtOk k.fmtInit && decide (k.groups * k.regs ≤ 2048) && decide (field d 44 1 ≤ 30) && decide (field d 45 1 ≤ 30) && decide (field d 46 1 ≤ 30) &&
    decide (k.paramSize ≤ 128) && argsPacked k.paramSize 0 k.args && spanOk (field d 40 4) (field d 44 1) 16 aux.length &&
    spanOk (field d 48 4) (field d 45 1) 16 aux.length && spanOk (field d 52 4) (field d 46 1) 16 aux.length &&
    spanOk (field d 56 4) (field d 60 4) 1 ((sectionOf ss 10).bytes.length / 16) && named.all (fun x => decide (field x 4 4 < (sectionOf ss 5).size)) &&
    (auxEntries aux (field d 40 4) (field d 44 1)).all argOk &&
    (auxEntries aux (field d 48 4) (field d 45 1)).all scratchOk && (auxEntries aux (field d 52 4) (field d 46 1)).all fifoOk &&
    allDistinct (namedRegs k)

/-! ## Signature tables (R95) -/

/-- A signature entry stands at a SIGCHK whose literal word equals it. -/
def sigEntryOk (text : List Byte) (entry code : Nat) (x : List Byte) : Bool :=
  let o := field x 0 4
  let w : Word := BitVec.ofNat 32 (field text (entry + o) 4)
  o % 4 == 0 && decide (o + 8 ≤ code) && zeroField x 8 8 && w.getLsbD 31 && (w.toNat / 2 ^ 24 % 64 == 0x1A) && (w.toNat / 2 ^ 7 % 128 == 127) &&
    field text (entry + o + 4) 4 == field x 4 4

def rising : List Nat → Bool
  | x :: y :: r => decide (x < y) && rising (y :: r)
  | _ => true

/-- A kernel's signature entries. -/
def kernelSigsOk (ss : List Section) (d : List Byte) : Bool :=
  let n := field d 60 4
  let tab := entries 16 (sectionOf ss 10).bytes
  let xs := (tab.drop (field d 56 4)).take n
  rising (xs.map (fun x => field x 0 4)) &&
    xs.all (sigEntryOk (ss.getD (field d 4 2) (sectionOf ss 0)).bytes (field d 8 8) (field d 16 4))

/-- What every signature entry holds, whichever kernel it belongs to (R95). More is not asked of an entry that no descriptor covers (DESIGN CHOICE, log entry 78). -/
def sigTableOk (ss : List Section) : Bool :=
  (entries 16 (sectionOf ss 10).bytes).all (fun x => field x 0 4 % 4 == 0 && zeroField x 8 8)

/-! ## Flume descriptors (R96) -/

/-- The descriptors of a FLUMES section in order, each with its offset; none where one does not fit. -/
def flumesFrom : Nat → Nat → List Byte → Option (List (Nat × List Byte))
  | 0, _, _ => some []
  | f + 1, off, bs =>
    match bs with
    | [] => some []
    | _ =>
      let n := 16 + 16 * field bs 4 1
      if bs.length < n then none else (flumesFrom f (off + n) (bs.drop n)).map (fun r => (off, bs.take n) :: r)

def flumeStages (d : List Byte) : List (List Byte) := entries 16 (d.drop 16)

/-- A flume descriptor as R96 gives it. Neither the section's ADDR nor the SIZE of the flume's symbol is held to R96's alignment and length (DESIGN CHOICE,
log entry 78). -/
def flumeOk (ss : List Section) (d : List Byte) : Bool :=
  let str := (sectionOf ss 5).size
  decide (field d 0 4 < str) && decide (2 ≤ field d 4 1) && decide (field d 4 1 ≤ 16) && zeroField d 5 11 &&
    ((flumeStages d).mapIdx (fun j x =>
      decide (field x 0 4 < str) && decide (field x 4 4 < (sectionOf ss 9).bytes.length / 64) && decide (field x 12 2 ≤ 1) &&
        decide (field x 14 2 < 2 ^ j))).all id

def flumeOf (base tenancy : Nat) (ss : List Section) (x : Nat × List Byte) : Flume :=
  { addr := base + (sectionOf ss 11).addr + x.1, tenancy, image := base
    stages := (flumeStages x.2).map (fun y =>
      { kernel := base + (sectionOf ss 9).addr + 64 * field y 4 4, deadline := field y 8 4, skip := field y 12 2 % 2 == 1,
        after := BitVec.ofNat 16 (field y 14 2) }) }

/-! ## Acceptance (R98) -/

/-- The kernels of an image. -/
def imageKernels (ss : List Section) (base tenancy : Nat) : List (List Byte × Kernel) :=
  let aux := relocated ss base (sectionOf ss 8)
  (entries 64 (sectionOf ss 9).bytes).mapIdx (fun i d => (d, kernelOf ss base tenancy aux d i))

/-- The flume descriptors of an image. -/
def imageFlumes (ss : List Section) : Option (List (Nat × List Byte)) := flumesFrom (sectionOf ss 11).bytes.length 0 (sectionOf ss 11).bytes

/-- The first error of R98 that applies to an image to be placed at `base`, or none. -/
def imageError (f : List Byte) (base : Nat) : Option ImageError :=
  let ss := sections f
  let aux := relocated ss base (sectionOf ss 8)
  let ks := imageKernels ss base 0
  if field f 0 4 != 0x464F4C4D || field f 10 2 != 64 || field f 28 4 != 48 then some .badMagic
  else if field f 4 2 != 1 || field f 6 2 != 0 then some .badVersion
  else if field f 8 2 != 2 then some .badKind
  else if !crcOk f then some .badCrc
  else if !sectionsOk f then some .badSection
  else if !symbolsOk ss then some .badSymbol
  else if !(ss.filter (fun x => x.ty == 7)).all (fun x => (entries 24 x.bytes).all (relocOk ss base x)) then some .badReloc
  else if (sectionOf ss 9).bytes.length % 64 != 0 || !ks.all (fun k => kernelOk ss aux k.1 k.2) then some .badKernel
  else if !sigTableOk ss || !ks.all (fun k => kernelSigsOk ss k.1) then some .sigMismatch
  else
    match imageFlumes ss with
    | some ds => if ds.all (fun d => flumeOk ss d.2) then none else some .badFlume
    | none => some .badFlume

/-! ## Placing an image (R99) -/

/-- The bytes of an image in memory. -/
def imageSize (ss : List Section) : Nat := (ss.filter (fun x => x.flags % 2 == 1)).foldl (fun m x => max m (x.addr + x.size)) 0

/-- Map one page in a table of a level, taking a free frame for each table that is not there: the state and the next free frame (DEDUCED, log entry 58). -/
def mapPage (t va entry : Nat) : Nat → Nat → Nat → State → State × Nat
  | level, frame, next, s =>
    let at' := frame + 8 * ((va / 2 ^ (12 + 9 * level)) % 512)
    match level with
    | 0 => (dramWrite s t at' (leBytes entry 8), next)
    | l + 1 =>
      let e := ((homeRead s t 0 at' 8).map leNat).getD 0
      if e % 4 == 1 then mapPage t va entry l (e / 4096 % 2 ^ 40 * 4096) next s
      else
        let s1 := dramWrite s t next (List.replicate 4096 0)
        mapPage t va entry l next (next + 4096) (dramWrite s1 t at' (leBytes (next + 1) 8))

/-- The pages of a section, each as its virtual address, its frame and its entry: RO without WRITE, fetchable with EXEC (R286). The linker starts ALLOC
sections at multiples of 4,096 (R97); the loader does not check it, and of two sections on one page the later one's mapping stands (DESIGN CHOICE, log
entry 78). -/
def sectionPages (base frame : Nat) (x : Section) : List (Nat × Nat) :=
  let lo := x.addr / 4096
  let hi := (x.addr + x.size + 4095) / 4096
  (List.range (hi - lo)).map (fun i =>
    (base + 4096 * (lo + i), (frame + 4096 * (lo + i)) + 3 + 16 * (x.flags / 2 % 2) + 32 * (x.flags / 4 % 2)))

/-- Map and copy an image; new table frames stand after its last page. -/
def placeImage (s : State) (c : Context) (ss : List Section) (base frame : Nat) : State :=
  let al := ss.filter (fun x => x.flags % 2 == 1)
  let top := frame + (imageSize ss + 4095) / 4096 * 4096
  let r := (al.flatMap (sectionPages base frame)).foldl (fun r x => mapPage c.tenancy x.1 x.2 3 c.root r.2 r.1) (s, top)
  al.foldl (fun s x =>
    let bs := if x.ty = 4 then List.replicate x.size 0 else relocated ss base x
    dramWrite s c.tenancy (frame + x.addr) bs) r.1

/-- The loader accepts an image, or refuses it with nothing placed. The base and the frame are the loader's choice: a base that overlaps
a loaded image, or a frame outside DRAM, is no choice of it (DEDUCED, log entry 58; DESIGN CHOICE, log entry 78). -/
def execImageLoad (asid base frame : Nat) (image : List Byte) (s : State) : Result :=
  match s.context? asid with
  | none => .next s
  | some c =>
    let ss := sections image
    let size := imageSize ss
    let apart := s.fe.images.all (fun x => decide (base + size ≤ x.base) || decide (x.base + x.size ≤ base))
    if base % 2 ^ 21 != 0 || frame % 4096 != 0 || !apart || 2 ^ 48 < base + size || dramEnd < frame + 2 * size + 2 ^ 16 ||
        (imageError image base).isSome then .next s
    else
      let s1 := placeImage s c ss base frame
      let fl := ((imageFlumes ss).getD []).map (flumeOf base c.tenancy ss)
      .next { s1 with fe :=
        { s1.fe with
          images := s1.fe.images ++ [{ base, asid, size }]
          kernels := s1.fe.kernels ++ (imageKernels ss base c.tenancy).map (·.2)
          flumes := s1.fe.flumes ++ fl } }

/-- Work that names a descriptor of an image has not completed (R100). -/
def imageBusy (s : State) (base : Nat) : Bool :=
  s.fe.log.any (fun e => !e.complete &&
    (match e.kind with
      | .launch lid => ((s.launch? lid).map (fun l => l.kernel.image == base)).getD false
      | .flume id =>
        ((s.item? id).map (fun x => x.flume.image == base || x.flume.stages.any (fun f => s.fe.kernels.any (fun k => k.addr == f.kernel && k.image == base)))).getD false
      | _ => false)) ||
    s.fe.raft.any (fun w => w.kernel.image == base)

/-- Unload an image: its descriptors are no longer registered, unless it is busy (DEDUCED, log entry 58). -/
def execImageUnload (base : Nat) (s : State) : Result :=
  if imageBusy s base then .next s
  else
    .next { s with fe :=
      { s.fe with
        images := s.fe.images.filter (fun x => x.base != base)
        kernels := s.fe.kernels.filter (fun k => k.image != base)
        flumes := s.fe.flumes.filter (fun k => k.image != base) } }

end Sys2Proof.Machine
end

