-- ==== Sys2Proof/Machine/LaneExchange.lean ====
section
/-! DEFINITION. Lane instructions that read other lanes (06_lane_integer_exchange.md R141 to R147). A source lane is read as
its register stands at the issue, whichever split holds it. -/

namespace Sys2Proof.Machine

/-- The source lane of QSWP (R142). -/
def qswpLane (o : QswpOp) (l : Nat) : Nat :=
  match o with
  | .h => l ^^^ 1
  | .v => l ^^^ 2
  | .d => l ^^^ 3

def execQswp (e : Bool) (o : QswpOp) (d : RegNum) (a : Src) (s : State) : Result :=
  laneWord (.qswp e o d a) e false d [a] [] (fun g _ l => srcVal g a (qswpLane o l)) s

def execQbc (e : Bool) (q : BitVec 2) (d : RegNum) (a : Src) (s : State) : Result :=
  laneWord (.qbc e q d a) e false d [a] [] (fun g _ l => srcVal g a (4 * (l / 4) + q.toNat)) s

/-- The source lane of SHFL (R143). -/
def shflLane (o : ShflOp) (l n : Nat) : Option Nat :=
  match o with
  | .idx => some (n % 32)
  | .up => if l < n then none else some (l - n)
  | .down => if 31 < l + n then none else some (l + n)
  | .xor => some (l ^^^ (n % 32))

def execShfl (e : Bool) (o : ShflOp) (d : RegNum) (a b : Src) (s : State) : Result :=
  laneOutstanding (.shfl e o d a b) e d [a, b]
    (fun g _ l => (match shflLane o l (srcVal g b l).toNat with | some j => srcVal g a j | none => 0, 0)) s

/-- How many active lanes below `n` hold the predicate. -/
def votesBelow (g : Group) (p : Split) (k : PredNum) (n : Nat) : Nat :=
  ((lanesOf p.active).filter (fun j => decide (j < n) && predBit g k j)).length

/-- Every active lane's bit has one value. -/
def voteSame (g : Group) (p : Split) (k : PredNum) : Bool :=
  (lanesOf p.active).all (fun j => predBit g k j) || (lanesOf p.active).all (fun j => !predBit g k j)

/-- VOTE (R144). -/
def execVote (e : Bool) (o : VoteOp) (d : RegNum) (a : PredNum) (s : State) : Result :=
  let i := Instr.vote e o d a
  match o with
  | .all =>
    match predOf d with
    | some k => lanePred i e false k [] [] (fun g p _ => (lanesOf p.active).all (fun j => predBit g a j)) s
    | none => badPred s
  | .any =>
    match predOf d with
    | some k => lanePred i e false k [] [] (fun g p _ => (lanesOf p.active).any (fun j => predBit g a j)) s
    | none => badPred s
  | .same =>
    match predOf d with
    | some k => lanePred i e false k [] [] (fun g p _ => voteSame g p a) s
    | none => badPred s
  | .mask => laneWord i e false d [] [] (fun g p _ => readPred g a.toNat &&& p.active) s
  | .count => laneWord i e false d [] [] (fun g p _ => BitVec.ofNat 32 (votesBelow g p a 32)) s
  | .rank => laneWord i e false d [] [] (fun g p l => BitVec.ofNat 32 (votesBelow g p a l)) s

def execFirst (e : Bool) (d : RegNum) (a : Src) (s : State) : Result :=
  laneOutstanding (.first e d a) e d [a] (fun g p _ => (srcVal g a (lowest p.active), 0)) s

/-- The active lanes with lane l's value (R145). -/
def matchLanes (g : Group) (p : Split) (a : Src) (l : Nat) : List Nat :=
  (lanesOf p.active).filter (fun j => srcVal g a j == srcVal g a l)

/-- MATCH by slot (R145). -/
def matchWord (o : MatchOp) (g : Group) (p : Split) (a : Src) (l : Nat) : Word :=
  match o with
  | .mask => maskOf (matchLanes g p a l)
  | .lead => BitVec.ofNat 32 ((matchLanes g p a l).headD 0)
  | .count => BitVec.ofNat 32 (matchLanes g p a l).length
  | .all => bitWord ((matchLanes g p a l).length == (lanesOf p.active).length)

def execMatch (e : Bool) (o : MatchOp) (d : RegNum) (a : Src) (s : State) : Result :=
  laneOutstanding (.match e o d a) e d [a] (fun g p l => (matchWord o g p a l, 0)) s

/-- One addition of the tree of REDA.f: an empty child gives the other unchanged (R146). -/
def redaNode (x y : Option Word × Flags) : Option Word × Flags :=
  match x.1, y.1 with
  | some u, some v => let r := addRne u v; (some r.1, x.2 ||| y.2 ||| r.2)
  | some u, none => (some u, x.2 ||| y.2)
  | none, v => (v, x.2 ||| y.2)

/-- One level of the tree. -/
def redaLevel : List (Option Word × Flags) → List (Option Word × Flags)
  | x :: y :: r => redaNode x y :: redaLevel r
  | l => l

/-- REDA.f: the tree over 32 positions; a lone NaN becomes canonical, a signalling one with IV (R146). -/
def redaFloat (g : Group) (p : Split) (a : Src) : Word × Flags :=
  let leaves := (List.range 32).map (fun j => (if laneIn p.active j then some (srcVal g a j) else none, (0 : Flags)))
  let r := (redaLevel (redaLevel (redaLevel (redaLevel (redaLevel leaves))))).headD (none, 0)
  let w := r.1.getD 0
  match fp32 w with
  | .nan iv => (0x7FC00000, r.2 ||| (if iv then fIV else 0))
  | _ => (w, r.2)

/-- REDA.i: the sum modulo 2^32 (R146). -/
def redaInt (g : Group) (p : Split) (a : Src) : Word := (lanesOf p.active).foldl (fun t j => t + srcVal g a j) 0

def execReda (e m : Bool) (d : RegNum) (a : Src) (s : State) : Result :=
  laneOutstanding (.reda e m d a) e d [a] (fun g p _ => if m then redaFloat g p a else (redaInt g p a, 0)) s

/-- The better of two words under an order. -/
def pick (better : Word → Word → Bool) (l : List Word) : Word :=
  match l with
  | [] => 0
  | x :: r => r.foldl (fun t y => if better y t then y else t) x

/-- REDM of floats (R147). -/
def redmFloat (isMin : Bool) (l : List Word) : Word × Flags :=
  let iv := l.any (fun w => fp32 w == .nan true)
  let good := l.filter (fun w => !(fp32 w).isNan)
  let lt (x y : Word) : Bool := if isMin then ltExt (fp32 x) (fp32 y) else ltExt (fp32 y) (fp32 x)
  (if good.isEmpty then 0x7FC00000 else pick lt good, if iv then fIV else 0)

/-- REDM by slot (R147). -/
def redmValue (o : RedmOp) (l : List Word) : Word × Flags :=
  match o with
  | .smin => (pick (fun x y => decide (x.toInt < y.toInt)) l, 0)
  | .smax => (pick (fun x y => decide (y.toInt < x.toInt)) l, 0)
  | .umin => (pick (fun x y => decide (x.toNat < y.toNat)) l, 0)
  | .umax => (pick (fun x y => decide (y.toNat < x.toNat)) l, 0)
  | .fmin => redmFloat true l
  | .fmax => redmFloat false l

def execRedm (e : Bool) (o : RedmOp) (d : RegNum) (a : Src) (s : State) : Result :=
  laneOutstanding (.redm e o d a) e d [a] (fun g p _ => redmValue o (laneList p (fun l => srcVal g a l))) s

end Sys2Proof.Machine
end

