-- ==== Sys2Proof/Machine/Dispatch.lean ====
section
/-! DEFINITION. Which meaning each instruction has: one arm a constructor. -/

namespace Sys2Proof.Machine

def exec (i : Instr) (s : State) : Host.Outcome State Fault Refusal :=
  match i with
  | .iadd e m d a b => Sys2Proof.Machine.execIadd e m d a b s
  | .isub e m d a b => Sys2Proof.Machine.execIsub e m d a b s
  | .iaddc e k d a b => Sys2Proof.Machine.execIaddc e k d a b s
  | .imul e d a b => Sys2Proof.Machine.execImul e d a b s
  | .imulh e u d a b => Sys2Proof.Machine.execImulh e u d a b s
  | .imad e d a b => Sys2Proof.Machine.execImad e d a b s
  | .imin e u d a b => Sys2Proof.Machine.execImin e u d a b s
  | .imax e u d a b => Sys2Proof.Machine.execImax e u d a b s
  | .iabs e m d a => Sys2Proof.Machine.execIabs e m d a s
  | .ineg e m d a => Sys2Proof.Machine.execIneg e m d a s
  | .and e d a b => Sys2Proof.Machine.execAnd e d a b s
  | .andn e d a b => Sys2Proof.Machine.execAndn e d a b s
  | .or e d a b => Sys2Proof.Machine.execOr e d a b s
  | .xor e d a b => Sys2Proof.Machine.execXor e d a b s
  | .shl e d a b => Sys2Proof.Machine.execShl e d a b s
  | .shr e d a b => Sys2Proof.Machine.execShr e d a b s
  | .sar e d a b => Sys2Proof.Machine.execSar e d a b s
  | .rotl e d a b => Sys2Proof.Machine.execRotl e d a b s
  | .bfx e m d a b => Sys2Proof.Machine.execBfx e m d a b s
  | .bfi e d a b => Sys2Proof.Machine.execBfi e d a b s
  | .popc e d a => Sys2Proof.Machine.execPopc e d a s
  | .clz e d a => Sys2Proof.Machine.execClz e d a s
  | .brev e d a => Sys2Proof.Machine.execBrev e d a s
  | .prmt e d a b => Sys2Proof.Machine.execPrmt e d a b s
  | .lea e k d a b => Sys2Proof.Machine.execLea e k d a b s
  | .mov e w d a => Sys2Proof.Machine.execMov e w d a s
  | .movi e d n => Sys2Proof.Machine.execMovi e d n s
  | .icmp e c d a b => Sys2Proof.Machine.execIcmp e c d a b s
  | .isel e k d a b => Sys2Proof.Machine.execIsel e k d a b s
  | .pset e o d a b => Sys2Proof.Machine.execPset e o d a b s
  | .pmov e o d a => Sys2Proof.Machine.execPmov e o d a s
  | .qswp e o d a => Sys2Proof.Machine.execQswp e o d a s
  | .qbc e l d a => Sys2Proof.Machine.execQbc e l d a s
  | .shfl e o d a b => Sys2Proof.Machine.execShfl e o d a b s
  | .vote e o d a => Sys2Proof.Machine.execVote e o d a s
  | .first e d a => Sys2Proof.Machine.execFirst e d a s
  | .match e o d a => Sys2Proof.Machine.execMatch e o d a s
  | .reda e m d a => Sys2Proof.Machine.execReda e m d a s
  | .redm e o d a => Sys2Proof.Machine.execRedm e o d a s
  | .fadd e r d a b => Sys2Proof.Machine.execFadd e r d a b s
  | .fsub e r d a b => Sys2Proof.Machine.execFsub e r d a b s
  | .fmul e r d a b => Sys2Proof.Machine.execFmul e r d a b s
  | .ffma e r d a b => Sys2Proof.Machine.execFfma e r d a b s
  | .fmin e m d a b => Sys2Proof.Machine.execFmin e m d a b s
  | .fmax e m d a b => Sys2Proof.Machine.execFmax e m d a b s
  | .fcmp e c d a b => Sys2Proof.Machine.execFcmp e c d a b s
  | .fclass e d a => Sys2Proof.Machine.execFclass e d a s
  | .frcp e d a => Sys2Proof.Machine.execFrcp e d a s
  | .frsq e d a => Sys2Proof.Machine.execFrsq e d a s
  | .fsqrt e d a => Sys2Proof.Machine.execFsqrt e d a s
  | .fex2 e d a => Sys2Proof.Machine.execFex2 e d a s
  | .flg2 e d a => Sys2Proof.Machine.execFlg2 e d a s
  | .fsin e d a => Sys2Proof.Machine.execFsin e d a s
  | .fcos e d a => Sys2Proof.Machine.execFcos e d a s
  | .ftanh e d a => Sys2Proof.Machine.execFtanh e d a s
  | .fdivs e d a b => Sys2Proof.Machine.execFdivs e d a b s
  | .hadd2 e d a b => Sys2Proof.Machine.execHadd2 e d a b s
  | .hmul2 e d a b => Sys2Proof.Machine.execHmul2 e d a b s
  | .hfma2 e d a b => Sys2Proof.Machine.execHfma2 e d a b s
  | .hcmp2 e c d a b => Sys2Proof.Machine.execHcmp2 e c d a b s
  | .cvti e d a c => Sys2Proof.Machine.execCvti e d a c s
  | .cvtf e d a c => Sys2Proof.Machine.execCvtf e d a c s
  | .cvtdx e d a c => Sys2Proof.Machine.execCvtdx e d a c s
  | .cvtxd e d a c => Sys2Proof.Machine.execCvtxd e d a c s
  | .dxexp e d a => Sys2Proof.Machine.execDxexp e d a s
  | .srnd e d a c => Sys2Proof.Machine.execSrnd e d a c s
  | .dot4 e o d a b => Sys2Proof.Machine.execDot4 e o d a b s
  | .ldg e z c sb d a => Sys2Proof.Machine.execLdg e z c sb d a s
  | .stg e z c sb d a => Sys2Proof.Machine.execStg e z c sb d a s
  | .lds e z c sb d a => Sys2Proof.Machine.execLds e z c sb d a s
  | .sts e z c sb d a => Sys2Proof.Machine.execSts e z c sb d a s
  | .atomgA e z c sb d a => Sys2Proof.Machine.execAtomgA e z c sb d a s
  | .atomgB e z c sb d a => Sys2Proof.Machine.execAtomgB e z c sb d a s
  | .atomsA e z c sb d a => Sys2Proof.Machine.execAtomsA e z c sb d a s
  | .atomsB e z c sb d a => Sys2Proof.Machine.execAtomsB e z c sb d a s
  | .pref e z sb a => Sys2Proof.Machine.execPref e z sb a s
  | .fenq e z sb d => Sys2Proof.Machine.execFenq e z sb d s
  | .fdeq e z sb d => Sys2Proof.Machine.execFdeq e z sb d s
  | .sadd e d a b => Sys2Proof.Machine.execSadd e d a b s
  | .ssub e d a b => Sys2Proof.Machine.execSsub e d a b s
  | .smul e d a b => Sys2Proof.Machine.execSmul e d a b s
  | .sand e d a b => Sys2Proof.Machine.execSand e d a b s
  | .sor e d a b => Sys2Proof.Machine.execSor e d a b s
  | .sxor e d a b => Sys2Proof.Machine.execSxor e d a b s
  | .sshl e d a b => Sys2Proof.Machine.execSshl e d a b s
  | .sshr e d a b => Sys2Proof.Machine.execSshr e d a b s
  | .scmp e c d a b => Sys2Proof.Machine.execScmp e c d a b s
  | .smov e w d a => Sys2Proof.Machine.execSmov e w d a s
  | .sli e d n => Sys2Proof.Machine.execSli e d n s
  | .sld e w d a b => Sys2Proof.Machine.execSld e w d a b s
  | .sst e w d a b => Sys2Proof.Machine.execSst e w d a b s
  | .bra e c j => Sys2Proof.Machine.execBra e c j s
  | .jmp e a => Sys2Proof.Machine.execJmp e a s
  | .jz e c j => Sys2Proof.Machine.execJz e c j s
  | .jnz e c j => Sys2Proof.Machine.execJnz e c j s
  | .call e j => Sys2Proof.Machine.execCall e j s
  | .ret e a => Sys2Proof.Machine.execRet e a s
  | .rcv e j => Sys2Proof.Machine.execRcv e j s
  | .join e => Sys2Proof.Machine.execJoin e s
  | .exit e => Sys2Proof.Machine.execExit e s
  | .bar e b => Sys2Proof.Machine.execBar e b s
  | .cbar e => Sys2Proof.Machine.execCbar e s
  | .binit e d a b => Sys2Proof.Machine.execBinit e d a b s
  | .barv e d a b => Sys2Proof.Machine.execBarv e d a b s
  | .bwait e a b => Sys2Proof.Machine.execBwait e a b s
  | .yield e c j => Sys2Proof.Machine.execYield e c j s
  | .fence e f c => Sys2Proof.Machine.execFence e f c s
  | .regreq e n => Sys2Proof.Machine.execRegreq e n s
  | .regrel e n => Sys2Proof.Machine.execRegrel e n s
  | .setfmt e o a => Sys2Proof.Machine.execSetfmt e o a s
  | .sigx e d a => Sys2Proof.Machine.execSigx e d a s
  | .sigchk e a => Sys2Proof.Machine.execSigchk e a s
  | .mfsr e d n => Sys2Proof.Machine.execMfsr e d n s
  | .mtsr e a n => Sys2Proof.Machine.execMtsr e a n s
  | .trap e k => Sys2Proof.Machine.execTrap e k s
  | .rte e => Sys2Proof.Machine.execRte e s
  | .bkpt e k => Sys2Proof.Machine.execBkpt e k s
  | .nop e => Sys2Proof.Machine.execNop e s
  | .sleep e a => Sys2Proof.Machine.execSleep e a s
  | .launch e a b => Sys2Proof.Machine.execLaunch e a b s
  | .send e a b => Sys2Proof.Machine.execSend e a b s
  | .wait e w d a b => Sys2Proof.Machine.execWait e w d a b s
  | .salloc e m d a b => Sys2Proof.Machine.execSalloc e m d a b s
  | .sfree e m a => Sys2Proof.Machine.execSfree e m a s
  | .renew e a b => Sys2Proof.Machine.execRenew e a b s
  | .sstat e d a => Sys2Proof.Machine.execSstat e d a s
  | .poolcfg e d a b => Sys2Proof.Machine.execPoolcfg e d a b s
  | .kick e a => Sys2Proof.Machine.execKick e a s
  | .gang e a => Sys2Proof.Machine.execGang e a s
  | .tagbind e o d a => Sys2Proof.Machine.execTagbind e o d a s
  | .tagfree e a => Sys2Proof.Machine.execTagfree e a s
  | .mma e t a b => Sys2Proof.Machine.execMma e t a b s
  | .accz e t => Sys2Proof.Machine.execAccz e t s
  | .accrd e t d w => Sys2Proof.Machine.execAccrd e t d w s
  | .accwr e t a w => Sys2Proof.Machine.execAccwr e t a w s
  | .accst e t q => Sys2Proof.Machine.execAccst e t q s
  | .mstat e t d x => Sys2Proof.Machine.execMstat e t d x s
  | .mfreeze e t => Sys2Proof.Machine.execMfreeze e t s
  | .mthaw e t => Sys2Proof.Machine.execMthaw e t s
  | .tagkill e t => Sys2Proof.Machine.execTagkill e t s
  | .fork e c j => Sys2Proof.Machine.execFork e c j s
  | .choose e => Sys2Proof.Machine.execChoose e s
  | .vabort e => Sys2Proof.Machine.execVabort e s
  | .vstat e d a => Sys2Proof.Machine.execVstat e d a s
  | .vcommit e => Sys2Proof.Machine.execVcommit e s
  | .registerWrite fn off wide v => Sys2Proof.Machine.execRegisterWrite fn off wide v s
  | .qtailDoorbell q v => Sys2Proof.Machine.execQtailDoorbell q v s
  | .qheadWrite q v => Sys2Proof.Machine.execQheadWrite q v s
  | .queueEnable q => Sys2Proof.Machine.execQueueEnable q s
  | .queueDisable q => Sys2Proof.Machine.execQueueDisable q s
  | .launchPacket q => Sys2Proof.Machine.execLaunchPacket q s
  | .flumePacket q => Sys2Proof.Machine.execFlumePacket q s
  | .waitseqPacket q => Sys2Proof.Machine.execWaitseqPacket q s
  | .signalPacket q => Sys2Proof.Machine.execSignalPacket q s
  | .wrapPacket q => Sys2Proof.Machine.execWrapPacket q s
  | .nopPacket q => Sys2Proof.Machine.execNopPacket q s
  | .packetStart q seq => Sys2Proof.Machine.execPacketStart q seq s
  | .waitseqMet q seq => Sys2Proof.Machine.execWaitseqMet q seq s
  | .signalStore q seq => Sys2Proof.Machine.execSignalStore q seq s
  | .launchComplete lid => Sys2Proof.Machine.execLaunchComplete lid s
  | .placementStep part cluster cores => Sys2Proof.Machine.execPlacementStep part cluster cores s
  | .clonePlacement bid cluster core => Sys2Proof.Machine.execClonePlacement bid cluster core s
  | .blockRestore bid cluster core => Sys2Proof.Machine.execBlockRestore bid cluster core s
  | .starvationIssue gid sp => Sys2Proof.Machine.execStarvationIssue gid sp s
  | .registerDeadlock cluster core => Sys2Proof.Machine.execRegisterDeadlock cluster core s
  | .regreqGrant gid => Sys2Proof.Machine.execRegreqGrant gid s
  | .raftWindowClose q w => Sys2Proof.Machine.execRaftWindowClose q w s
  | .stageRelease item j => Sys2Proof.Machine.execStageRelease item j s
  | .stageOverrun item j => Sys2Proof.Machine.execStageOverrun item j s
  | .sliceEnd part => Sys2Proof.Machine.execSliceEnd part s
  | .reclaimGraceExpiry quarter => Sys2Proof.Machine.execReclaimGraceExpiry quarter s
  | .outstandingResultReturn gid seq lanes => Sys2Proof.Machine.execOutstandingResultReturn gid seq lanes s
  | .storeAcknowledge gid sp n => Sys2Proof.Machine.execStoreAcknowledge gid sp n s
  | .faultResponse asid va invalid => Sys2Proof.Machine.execFaultResponse asid va invalid s
  | .prgResponse fn asid va code => Sys2Proof.Machine.execPrgResponse fn asid va code s
  | .waitWake gid sp => Sys2Proof.Machine.execWaitWake gid sp s
  | .waitTimeout gid sp => Sys2Proof.Machine.execWaitTimeout gid sp s
  | .sleepExpiry gid sp => Sys2Proof.Machine.execSleepExpiry gid sp s
  | .fifoResume gid sp => Sys2Proof.Machine.execFifoResume gid sp s
  | .temperatureSample site readings => Sys2Proof.Machine.execTemperatureSample site readings s
  | .segmentExpiry seg => Sys2Proof.Machine.execSegmentExpiry seg s
  | .l2LineWriteback cluster line => Sys2Proof.Machine.execL2LineWriteback cluster line s
  | .l2LineDrop cluster line => Sys2Proof.Machine.execL2LineDrop cluster line s
  | .copyPiecePerformed req row off len => Sys2Proof.Machine.execCopyPiecePerformed req row off len s
  | .tileFetchLatch cluster p => Sys2Proof.Machine.execTileFetchLatch cluster p s
  | .waveAdmission cluster quadrant => Sys2Proof.Machine.execWaveAdmission cluster quadrant s
  | .waveExit cluster p => Sys2Proof.Machine.execWaveExit cluster p s
  | .tagkillDrainComplete cluster p => Sys2Proof.Machine.execTagkillDrainComplete cluster p s
  | .accumulatorError cluster p row col corrected => Sys2Proof.Machine.execAccumulatorError cluster p row col corrected s
  | .errorDetected unit pa corrected lost => Sys2Proof.Machine.execErrorDetected unit pa corrected lost s
  | .registerFileError gid corrected => Sys2Proof.Machine.execRegisterFileError gid corrected s
  | .flitRetry req => Sys2Proof.Machine.execFlitRetry req s
  | .linkAccessTimeout req => Sys2Proof.Machine.execLinkAccessTimeout req s
  | .remoteAccess tenancy off kind bytes => Sys2Proof.Machine.execRemoteAccess tenancy off kind bytes s
  | .echoReexecute sched lanes mismatch => Sys2Proof.Machine.execEchoReexecute sched lanes mismatch s
  | .echoEntryTimeout sched => Sys2Proof.Machine.execEchoEntryTimeout sched s
  | .sectorReclaim view => Sys2Proof.Machine.execSectorReclaim view s
  | .breakpointMatch gid sp n => Sys2Proof.Machine.execBreakpointMatch gid sp n s
  | .preempt fn keep => Sys2Proof.Machine.execPreempt fn keep s
  | .kill fn => Sys2Proof.Machine.execKill fn s
  | .stop fn stopblk => Sys2Proof.Machine.execStop fn stopblk s
  | .resume fn => Sys2Proof.Machine.execResume fn s
  | .step fn => Sys2Proof.Machine.execStep fn s
  | .debugon fn stopblk => Sys2Proof.Machine.execDebugon fn stopblk s
  | .debugoff fn => Sys2Proof.Machine.execDebugoff fn s
  | .commandRingTail v => Sys2Proof.Machine.execCommandRingTail v s
  | .ringHeadWrite fn r v => Sys2Proof.Machine.execRingHeadWrite fn r v s
  | .bind => Sys2Proof.Machine.execBind s
  | .retire => Sys2Proof.Machine.execRetire s
  | .inval => Sys2Proof.Machine.execInval s
  | .migrate => Sys2Proof.Machine.execMigrate s
  | .commandCompletion n => Sys2Proof.Machine.execCommandCompletion n s
  | .migrateProceed n => Sys2Proof.Machine.execMigrateProceed n s
  | .migratePinned n => Sys2Proof.Machine.execMigratePinned n s
  | .atsInvalidation fn addr len => Sys2Proof.Machine.execAtsInvalidation fn addr len s
  | .quarterPartWrite quarter v => Sys2Proof.Machine.execQuarterPartWrite quarter v s
  | .quarterLend quarter v => Sys2Proof.Machine.execQuarterLend quarter v s
  | .quarterReclaim quarter => Sys2Proof.Machine.execQuarterReclaim quarter s
  | .layoutChangeComplete quarter => Sys2Proof.Machine.execLayoutChangeComplete quarter s
  | .latchChange core => Sys2Proof.Machine.execLatchChange core s
  | .rateControlPeriod tenancy source => Sys2Proof.Machine.execRateControlPeriod tenancy source s
  | .supervisorImageLoad part image entry save => Sys2Proof.Machine.execSupervisorImageLoad part image entry save s
  | .powerOnReset => Sys2Proof.Machine.execPowerOnReset s
  | .bootStageEnd fail => Sys2Proof.Machine.execBootStageEnd fail s
  | .bootStageTimeout => Sys2Proof.Machine.execBootStageTimeout s
  | .powerRatioUpdate pnow => Sys2Proof.Machine.execPowerRatioUpdate pnow s
  | .unitLoss site n => Sys2Proof.Machine.execUnitLoss site n s
  | .illegalOp w => Sys2Proof.Machine.execIllegalOp w s
  | .gwctReached gid sp => Sys2Proof.Machine.execGwctReached gid sp s
  | .priEnable fn => Sys2Proof.Machine.execPriEnable fn s
  | .badCommand => Sys2Proof.Machine.execBadCommand s
  | .imageLoad asid base frame image => Sys2Proof.Machine.execImageLoad asid base frame image s
  | .imageUnload base => Sys2Proof.Machine.execImageUnload base s
  | .getVersion fn version payload => Sys2Proof.Machine.execGetVersion fn version payload s
  | .getCapabilities fn version payload => Sys2Proof.Machine.execGetCapabilities fn version payload s
  | .negotiateAlgorithms fn version payload => Sys2Proof.Machine.execNegotiateAlgorithms fn version payload s
  | .getDigests fn version payload => Sys2Proof.Machine.execGetDigests fn version payload s
  | .getCertificate fn version payload => Sys2Proof.Machine.execGetCertificate fn version payload s
  | .challenge fn version payload => Sys2Proof.Machine.execChallenge fn version payload s
  | .getMeasurements fn version payload => Sys2Proof.Machine.execGetMeasurements fn version payload s
  | .keyExchange fn version payload => Sys2Proof.Machine.execKeyExchange fn version payload s
  | .finish fn version payload => Sys2Proof.Machine.execFinish fn version payload s
  | .keyProvision fn lseq key policy => Sys2Proof.Machine.execKeyProvision fn lseq key policy s
  | .keyExport fn policy => Sys2Proof.Machine.execKeyExport fn policy s
  | .keyLoad fn lseq blob policy => Sys2Proof.Machine.execKeyLoad fn lseq blob policy s
  | .keyClear fn => Sys2Proof.Machine.execKeyClear fn s
  | .handoverExport fn hseq dest recovery digest => Sys2Proof.Machine.execHandoverExport fn hseq dest recovery digest s
  | .handoverCommit fn hseq => Sys2Proof.Machine.execHandoverCommit fn hseq s
  | .handoverImport fn lseq packet record => Sys2Proof.Machine.execHandoverImport fn lseq packet record s
  | .handoverConfirm fn confirmation => Sys2Proof.Machine.execHandoverConfirm fn confirmation s
  | .unsupportedRequest fn code version payload => Sys2Proof.Machine.execUnsupportedRequest fn code version payload s

end Sys2Proof.Machine
end

