-- ==== Sys2Proof/Machine/Clock.lean ====
section
/-! DEFINITION. The passing of ticks: CLOCK, ages, slices, and the events whose time has come (01 R35; 08 R182, R185; 12 R264, R281; 15 R315 to
R320; 21 R375; 23 R387, R395; 25 R412, R415). -/

namespace Sys2Proof.Machine

/-! ## Rates (R182, R319, R415) -/

/-- w(T) in units of 1/6000 reference ns a tick, for a site (DEDUCED, log entry 37). -/
def ageRate (s : State) (site : Nat) : Nat :=
  let t := s.sys.siteT.getD site 1760
  if t ≤ 960 then 2400
  else if t ≤ 1360 then 2400 + 9 * (t - 960)
  else if t ≤ 1600 then 6000 + 20 * (t - 1360)
  else 10800 + 30 * (t - 1600)

/-- The cluster of a segment. -/
def segCluster (seg : Nat) : Nat := seg / 65536

/-- Cycles that a partition counts in a tick, in units of 1/80: those of its slowest powered core island, none while one is stopped (DESIGN CHOICE, log entry 4). -/
def sliceRate (s : State) (p : Nat) : Nat :=
  let islands := ((s.sys.quarters.filter (fun q => q.serves == p)).map (fun q => s.island (2 * (q.q / 4)))).filter (·.on)
  if islands.any (·.stopped) then 0
  else
    match islands with
    | [] => 0
    | x :: r => 7 * r.foldl (fun m i => min m i.ratio.toNat) x.ratio.toNat

/-- The partition has slices. -/
def sliced (p : Partition) : Bool := decide (2 ≤ (sharers p).length)

/-! ## Time goes by -/

/-- Cycles of a cluster's cores in a tick, in units of 1/80: none while their island is stopped (R413, R416) (DESIGN CHOICE, log entry 4). -/
def coreRate (s : State) (cluster : Nat) : Nat :=
  let x := s.island (2 * cluster)
  if x.stopped then 0 else 7 * x.ratio.toNat

/-- `n` ticks pass for a group's lowest runnable split, in units of 1/80 cycle of its core; no other split of the group is the lowest (R45)
(DESIGN CHOICE, log entry 4). -/
def countLow (s : State) (n : Nat) (g : Group) : Group :=
  let cycles := if onCore s g then n * coreRate s (s.party g).cluster else 0
  g.mapSplits (fun q =>
    { q with low := if lowestRunnable g q then (q.order, cycles + (if q.low.1 == q.order then q.low.2 else 0)) else (0, 0) })

/-- `n` ticks pass: CLOCK, the ages of segments, FIFO entries and L2 lines, the cycles of slices, of echo entries, and those for which splits are the lowest (DESIGN CHOICE, log entry 4). -/
def elapse (s : State) (n : Nat) : State :=
  { s with
    clock := s.clock + n
    fe :=
      { s.fe with
        groups := s.fe.groups.map (countLow s n)
        echo := s.fe.echo.map (fun e => { e with age := e.age + n * coreRate s (e.sched / 16) }) }
    mm :=
      { s.mm with
        segAge := s.mm.segAge.map (fun x => (x.1, x.2 + n * ageRate s (siteOf (segCluster x.1))))
        pools := s.mm.pools.map (fun p => { p with entries := p.entries.map (fun e => (e.1, e.2 + n * ageRate s (siteOf p.cluster))) })
        l2 := s.mm.l2.map (fun x => { x with age := x.age + n * ageRate s (siteOf x.cluster) }) }
    sys := { s.sys with parts := s.sys.parts.map (fun p => if sliced p then { p with counted := p.counted + n * sliceRate s p.p } else p) } }

/-- The tick by which an age of `a` that grows by `r` reaches `limit`. -/
def reachAt (clock a r limit : Nat) : Nat := clock + (limit - a + r - 1) / max 1 r

/-- The least lifetime of the allocations that hold a segment. -/
def segLife (s : State) (seg : Nat) : Option Nat := ((s.mm.allocs.filter (fun a => a.segs.contains seg)).map (·.life)).min?

/-- 256 cycles, in units of 1/80 (R375). -/
def echoCycles : Nat := 256 * 80

/-- The ticks at which something that waits on CLOCK goes on. -/
def deadlines (s : State) : List Nat :=
  let splits := s.fe.groups.flatMap (fun g => g.splits)
  splits.filterMap (fun q => if q.hold = 0 then none else some q.hold) ++
  splits.filterMap (fun q => match q.park with | .sleep t => some t | .word _ _ (some t) => some t | _ => none) ++
  s.fe.raft.map (fun w => w.first + 2000) ++
  s.fe.items.flatMap (fun x => (x.stages.zip x.flume.stages).filterMap (fun y =>
    if y.1.released && !y.1.ended && !y.1.overrun && y.2.deadline != 0 then some (y.1.start + y.2.deadline + 1) else none)) ++
  s.sys.quarters.filterMap (·.graceEnd) ++
  s.en.link.map (fun r => r.start + 2 ^ 22) ++
  (match s.sys.stage with | .rom | .firmware | .training => [s.sys.stageStart + 5000000000] | _ => []) ++
  s.mm.commands.filterMap (fun c => if c.op = 4 && !c.ready && c.step = 1 then some (c.start + 1000000) else none) ++
  s.mm.llcLease.map (·.2) ++ s.mm.views.filterMap (·.commit) ++
  s.mm.segAge.filterMap (fun x => (segLife s x.1).map (fun l => reachAt s.clock x.2 (ageRate s (siteOf (segCluster x.1))) (l * ageMicro))) ++
  s.mm.l2.flatMap (fun x => [48, 56].map (fun us => reachAt s.clock x.age (ageRate s (siteOf x.cluster)) (us * ageMicro))) ++
  s.sys.parts.filterMap (fun p => if sliced p && sliceRate s p.p != 0 then some (reachAt s.clock p.counted (sliceRate s p.p) (80 * 2 ^ p.slice.toNat)) else none) ++
  s.fe.echo.map (fun e => reachAt s.clock e.age (coreRate s (e.sched / 16)) echoCycles) ++
  s.fe.groups.flatMap (fun g => (g.splits.filter (lowestRunnable g)).map (fun q =>
    reachAt s.clock (if q.low.1 == q.order then q.low.2 else 0) (coreRate s (s.party g).cluster) starveCycles)) ++
  (if s.sys.rates.isEmpty then [] else [(s.clock / 1024 + 1) * 1024])

/-- Ticks to the nearest deadline; none where nothing waits (DESIGN CHOICE, log entry 6). -/
def nextDeadline (s : State) : Option Nat := (((deadlines s).filter (fun t => decide (s.clock < t))).min?).map (· - s.clock)

/-- The closings of a queue's windows that are due, each by the place it has once those before it have closed (R315). -/
def dueWindows (due : RaftWindow → Bool) (q : Nat) : Nat → List RaftWindow → List Instr
  | _, [] => []
  | k, w :: r => if due w then .raftWindowClose q k :: dueWindows due q k r else dueWindows due q (k + 1) r

/-- The events whose time has come between two states of the clock. -/
def dueEvents (s0 s : State) : List Instr :=
  let now (t : Nat) : Bool := decide (s0.clock < t) && decide (t ≤ s.clock)
  let splits := s.fe.groups.flatMap (fun g => g.splits.map (fun q => (g.gid, q)))
  splits.filterMap (fun x => if x.2.hold != 0 && decide (x.2.hold ≤ s.clock) then some (.gwctReached x.1 x.2.idx) else none) ++
  splits.filterMap (fun x =>
    match x.2.park with
    | .sleep t => if t ≤ s.clock then some (.sleepExpiry x.1 x.2.idx) else none
    | .word _ _ (some t) => if t ≤ s.clock then some (.waitTimeout x.1 x.2.idx) else none
    | _ => none) ++
  (s.mm.segAge.zip s0.mm.segAge).filterMap (fun x =>
    match segLife s x.1.1 with
    | some l => if x.2.2 < l * ageMicro && decide (l * ageMicro ≤ x.1.2) then some (.segmentExpiry x.1.1) else none
    | none => none) ++
  (s.mm.l2.zip s0.mm.l2).flatMap (fun x =>
    (if x.2.age < 48 * ageMicro && decide (48 * ageMicro ≤ x.1.age) then [.l2LineWriteback x.1.cluster (x.1.pa / 8)] else []) ++
    (if x.2.age < 56 * ageMicro && decide (56 * ageMicro ≤ x.1.age) then [.l2LineDrop x.1.cluster (x.1.pa / 8)] else [])) ++
  (s.fe.queues.flatMap (fun q => dueWindows (fun w => now (w.first + 2000)) q.q 0 (s.fe.raft.filter (fun w => w.q == q.q)))) ++
  s.fe.items.flatMap (fun x => ((x.stages.zip x.flume.stages).mapIdx (fun j y => (j, y))).filterMap (fun z =>
    if z.2.1.released && now (z.2.1.start + z.2.2.deadline + 1) then some (.stageOverrun x.id z.1) else none)) ++
  s.sys.parts.filterMap (fun p => if sliced p && decide (80 * 2 ^ p.slice.toNat ≤ p.counted) then some (.sliceEnd p.p) else none) ++
  s.sys.quarters.filterMap (fun q => match q.graceEnd with | some t => if t ≤ s.clock then some (.reclaimGraceExpiry q.q) else none | none => none) ++
  s.en.link.filterMap (fun r => if now (r.start + 2 ^ 22) then some (.linkAccessTimeout r.id) else none) ++
  (s.mm.commands.mapIdx (fun i c => (i, c))).filterMap (fun x =>
    if x.2.op = 4 && !x.2.ready && x.2.step = 1 && now (x.2.start + 1000000) then some (.migratePinned x.1) else none) ++
  (if now (s.sys.stageStart + 5000000000) then [.bootStageTimeout] else []) ++
  s.fe.echo.filterMap (fun e => if echoCycles ≤ e.age then some (.echoEntryTimeout e.sched) else none) ++
  (((s.fe.groups.filter (onCore s)).map (schedOf s)).eraseDups.filterMap (fun k => (requiredFirst s k).map (fun x => Instr.starvationIssue x.1.gid x.2.idx))) ++
  (if s.clock % 1024 = 0 then s.sys.rates.map (fun r => .rateControlPeriod r.t r.source) else [])

/-- Ticks pass, as far as the nearest deadline; what is due goes first, and the ticks that are left follow. -/
def passTicks (s : State) (n : Nat) : State :=
  if n = 0 then s
  else
    let d := min n ((nextDeadline s).getD n)
    let s1 := elapse s d
    { s1 with agenda := (dueEvents s s1).map Action.event ++ (if n = d then [] else [.tick (n - d)]) ++ s1.agenda }

end Sys2Proof.Machine
end

