-- ==== Sys2Proof/Machine/Pick.lean ====
section
/-! DEFINITION. How an action of the agenda is performed, and what the machine does of itself. Where the manual leaves an order open, any order of
these actions is one the agenda can hold; with an empty agenda the machine takes the first that changes something (log entry 6). -/

namespace Sys2Proof.Machine

/-! ## A block's own transitions -/

/-- The groups of a block that are evicted, or being evicted, as far as they can go. -/
def evictGroups (s : State) (bid : Nat) : State :=
  match s.block? bid with
  | none => s
  | some b =>
    if b.st != .running then s
    else
      ((liveGroups s bid).filter (fun g => evicted b g)).foldl (fun s g =>
        match s.group? g.gid with
        | none => s
        | some x =>
          if x.routineDone && !x.trapAddr.getLsbD 0 then returnStep s b x
          else evictStep s b x.gid) s

/-- A block goes on with what it is in the middle of: rendezvous, evictions, its stop, its routine (R28, R197, R223, R246, R248, R343, R354). -/
def advance (s : State) (bid : Nat) : State :=
  match s.block? bid with
  | none => s
  | some b =>
    match b.st with
    | .running => settleWindows (struckStep (routineStep (evictGroups (blockProgress s bid) bid) bid) bid)
    | .stopping =>
      let s1 := routineStep s bid
      settleWindows (match s1.block? bid with | some b1 => stopStep s1 b1 | none => s1)
    | .saving => settleWindows (routineStep s bid)
    | .restoring => settleWindows (routineStep s bid)
    | .ending => endingStep s b
    | _ => s

/-! ## What comes from outside, and replacement -/

/-- The window of another device's DRAM (R386). -/
def farWindow (s : State) (pa : Nat) : Bool := isRemote pa && !isDram (localOf s pa) && decide ((pa - 2 ^ 48) % 2 ^ 42 < dramEnd)

/-- The host stores bytes in its memory, or another device in its own DRAM (R386) (DESIGN CHOICE, log entry 72). -/
def hostStore (s : State) (pa : Nat) (bs : List Byte) : State :=
  if (isHost pa && isHost (pa + bs.length)) || (farWindow s pa && farWindow s (pa + bs.length) && pa / 2 ^ 42 == (pa + bs.length) / 2 ^ 42) then (sectorsOf pa bs.length).foldl (fun s x => wakeSector s 0 x) (s.setMem (ssetMany s.mm.mem pa bs))
  else s

/-- Evict a sector of an L1: cleaned to the next level, then dropped, once nothing holds its clean (R226, R279) (DESIGN CHOICE, log entry 23). -/
def evictL1 (s : State) (cluster core va : Nat) : State :=
  let p (x : L1Sector) : Bool := x.cluster == cluster && x.core == core && x.va == va
  if (s.mm.l1.filter p).any (fun x => x.dirty != 0 && cleanHeld s x.pa) then s
  else
    let s1 := (s.mm.l1.filter p).foldl (fun s x => (cleanL1 s (sectorParty s x) x false).1) s
    s1.setL1 (s1.mm.l1.filter (fun x => !p x))

/-- Evict a sector of an L2: cleaned to its home, then dropped (R281). -/
def evictL2 (s : State) (cluster pa : Nat) : State := dropL2 s (fun x => x.cluster == cluster && x.pa == pa)

/-- Add a translation to a function's cache of 1,024, which drops its oldest where it is full (R384) (DESIGN CHOICE, log entry 72). -/
def atsAdd (l : List (Nat × Nat × Nat)) (k : Nat × Nat × Nat) : List (Nat × Nat × Nat) :=
  let l1 := l.filter (· != k)
  (if (l1.filter (fun x => x.1 == k.1)).length < 1024 then l1
   else match l1.find? (fun x => x.1 == k.1) with | some y => l1.erase y | none => l1) ++ [k]

/-- A setting of the environment (DESIGN CHOICE, log entry 16; DESIGN CHOICE, log entry 18; DESIGN CHOICE, log entry 72). -/
def applySetting (s : State) (x : Setting) : State :=
  match x with
  | .contextBase v => { s with sys := { s.sys with ctxBase := BitVec.ofNat 64 v } }
  | .assignQueue q asid tenancy part fn => s.mapQueue q (fun y => { y with assigned := true, asid, tenancy, part, fn })
  | .serve fn tenancy => if fn = 0 then s else s.mapResponder fn (fun r => { r with tenancy })
  | .bar fn base => { s with sys := { s.sys with bars := s.sys.bars.filter (fun x => x.1 != fn) ++ [(fn, base)] } }
  | .device id domain => { s with sys := { s.sys with devId := id, domain } }
  | .hostPage fn pasid page kind =>
    let k := (fn, pasid, page)
    { s with sys :=
      { s.sys with
        atsDenied := s.sys.atsDenied.filter (· != k) ++ (if kind = 1 then [k] else [])
        hostAbort := s.sys.hostAbort.filter (· != k) ++ (if kind = 2 then [k] else []) } }
  | .ats fn pasid page => { s with sys := { s.sys with ats := atsAdd s.sys.ats (fn, pasid, page) } }
  | .prAllocation n =>
    let s1 : State := { s with sys := { s.sys with prAlloc := n } }
    sendRequests s1.mm.faults.length s1
  | .remoteLease pa end_ => { s with sys := { s.sys with remoteLease := setKey s.sys.remoteLease (lineOf pa) end_ } }
  | .remoteFrame tenancy frame refused =>
    { s with sys := { s.sys with refused := s.sys.refused.filter (· != (tenancy, frame)) ++ (if refused then [(tenancy, frame)] else []) } }
  | .answering fn busy => s.mapResponder fn (fun r => { r with busy })

/-! ## Whose turn an issue slot is (R318) -/

/-- The splits of a scheduler that may issue, in the order in which it takes them: the one that R45 requires, then the one that became ready earliest, ties
going to the lower group and then the lower split. -/
def issueOrder (s : State) (sched : Nat) : List (Nat × Nat) :=
  let all := (s.fe.groups.filter (fun g => schedOf s g == sched)).flatMap (fun g =>
    (g.splits.filter (fun p => canIssue s g p && !awaitsPages s g p)).map (fun p => (p.order, g.gid, p.idx)))
  let ready := (sortBy (fun x y => decide (x.1 < y.1) || (x.1 == y.1 && (decide (x.2.1 < y.2.1) || (x.2.1 == y.2.1 && decide (x.2.2 ≤ y.2.2))))) all).map
    (fun x => (x.2.1, x.2.2))
  match requiredFirst s sched with
  | some (g, p) => (g.gid, p.idx) :: ready.filter (· != (g.gid, p.idx))
  | none => ready

/-- The issue slot of a split changes nothing: its fetch stays suspended (R189). -/
def stalls (run : Instr → State → Result) (s : State) (x : Nat × Nat) : Bool :=
  match issueSlot run x.1 x.2 s with
  | .next t => decide ({ t with cur := s.cur } = s)
  | _ => false

/-- The splits that the split's scheduler would issue before it. -/
def aheadOf (s : State) (gid sp : Nat) : List (Nat × Nat) :=
  match s.split? gid sp with
  | some (g, _) => (issueOrder s (schedOf s g)).takeWhile (· != (gid, sp))
  | none => []

/-- Issue a split where it is its turn: every split ahead of it on its scheduler is suspended (R318) (DEDUCED, log entry 13). -/
def takeSlot (run : Instr → State → Result) (gid sp : Nat) (s : State) : Result :=
  if (aheadOf s gid sp).all (stalls run s) then issueSlot run gid sp s else .next s

/-! ## Performing -/

/-- Perform an action (DESIGN CHOICE, log entry 1; DESIGN CHOICE, log entry 22; DESIGN CHOICE, log entry 72). -/
def perform (run : Instr → State → Result) (a : Action) (s : State) : Result :=
  match a with
  | .issue gid i => takeSlot run gid i s
  | .event i => run i s
  | .advance bid => .next (advance s bid)
  | .tick n => .next (passTicks s n)
  | .setting x => .next (applySetting s x)
  | .hostStore pa bs => .next (hostStore s pa bs)
  | .evictL1 cluster core va => .next (evictL1 s cluster core va)
  | .evictL2 cluster pa => .next (evictL2 s cluster pa)
  | .evictTlb cluster va => .next { s with mm := { s.mm with tlb := s.mm.tlb.filter (fun x => !(x.cluster == cluster && x.va == va)) } }
  | .evictWalk site va => .next { s with mm := { s.mm with walk := s.mm.walk.filter (fun x => !(x.site == site && x.va == va)) } }
  | .mark tenancy source => .next (receiveMark s tenancy source)
  | .traffic code tenancy n => .next (s.count (BitVec.ofNat 8 code) tenancy n)

/-! ## What the machine does of itself -/

/-- Results to return and stores to perform. -/
def accessActions (s : State) : List Action :=
  s.fe.groups.flatMap (fun g => g.pending.map (fun x => .event (.outstandingResultReturn g.gid x.seq (BitVec.allOnes 32)))) ++
  s.fe.groups.flatMap (fun g => g.splits.flatMap (fun q => (List.range q.buffer.length).map (fun i => .event (.storeAcknowledge g.gid q.idx i))))

/-- Waits that may end. -/
def wakeActions (s : State) : List Action :=
  s.fe.groups.flatMap (fun g => g.splits.filterMap (fun q =>
    match q.park with
    | .word _ true _ => some (.event (.waitWake g.gid q.idx))
    | .fifo _ _ _ => some (.event (.fifoResume g.gid q.idx))
    | _ => if q.st == .regreq then some (.event (.regreqGrant g.gid)) else none))

/-- Blocks on their cores. -/
def blockActions (s : State) : List Action :=
  (s.fe.blocks.filter (fun b => b.st != .ended && b.st != .waiting && b.st != .saved)).map (fun b => .advance b.bid)

/-- The next piece of a copy request: to the end of its row, of its destination's line or of its source's page. -/
def copyAction (r : CopyReq) : Action :=
  let ptr := copyPointer r
  .event (.copyPiecePerformed r.id ptr.1 ptr.2
    (min (r.rowBytes - ptr.2) (min (512 - (r.dst + ptr.1 * r.dstride + ptr.2) % 512) (4096 - (r.src + ptr.1 * r.sstride + ptr.2) % 4096))))

/-- The engines: copies, waves out, waves in, operands, drained tags. -/
def engineActions (s : State) : List Action :=
  let ts := s.en.tags.filter (fun t => !t.member && t.st != .free)
  s.en.copies.map copyAction ++
  (ts.filter (fun t => !t.inflight.isEmpty)).map (fun t => .event (.waveExit t.cluster t.p)) ++
  (ts.filter tagReady).map (fun t => .event (.waveAdmission t.cluster (t.p / 8))) ++
  (ts.filter (fun t => !t.queue.isEmpty)).map (fun t => .event (.tileFetchLatch t.cluster t.p)) ++
  (ts.filter (fun t => t.st == .killing)).map (fun t => .event (.tagkillDrainComplete t.cluster t.p))

/-- Views' dead sectors, translation commands, and changes of quarters and latches. -/
def managementActions (s : State) : List Action :=
  (((s.mm.sectors.filter (·.dead)).map (·.view) ++ s.mm.heldIds).eraseDups).map (fun v => .event (.sectorReclaim v)) ++
  (List.range s.mm.commands.length).flatMap (fun i => [.event (.migrateProceed i), .event (.commandCompletion i)]) ++
  (if (nextCommand s).isSome then [Instr.bind, .retire, .inval, .migrate, .badCommand].map Action.event else []) ++
  (s.sys.latches.filter (·.lpend)).map (fun h => .event (.latchChange h.core)) ++
  (s.sys.quarters.filter (·.pend)).map (fun q => .event (.layoutChangeComplete q.q))

/-- The front end: packets, starts, completions, flume stages. -/
def frontActions (s : State) : List Action :=
  (s.fe.launches.filter (fun l => l.started && !l.complete)).map (fun l => .event (.launchComplete l.lid)) ++
  (s.fe.log.filter (fun e => !e.complete)).flatMap (fun e =>
    match e.kind with
    | .waitseq _ _ => [.event (.packetStart e.q e.seq), .event (.waitseqMet e.q e.seq)]
    | .signal _ _ => [.event (.packetStart e.q e.seq), .event (.signalStore e.q e.seq)]
    | _ => [.event (.packetStart e.q e.seq)]) ++
  s.fe.items.flatMap (fun x => (List.range x.stages.length).flatMap (fun j => [.event (.stageRelease x.id j), .event (.stageOverrun x.id j)])) ++
  (s.fe.queues.filter (fun q => q.enable && !q.halt && q.head != q.tail)).flatMap (fun q =>
    [Instr.launchPacket q.q, .flumePacket q.q, .waitseqPacket q.q, .signalPacket q.q, .wrapPacket q.q, .nopPacket q.q].map Action.event)

/-- The cores that members of a launch's cohort take on a cluster, in order, each the first that has room. -/
def coresFor (l : Launch) (cluster : Nat) : List (Nat × Option Nat) → State → Option (List Nat)
  | [], _ => some []
  | (n, want) :: r, s =>
    (((want.map (fun c => [c])).getD (List.range 4)).findSome? (fun c => (placeNew s l n cluster c).map (fun s1 => (c, s1)))).bind
      (fun x => (coresFor l cluster r x.2).map (fun cs => x.1 :: cs))

/-- The placement that a distributor makes next: the first cores that have room, and for a queued block its own core first. -/
def placementAction (s : State) (part : Nat) : List Action :=
  match (nextPlacement s part).1 with
  | none => [.event (.placementStep part 0 [])]
  | some c =>
    match s.launch? c.1, c.2.bind s.block? with
    | some l, none =>
      match handPlace s l with
      | some (cl, ms) => match coresFor l cl ms s with | some cs => [.event (.placementStep part cl cs)] | none => []
      | none =>
        match (List.range 96).findSome? (fun cl => (coresFor l cl (freeMembers s l) s).map (fun cs => (cl, cs))) with
        | some (cl, cs) => [.event (.placementStep part cl cs)]
        | none => []
    | some l, some b =>
      match ((4 * b.cluster + b.core) :: List.range 384).find? (fun q => (revive s l b (q / 4) (q % 4)).isSome) with
      | some q =>
        if b.st == .saved then [.event (.blockRestore b.bid (q / 4) (q % 4))]
        else if b.clone then [.event (.clonePlacement b.bid (q / 4) (q % 4))]
        else [.event (.placementStep part (q / 4) [q % 4])]
      | none => []
    | none, _ => []

/-- The distributors that have something to place. -/
def placementActions (s : State) : List Action :=
  (((s.fe.launches.filter (fun l => l.started && !l.complete)).map (fun l => (s.queue l.q).part)).eraseDups).flatMap (placementAction s)

/-- The splits that may issue, scheduler by scheduler (R318). -/
def issueActions (s : State) : List Action :=
  let all := ((s.fe.groups.map (schedOf s)).eraseDups).flatMap (issueOrder s)
  let order (x : Nat × Nat) : Nat := ((s.split? x.1 x.2).map (fun y => y.2.order)).getD 0
  (sortBy (fun x y => decide (order x ≤ order y)) all).map (fun x => .issue x.1 x.2)

/-- The cores on which a register deadlock may have to be found or resolved. -/
def deadlockCores (s : State) : List Nat :=
  let on := (s.fe.blocks.filter (fun b => b.st == .running)).map (fun b => 4 * b.cluster + b.core)
  (on ++ s.fe.deadlocks).eraseDups

/-- What idle slots do: echo entries are checked, and cores in register deadlock grant or evict (R28, R375). -/
def idleActions (s : State) : List Action :=
  (s.fe.echo.map (·.sched)).eraseDups.map (fun k => .event (.echoReexecute k (BitVec.allOnes 32) 0)) ++
  (deadlockCores s).map (fun k => .event (.registerDeadlock (k / 4) (k % 4)))

/-- The actions of the machine itself, in the order in which it takes them with an empty agenda (DESIGN CHOICE, log entry 6). -/
def ownActions : List (State → List Action) :=
  [accessActions, wakeActions, blockActions, engineActions, managementActions, frontActions, placementActions, issueActions, idleActions]

/-- The outcome of an action where it changes the state, other than in which split issued last. -/
def change (run : Instr → State → Result) (s : State) (a : Action) : Option (Action × Result) :=
  match perform run a s with
  | .next t => if { t with cur := s.cur } = s then none else some (a, .next t)
  | r => some (a, r)

/-- The first action that changes something, with its outcome (DESIGN CHOICE, log entry 6). -/
def nextChange (run : Instr → State → Result) (s : State) : List (State → List Action) → Option (Action × Result)
  | [] => none
  | f :: r => ((f s).findSome? (change run s)) <|> nextChange run s r

/-- A step with an empty agenda: the machine's own next action, an issue being followed by a tick; with nothing to do, time passes to the next
deadline (DESIGN CHOICE, log entry 6). -/
def ownStep (run : Instr → State → Result) (s : State) : Result :=
  match nextChange run s ownActions with
  | some (.issue _ _, .next t) => .next { t with agenda := t.agenda ++ [.tick 1] }
  | some (_, r) => r
  | none => .next (passTicks s ((nextDeadline s).getD 1))

end Sys2Proof.Machine
end

