-- ==== Sys2Proof/Machine/Step.lean ====
section
/-! DEFINITION. One step of the machine: the next action of the agenda, or, with an empty agenda, what the machine does of
itself. -/

namespace Sys2Proof.Machine

/-- One step (DESIGN CHOICE, log entry 1). -/
def step (s : State) : Host.Outcome State Fault Refusal :=
  match s.agenda with
  | a :: r => perform exec a { s with agenda := r }
  | [] => ownStep exec s

/-- The state with one instruction placed where step fetches next (DESIGN CHOICE, log entry 1). -/
def State.withFetchWord (s : State) (nbits w : Nat) : State := loadState s (loadBytes2 nbits w)

end Sys2Proof.Machine
end

