-- ==== Sys2Proof/Safety.lean ====
section
/-! DEFINITION. The vocabulary of the statements: what it is for an instruction to retire and what it leaves alone, what an
event may change, and the invariant of memory's form. -/

namespace Sys2Proof.Machine

/-! ## Memory's form -/

/-- The canonical form of memory: addresses strictly rising, no byte that equals what an unlisted address reads as. -/
def Memory.wf (m : Memory) : Bool := swf m.mem && swf m.scratch

/-- The invariant of the machine's memories. -/
abbrev State.Inv (s : State) : Prop := s.mm.wf = true

/-! ## An instruction that issues -/

/-- The group and the split whose turn it is to issue, with nothing owed: no failed run to report at the next ebb (R52), no
STEP trap due (R359). -/
structure Ready (s : State) (g : Group) (p : Split) : Prop where
  issues : issuer s = some (g, p)
  calm : p.abort = none
  noStep : p.trapStep = false

/-- The split after an instruction that retires: its next PC, its new SIG, and its state by R30 and R47. -/
def retiredSplit (e : Bool) (pc' : Pc) (sg : Word) (s : State) (g : Group) (p : Split) : Split :=
  { p with pc := pc', sig := sg, st := stateAfter e g p, fmask := 0, faddr := [], phase := 0, appends := none, tagWait := none, trapStep := false,
           stepOne := false, stepEnd := p.stepOne && stateAfter e g p == .ebb, order := s.seq }

/-- The split after an instruction that retires at the next word. -/
def nextSplit (i : Instr) (e : Bool) (s : State) (g : Group) (p : Split) : Split :=
  retiredSplit e (pcAfter i p) (sigAfter i g p) s g p

/-- Nothing outside the groups changes but the echo queue, the counters of events and the model's own order. -/
def GroupsOnly (s t : State) : Prop :=
  t = { s with seq := t.seq, fe := { s.fe with groups := t.fe.groups, echo := t.fe.echo },
               sys := { s.sys with counters := t.sys.counters } }

/-- The instruction answers a next state in which the issuing group is `g1`, its issuing split `p1`, every other split of the
group and every other group as before, and `rest` holds of the next state. -/
def Retires (i : Instr) (s : State) (g g1 : Group) (p p1 : Split) (rest : State → Prop) : Prop :=
  ∃ t sp, exec i s = .next t ∧ t.split? g.gid p.idx = some ({ g1 with splits := sp }, p1) ∧
    (∀ j, j ≠ p.idx → ({ g1 with splits := sp } : Group).split? j = g.split? j) ∧
    (∀ j, j ≠ g.gid → t.group? j = s.group? j) ∧ rest t

/-- The instruction writes `f` in each active lane of the vector register `d` (nothing where `d` is `zero`), and retires; every
other register, predicate, flag, special register and split, and all of memory, stay as they are. -/
def WritesLanes (i : Instr) (e : Bool) (d : RegNum) (f : Nat → Word) (s : State) (g : Group) (p : Split) : Prop :=
  ∃ g1, Retires i s g g1 p (nextSplit i e s g p) (GroupsOnly s) ∧ g1 = { g with v := g1.v } ∧
    ∀ r l, l < 32 → readReg g1 r l = if r = d.toNat ∧ d.toNat < 96 ∧ laneIn p.active l = true then f l else readReg g r l

/-- The instruction writes `f` in each active lane of the predicate `d` (nothing where `d` is p7), and retires. -/
def WritesPred (i : Instr) (e : Bool) (d : PredNum) (f : Nat → Bool) (s : State) (g : Group) (p : Split) : Prop :=
  ∃ g1, Retires i s g g1 p (nextSplit i e s g p) (GroupsOnly s) ∧ g1 = { g with p := g1.p } ∧
    ∀ r l, l < 32 → laneIn (readPred g1 r) l =
      if r = d.toNat ∧ d.toNat < 7 ∧ laneIn p.active l = true then f l else laneIn (readPred g r) l

/-- The instruction writes the word `w` to the register `d` of the uniform file, or to each active lane of a vector register
(R24), nothing where `d` is `zero`, and retires. -/
def WritesUni (i : Instr) (e : Bool) (d : RegNum) (w : Word) (s : State) (g : Group) (p : Split) : Prop :=
  ∃ g1, Retires i s g g1 p (nextSplit i e s g p) (GroupsOnly s) ∧ g1 = { g with v := g1.v, s := g1.s, k := g1.k } ∧
    ∀ r l, l < 32 → readReg g1 r l =
      if r = d.toNat ∧ d.toNat < 126 ∧ (d.toNat < 96 → laneIn p.active l = true) then w else readReg g r l

/-- The instruction retires with no register written. -/
def RetiresOnly (i : Instr) (e : Bool) (pc' : Pc) (s : State) (g : Group) (p : Split) : Prop :=
  Retires i s g g p (retiredSplit e pc' (sigAfter i g p) s g p) (GroupsOnly s)

/-- The instruction has issued and does not retire: it raises the cause `c` at the issuing split's own PC, as `raiseAt` says (R43, R257, R260,
R341, R392). -/
def Traps (i : Instr) (s : State) (g : Group) (p : Split) (c : Cause) : Prop :=
  exec i s = .next (raiseAt (issued s g) g.gid p.idx p.pc c (rollsBack c))

/-- The flags of lane `l` after the active lanes' flags `f` are ORed in (R149). -/
def flagsAfter (f : Nat → Flags) (g : Group) (p : Split) (l : Nat) : Flags :=
  if laneIn p.active l = true then sget g.fflags l ||| f l else sget g.fflags l

/-- The instruction writes a word and ORs exception flags into FFLAGS in each active lane, and retires (R149, R150). -/
def WritesFloat (i : Instr) (e : Bool) (d : RegNum) (f : Nat → Word × Flags) (s : State) (g : Group) (p : Split) : Prop :=
  ∃ g1, Retires i s g g1 p (nextSplit i e s g p) (GroupsOnly s) ∧ g1 = { g with v := g1.v, fflags := g1.fflags } ∧
    (∀ r l, l < 32 → readReg g1 r l = if r = d.toNat ∧ d.toNat < 96 ∧ laneIn p.active l = true then (f l).1 else readReg g r l) ∧
    ∀ l, l < 32 → sget g1.fflags l = flagsAfter (fun l => (f l).2) g p l

/-- The instruction writes a predicate and ORs exception flags into FFLAGS in each active lane, and retires. -/
def WritesFloatPred (i : Instr) (e : Bool) (d : PredNum) (f : Nat → Bool × Flags) (s : State) (g : Group) (p : Split) : Prop :=
  ∃ g1, Retires i s g g1 p (nextSplit i e s g p) (GroupsOnly s) ∧ g1 = { g with p := g1.p, fflags := g1.fflags } ∧
    (∀ r l, l < 32 → laneIn (readPred g1 r) l =
      if r = d.toNat ∧ d.toNat < 7 ∧ laneIn p.active l = true then (f l).1 else laneIn (readPred g r) l) ∧
    ∀ l, l < 32 → sget g1.fflags l = flagsAfter (fun l => (f l).2) g p l

/-- The split that an instruction leaves with an outstanding result in the registers `regs` (R48): their bits are set in
OUTSTANDING, and the access is the split's youngest. -/
def owingSplit (regs : RegSet) (s : State) (g : Group) (p : Split) : Split :=
  { p with outst := p.outst ||| regs, past := pastOf g p ++ [s.seq] }

/-- The outstanding result of the instruction that issues. -/
def owed (view : Nat) (regs : RegSet) (parts : List LaneResult) (s : State) (g : Group) (p : Split) : Pending :=
  { seq := s.seq, after := pastOf g p, sp := p.idx, view, regs, parts }

/-- The instruction retires with its result outstanding: no register is written yet, and the result that a later return writes is
`parts`, in the registers `regs` (R48, R128). -/
def LeavesOutstanding (i : Instr) (e : Bool) (view : Nat) (regs : RegSet) (parts : List LaneResult) (s : State) (g : Group) (p : Split) :
    Prop :=
  Retires i s g { g with pending := g.pending ++ [owed view regs parts s g p] } p (nextSplit i e s g (owingSplit regs s g p)) (GroupsOnly s)

/-- The words, fixed at issue, that an outstanding lane result writes in each active lane (R141). -/
def laneParts (d : RegNum) (p : Split) (f : Nat → Word × Flags) : List LaneResult :=
  (lanesOf p.active).map (fun l => valuePart d.toNat l (f l).1 (f l).2)

end Sys2Proof.Machine
end

