-- ==== Sys2Proof/Certificates/Slice0/Obligations.lean ====
section
/-! DEFINITION. The statements for the provers: what each instruction does from every state that meets its conditions, what it
leaves alone, what taking a trap saves, that decoding and encoding agree, and that every step keeps memory's form. -/

open Sys2Proof Sys2Proof.Machine

/-! ## Decoding and stepping -/

/-- Every well-formed instruction is read back from its words (R54 to R70). -/
def Obligations.DecodeEncode : Prop :=
  ∀ (i : Instr) (rest : List Byte), i.wf = true → decode (encodeBytes i ++ rest) = .ok (i, rest)

/-- Words written out from the encoding tables decode to the instructions they stand for: ADD v1, v2, v3; ADD with a literal;
LDG.b64; SLI; BRA; FENCE.sc.dev; MFSR; TAGBIND.v; FORK; and an unassigned slot and a nonzero reserved field are refused. -/
def Obligations.DecodeWords : Prop :=
  decodeWord 0b0_0_000001_000_0000001_0000010_0000011 0 = .ok (.iadd false .wrap 1 (.reg 2) (.reg 3)) ∧
  decodeWord 0b0_1_000001_001_0000001_0000010_1111111 0xDEADBEEF = .ok (.iadd true .sat 1 (.reg 2) (.lit 0xDEADBEEF)) ∧
  decodeWord 0b0_0_110010_101_10_00011_0000100_0000101 0 = .ok (.ldg false .b64 .dev 3 4 (.reg 5)) ∧
  decodeWord 0b1_0_000011_00111_1111111111111111111 0 = .ok (.sli false 7 0x7FFFF) ∧
  decodeWord 0b1_0_000110_010_000000000000000000101 0 = .ok (.bra false 2 5) ∧
  decodeWord 0b1_0_010101_011_10_0000000000000000000 0 = .ok (.fence false .sc .dev) ∧
  decodeWord 0b1_0_011011_1100000_00000101_000000000 0 = .ok (.mfsr false 96 5) ∧
  decodeWord 0b1_0_101100_010_1100001_1100010_0000000 0 = .ok (.tagbind false .v 97 (.reg 98)) ∧
  decodeWord 0b1_0_110111_001_000000000000000000111 0 = .ok (.fork false 1 7) ∧
  decodeWord 0b0_0_000101_001_0000001_0000010_0000011 0 = .error .illegalOp ∧
  decodeWord 0b0_0_010000_000_0000001_0000010_0000001 0 = .error (.illegalOperand false)

/-- The turn of a split whose word is fetched with nothing before it: its scheduler issues no other split before it, for each is suspended (R318);
it may issue and is not in EBB, no ECHO and no debug stop waits, its
masks are sound, no comparator matches, no page of its fetch is awaited; the fetch of R64 finds the word `w`, and the literal word `lit` where
`w` has one (0 where it has none), and leaves `s1`. -/
structure FetchesWord (s : State) (gid sp : Nat) (g : Group) (p : Split) (w lit : Word) (s1 : State) : Prop where
  found : s.split? gid sp = some (g, p)
  can : canIssue s g p = true
  awake : p.st ≠ .ebb
  noEcho : p.echoTrap = none
  masks : maskOk g p = true
  noStop : (((p.stopReq && !g.mode) || p.stepEnd) && !p.stepOne) = false
  turn : (aheadOf s gid sp).all (stalls exec s) = true
  noBreak : p.stepOne = true ∨ comparator s g p = none
  noWait : (fetchFaulted p && p.faddr.any (fun x => faultPending s (s.party g).asid x.2)) = false
  fetched : ∃ s0, fetchWord s (s.party g) p.pc = (s0, .ok w) ∧
    if wordHasLiteral w then fetchWord s0 (s.party g) (p.pc + 4) = (s1, .ok lit) else s1 = s0 ∧ lit = 0

/-- The state in which a fetched instruction runs: its split is the issuer, and begins it or goes on with it (R293). -/
def Issues (s1 : State) (gid sp : Nat) (g : Group) (p : Split) : State :=
  ({ s1 with cur := some (gid, sp) }).mapSplit gid sp (begun g p)

/-- A step runs what comes next: an event of the table; or, at the turn of a split whose words decode to a well-formed instruction,
that instruction, with that split as the issuer; a word of no assigned slot raises ILLEGAL_OP as `illegalOp` gives (R65), and a word
with a reserved field value raises ILLEGAL_OPERAND at once, PRIVILEGE where a user's word has a supervisor's major (R64, R66).
Log entries 1 and 13 give the model's readings. -/
def Obligations.StepRuns : Prop :=
  (∀ (s : State) (i : Instr) (r : List Action), s.agenda = .event i :: r → step s = exec i { s with agenda := r }) ∧
  ∀ (s : State) (gid sp : Nat) (r : List Action) (g : Group) (p : Split) (w lit : Word) (s1 : State),
    s.agenda = .issue gid sp :: r → FetchesWord { s with agenda := r } gid sp g p w lit s1 →
    (∀ i, decodeWord w lit = .ok i → step s = exec i (Issues s1 gid sp g p)) ∧
    (decodeWord w lit = .error .illegalOp → step s = exec (.illegalOp w) (Issues s1 gid sp g p)) ∧
    (∀ sup, decodeWord w lit = .error (.illegalOperand sup) → ∀ g1 p1, (Issues s1 gid sp g p).split? gid sp = some (g1, p1) →
      step s = .next (raiseAt (issued (Issues s1 gid sp g p) g1) gid sp p1.pc
        (.mk' (if sup && !g.mode then 0x03 else 0x02) p1.active 0) false))

/-! ## Lane integer instructions -/

/-- The word of a three-register lane instruction: `0 E oooooo fff ddddddd aaaaaaa bbbbbbb` (R55). -/
def laneWord (e : Bool) (op : BitVec 6) (fn : BitVec 3) (d a b : BitVec 7) : Word :=
  0#1 ++ BitVec.ofBool e ++ op ++ fn ++ d ++ a ++ b

/-- The source that a register field names: 127 is the literal word that follows (R21). -/
def namedSrc (r : BitVec 7) (lit : Word) : Src := if r = 127 then .lit lit else .reg r

/-- The words of R129: each slot of the table is its instruction, a unary form has b = 0, and no other slot is assigned. -/
def IntegerWords : Prop :=
  ∀ (e : Bool) (d a b : BitVec 7) (lit : Word) (fn : BitVec 3),
    let S := fun r => namedSrc r lit
    let is := fun (op : BitVec 6) (fn : BitVec 3) (i : Instr) => decodeWord (laneWord e op fn d a b) lit = .ok i
    let unary := fun (op : BitVec 6) (fn : BitVec 3) (i : Instr) =>
      decodeWord (laneWord e op fn d a 0) lit = .ok i ∧ (b ≠ 0 → decodeWord (laneWord e op fn d a b) lit = .error (.illegalOperand false))
    let no := fun (op : BitVec 6) => decodeWord (laneWord e op fn d a b) lit = .error .illegalOp
    is 0x01 0 (.iadd e .wrap d (S a) (S b)) ∧ is 0x01 1 (.iadd e .sat d (S a) (S b)) ∧ is 0x01 2 (.iadd e .usat d (S a) (S b)) ∧
    is 0x02 0 (.isub e .wrap d (S a) (S b)) ∧ is 0x02 1 (.isub e .sat d (S a) (S b)) ∧ is 0x02 2 (.isub e .usat d (S a) (S b)) ∧
    is 0x04 0 (.imul e d (S a) (S b)) ∧ is 0x04 1 (.imulh e false d (S a) (S b)) ∧ is 0x04 2 (.imulh e true d (S a) (S b)) ∧
    is 0x05 0 (.imad e d (S a) (S b)) ∧
    is 0x06 0 (.imin e false d (S a) (S b)) ∧ is 0x06 1 (.imin e true d (S a) (S b)) ∧
    is 0x06 2 (.imax e false d (S a) (S b)) ∧ is 0x06 3 (.imax e true d (S a) (S b)) ∧
    unary 0x07 0 (.iabs e false d (S a)) ∧ unary 0x07 1 (.iabs e true d (S a)) ∧
    unary 0x08 0 (.ineg e false d (S a)) ∧ unary 0x08 1 (.ineg e true d (S a)) ∧
    (2 < fn.toNat → no 0x01 ∧ no 0x02 ∧ no 0x04) ∧ (0 < fn.toNat → no 0x05) ∧ (3 < fn.toNat → no 0x06) ∧ (1 < fn.toNat → no 0x07 ∧ no 0x08)

/-- Add, subtract, multiply, minimum, maximum, absolute value and negation, in every slot, and the words of those slots (R129). -/
def Obligations.LaneIntegerArithmetic : Prop :=
  IntegerWords ∧
  ∀ (s : State) (g : Group) (p : Split) (e : Bool) (d : RegNum) (a b : Src), Ready s g p → laneDstOk g d = true →
    srcOk g a = true → srcOk g b = true →
    let x := fun l => srcVal g a l
    let y := fun l => srcVal g b l
    let sat := fun v : Int => BitVec.ofInt 32 (max (-2 ^ 31) (min (2 ^ 31 - 1) v))
    let abs := fun v : Int => if v < 0 then -v else v
    WritesLanes (.iadd e .wrap d a b) e d (fun l => x l + y l) s g p ∧
    WritesLanes (.iadd e .sat d a b) e d (fun l => sat ((x l).toInt + (y l).toInt)) s g p ∧
    WritesLanes (.iadd e .usat d a b) e d (fun l => BitVec.ofNat 32 (min ((x l).toNat + (y l).toNat) (2 ^ 32 - 1))) s g p ∧
    WritesLanes (.isub e .wrap d a b) e d (fun l => x l - y l) s g p ∧
    WritesLanes (.isub e .sat d a b) e d (fun l => sat ((x l).toInt - (y l).toInt)) s g p ∧
    WritesLanes (.isub e .usat d a b) e d (fun l => if (x l).toNat < (y l).toNat then 0 else x l - y l) s g p ∧
    WritesLanes (.imul e d a b) e d (fun l => x l * y l) s g p ∧
    WritesLanes (.imulh e false d a b) e d (fun l => BitVec.ofInt 32 ((x l).toInt * (y l).toInt / 2 ^ 32)) s g p ∧
    WritesLanes (.imulh e true d a b) e d (fun l => BitVec.ofNat 32 ((x l).toNat * (y l).toNat / 2 ^ 32)) s g p ∧
    WritesLanes (.imad e d a b) e d (fun l => x l * y l + readReg g d.toNat l) s g p ∧
    WritesLanes (.imin e false d a b) e d (fun l => if (x l).toInt ≤ (y l).toInt then x l else y l) s g p ∧
    WritesLanes (.imin e true d a b) e d (fun l => if (x l).toNat ≤ (y l).toNat then x l else y l) s g p ∧
    WritesLanes (.imax e false d a b) e d (fun l => if (y l).toInt ≤ (x l).toInt then x l else y l) s g p ∧
    WritesLanes (.imax e true d a b) e d (fun l => if (y l).toNat ≤ (x l).toNat then x l else y l) s g p ∧
    WritesLanes (.iabs e false d a) e d (fun l => if (x l).toInt < 0 then -x l else x l) s g p ∧
    WritesLanes (.iabs e true d a) e d (fun l => sat (abs (x l).toInt)) s g p ∧
    WritesLanes (.ineg e false d a) e d (fun l => -x l) s g p ∧
    WritesLanes (.ineg e true d a) e d (fun l => sat (-(x l).toInt)) s g p

/-- The words of R131: each slot of the table is its instruction, and no other slot of these majors is assigned. -/
def LogicWords : Prop :=
  ∀ (e : Bool) (d a b : BitVec 7) (lit : Word) (fn : BitVec 3),
    let S := fun r => namedSrc r lit
    let is := fun (op : BitVec 6) (fn : BitVec 3) (i : Instr) => decodeWord (laneWord e op fn d a b) lit = .ok i
    let no := fun (op : BitVec 6) => decodeWord (laneWord e op fn d a b) lit = .error .illegalOp
    is 0x09 0 (.and e d (S a) (S b)) ∧ is 0x09 1 (.andn e d (S a) (S b)) ∧ is 0x0A 0 (.or e d (S a) (S b)) ∧ is 0x0B 0 (.xor e d (S a) (S b)) ∧
    is 0x0C 0 (.shl e d (S a) (S b)) ∧ is 0x0C 1 (.shr e d (S a) (S b)) ∧ is 0x0D 0 (.sar e d (S a) (S b)) ∧
    is 0x0E 0 (.rotl e d (S a) (S b)) ∧
    (1 < fn.toNat → no 0x09 ∧ no 0x0C) ∧ (0 < fn.toNat → no 0x0A ∧ no 0x0B ∧ no 0x0D ∧ no 0x0E)

/-- Logic and shifts: the shift amount is the whole of the second source, but ROTL's is taken modulo 32; a rotation to the right by n is
one to the left by 32 - n; and the words of the slots (R131). -/
def Obligations.LaneLogicShifts : Prop :=
  LogicWords ∧ (∀ (x : Word) (n : Nat), n ≤ 32 → x.rotateRight n = x.rotateLeft (32 - n)) ∧
  ∀ (s : State) (g : Group) (p : Split) (e : Bool) (d : RegNum) (a b : Src), Ready s g p → laneDstOk g d = true →
    srcOk g a = true → srcOk g b = true →
    let x := fun l => srcVal g a l
    let y := fun l => srcVal g b l
    let n := fun l => (srcVal g b l).toNat
    WritesLanes (.and e d a b) e d (fun l => x l &&& y l) s g p ∧
    WritesLanes (.andn e d a b) e d (fun l => x l &&& ~~~ y l) s g p ∧
    WritesLanes (.or e d a b) e d (fun l => x l ||| y l) s g p ∧
    WritesLanes (.xor e d a b) e d (fun l => x l ^^^ y l) s g p ∧
    WritesLanes (.shl e d a b) e d (fun l => if n l < 32 then x l <<< n l else 0) s g p ∧
    WritesLanes (.shr e d a b) e d (fun l => if n l < 32 then x l >>> n l else 0) s g p ∧
    WritesLanes (.sar e d a b) e d
      (fun l => if n l < 32 then (x l).sshiftRight (n l) else if (x l).getLsbD 31 = true then 0xFFFFFFFF else 0) s g p ∧
    WritesLanes (.rotl e d a b) e d (fun l => (x l).rotateLeft (n l % 32)) s g p

/-- Bit fields, bytes, scaled sums and copies (R132 to R136): the result bit by bit where the manual gives it so. -/
def Obligations.LaneFieldsBytes : Prop :=
  ∀ (s : State) (g : Group) (p : Split) (e : Bool) (d : RegNum) (a b : Src) (k : BitVec 3) (n : BitVec 17), Ready s g p →
    laneDstOk g d = true → srcOk g a = true → srcOk g b = true →
    let x := fun l => srcVal g a l
    let y := fun l => srcVal g b l
    let pos := fun l => (y l).toNat % 32
    let len := fun l => min ((y l).toNat / 256 % 64) (32 - pos l)
    let mask := fun l => BitVec.ofNat 32 ((2 ^ len l - 1) * 2 ^ pos l)
    (∃ v : Nat → Word, WritesLanes (.bfx e false d a b) e d v s g p ∧
      ∀ l i, i < 32 → (v l).getLsbD i = (decide (i < len l) && (x l).getLsbD (pos l + i))) ∧
    (∃ v : Nat → Word, WritesLanes (.bfx e true d a b) e d v s g p ∧
      ∀ l i, i < 32 → (v l).getLsbD i =
        if len l = 0 then false else if i < len l then (x l).getLsbD (pos l + i) else (x l).getLsbD (pos l + len l - 1)) ∧
    WritesLanes (.bfi e d a b) e d (fun l => (readReg g d.toNat l &&& ~~~ mask l) ||| ((x l <<< pos l) &&& mask l)) s g p ∧
    WritesLanes (.popc e d a) e d (fun l => BitVec.ofNat 32 ((List.range 32).countP (fun i => (x l).getLsbD i))) s g p ∧
    (∃ v : Nat → Word, WritesLanes (.clz e d a) e d v s g p ∧
      ∀ l, (v l).toNat ≤ 32 ∧ ((v l).toNat < 32 → (x l).getLsbD (31 - (v l).toNat) = true) ∧
        ∀ i, i < 32 → 32 - (v l).toNat ≤ i → (x l).getLsbD i = false) ∧
    (∃ v : Nat → Word, WritesLanes (.brev e d a) e d v s g p ∧ ∀ l i, i < 32 → (v l).getLsbD i = (x l).getLsbD (31 - i)) ∧
    (∃ v : Nat → Word, WritesLanes (.prmt e d a b) e d v s g p ∧
      ∀ l j, j < 4 →
        let ctl := (readReg g d.toNat l).toNat / 2 ^ (8 * j) % 256
        let c := (if ctl % 8 < 4 then x l else y l).toNat / 2 ^ (8 * (ctl % 4)) % 256
        (v l).toNat / 2 ^ (8 * j) % 256 =
          if ctl / 8 % 4 = 0 then c else if ctl / 8 % 4 = 1 then 0 else if ctl / 8 % 4 = 2 then (if 128 ≤ c then 255 else 0)
          else (reverseBits (BitVec.ofNat 8 c)).toNat) ∧
    WritesLanes (.lea e k d a b) e d (fun l => x l + y l * BitVec.ofNat 32 (2 ^ k.toNat)) s g p ∧
    WritesLanes (.mov e false d a) e d x s g p ∧
    WritesLanes (.movi e d n) e d (fun _ => n.signExtend 32) s g p

/-- IADDC takes its carry from the predicate and leaves the carry-out there, read before it is written and discarded where the
predicate is p7 (R130); MOV.b64 copies a pair, and writes nothing where d is `zero` (R136). -/
def Obligations.CarryAndPairs : Prop :=
  ∀ (s : State) (g : Group) (p : Split) (e : Bool) (d : RegNum) (a b : Src) (k : PredNum), Ready s g p →
    (laneDstOk g d = true → srcOk g a = true → srcOk g b = true →
      let sum := fun l => (srcVal g a l).toNat + (srcVal g b l).toNat + (laneIn (readPred g k.toNat) l).toNat
      ∃ g1, Retires (.iaddc e k d a b) s g g1 p (nextSplit (.iaddc e k d a b) e s g p) (GroupsOnly s) ∧
        g1 = { g with v := g1.v, p := g1.p } ∧
        (∀ r l, l < 32 → readReg g1 r l =
          if r = d.toNat ∧ d.toNat < 96 ∧ laneIn p.active l = true then BitVec.ofNat 32 (sum l) else readReg g r l) ∧
        ∀ r l, l < 32 → laneIn (readPred g1 r) l =
          if r = k.toNat ∧ k.toNat < 7 ∧ laneIn p.active l = true then decide (2 ^ 32 ≤ sum l) else laneIn (readPred g r) l) ∧
    (laneDst64Ok g d = true → src64Ok g a = true →
      ∃ g1, Retires (.mov e true d a) s g g1 p (nextSplit (.mov e true d a) e s g p) (GroupsOnly s) ∧ g1 = { g with v := g1.v } ∧
        ∀ r l, l < 32 → readReg g1 r l =
          if d.toNat < 96 ∧ laneIn p.active l = true ∧ r = d.toNat then (srcVal64 g a l).setWidth 32
          else if d.toNat < 96 ∧ laneIn p.active l = true ∧ r = d.toNat + 1 then ((srcVal64 g a l) >>> 32).setWidth 32
          else readReg g r l)

/-- Comparisons, selects and moves between predicates and registers (R126, R137 to R140). A predicate field of PMOV above 7 is
illegal, as the last clause says. -/
def Obligations.PredicatesSelects : Prop :=
  ∀ (s : State) (g : Group) (p : Split) (e : Bool) (d : RegNum) (a b : Src) (k m n : PredNum), Ready s g p →
    srcOk g a = true → srcOk g b = true →
    let x := fun l => srcVal g a l
    let y := fun l => srcVal g b l
    let pb := fun (k : PredNum) l => laneIn (readPred g k.toNat) l
    WritesPred (.icmp e .eq k a b) e k (fun l => decide (x l = y l)) s g p ∧
    WritesPred (.icmp e .ne k a b) e k (fun l => decide (x l ≠ y l)) s g p ∧
    WritesPred (.icmp e .lt k a b) e k (fun l => decide ((x l).toInt < (y l).toInt)) s g p ∧
    WritesPred (.icmp e .le k a b) e k (fun l => decide ((x l).toInt ≤ (y l).toInt)) s g p ∧
    WritesPred (.icmp e .gt k a b) e k (fun l => decide ((y l).toInt < (x l).toInt)) s g p ∧
    WritesPred (.icmp e .ge k a b) e k (fun l => decide ((y l).toInt ≤ (x l).toInt)) s g p ∧
    WritesPred (.icmp e .ltu k a b) e k (fun l => decide ((x l).toNat < (y l).toNat)) s g p ∧
    WritesPred (.icmp e .leu k a b) e k (fun l => decide ((x l).toNat ≤ (y l).toNat)) s g p ∧
    (laneDstOk g d = true → WritesLanes (.isel e k d a b) e d (fun l => if pb k l = true then x l else y l) s g p) ∧
    WritesPred (.pset e .and k m n) e k (fun l => pb m l && pb n l) s g p ∧
    WritesPred (.pset e .or k m n) e k (fun l => pb m l || pb n l) s g p ∧
    WritesPred (.pset e .xor k m n) e k (fun l => pb m l != pb n l) s g p ∧
    WritesPred (.pset e .andn k m n) e k (fun l => pb m l && !pb n l) s g p ∧
    WritesPred (.pset e .orn k m n) e k (fun l => pb m l || !pb n l) s g p ∧
    WritesPred (.pset e .nand k m n) e k (fun l => !(pb m l && pb n l)) s g p ∧
    WritesPred (.pset e .nor k m n) e k (fun l => !(pb m l || pb n l)) s g p ∧
    WritesPred (.pset e .xnor k m n) e k (fun l => pb m l == pb n l) s g p ∧
    (laneDstOk g d = true →
      WritesLanes (.pmov e .pv d (.reg (predField m))) e d (fun l => if pb m l = true then 1 else 0) s g p ∧
      WritesLanes (.pmov e .pw d (.reg (predField m))) e d (fun _ => readPred g m.toNat) s g p) ∧
    WritesPred (.pmov e .vp (predField k) a) e k (fun l => decide (x l ≠ 0)) s g p ∧
    WritesPred (.pmov e .wp (predField k) a) e k (fun l => (x l).getLsbD l) s g p ∧
    ∀ r : RegNum, 8 ≤ r.toNat →
      Traps (.pmov e .pv d (.reg r)) s g p (.mk' 0x02 p.active 0) ∧ Traps (.pmov e .pw d (.reg r)) s g p (.mk' 0x02 p.active 0) ∧
      Traps (.pmov e .vp r a) s g p (.mk' 0x02 p.active 0) ∧ Traps (.pmov e .wp r a) s g p (.mk' 0x02 p.active 0)

/-- LEA and ISEL (R135, R138): the scaled sum, which wraps, and the selection of a word by a predicate, of the first by p7; every slot of both
is assigned. -/
def Obligations.ScaledSumSelect : Prop :=
  (∀ (e : Bool) (k : BitVec 3) (d a b : BitVec 7) (lit : Word),
    decodeWord (laneWord e 0x14 k d a b) lit = .ok (.lea e k d (namedSrc a lit) (namedSrc b lit)) ∧
    decodeWord (laneWord e 0x18 k d a b) lit = .ok (.isel e k d (namedSrc a lit) (namedSrc b lit))) ∧
  ∀ (s : State) (g : Group) (p : Split) (e : Bool) (k : BitVec 3) (d : RegNum) (a b : Src), Ready s g p → laneDstOk g d = true →
    srcOk g a = true → srcOk g b = true →
    WritesLanes (.lea e k d a b) e d (fun l => srcVal g a l + BitVec.ofNat 32 ((srcVal g b l).toNat * 2 ^ k.toNat)) s g p ∧
    WritesLanes (.isel e k d a b) e d (fun l => if laneIn (readPred g k.toNat) l = true then srcVal g a l else srcVal g b l) s g p ∧
    WritesLanes (.isel e 7 d a b) e d (fun l => srcVal g a l) s g p

/-- Reading other lanes: each source lane as its register stands at the issue, whichever split holds it (R141 to R147). QSWP, QBC and
VOTE write at once; the others leave their result outstanding (R128), its words fixed at the issue. A predicate field of VOTE above 7 is
illegal. -/
def Obligations.LaneExchange : Prop :=
  ∀ (s : State) (g : Group) (p : Split) (e : Bool) (d : RegNum) (a b : Src) (k m : PredNum) (q : BitVec 2), Ready s g p →
    laneDstOk g d = true → srcOk g a = true → srcOk g b = true →
    let x := fun l => srcVal g a l
    let n := fun l => (srcVal g b l).toNat
    let act := lanesOf p.active
    let out := fun (i : Instr) (f : Nat → Word) => LeavesOutstanding i e 0 (regRange d.toNat 1) (laneParts d p (fun l => (f l, 0))) s g p
    let same := fun l => act.filter (fun j => x j == x l)
    WritesLanes (.qswp e .h d a) e d (fun l => x (l ^^^ 1)) s g p ∧
    WritesLanes (.qswp e .v d a) e d (fun l => x (l ^^^ 2)) s g p ∧
    WritesLanes (.qswp e .d d a) e d (fun l => x (l ^^^ 3)) s g p ∧
    WritesLanes (.qbc e q d a) e d (fun l => x (4 * (l / 4) + q.toNat)) s g p ∧
    out (.shfl e .idx d a b) (fun l => x (n l % 32)) ∧
    out (.shfl e .up d a b) (fun l => if l < n l then 0 else x (l - n l)) ∧
    out (.shfl e .down d a b) (fun l => if 31 < l + n l then 0 else x (l + n l)) ∧
    out (.shfl e .xor d a b) (fun l => x (l ^^^ (n l % 32))) ∧
    WritesPred (.vote e .all (predField k) m) e k (fun _ => act.all (fun j => laneIn (readPred g m.toNat) j)) s g p ∧
    WritesPred (.vote e .any (predField k) m) e k (fun _ => act.any (fun j => laneIn (readPred g m.toNat) j)) s g p ∧
    WritesPred (.vote e .same (predField k) m) e k
      (fun _ => act.all (fun j => laneIn (readPred g m.toNat) j) || act.all (fun j => !laneIn (readPred g m.toNat) j)) s g p ∧
    WritesLanes (.vote e .mask d m) e d (fun _ => readPred g m.toNat &&& p.active) s g p ∧
    WritesLanes (.vote e .count d m) e d
      (fun _ => BitVec.ofNat 32 (act.filter (fun j => decide (j < 32) && laneIn (readPred g m.toNat) j)).length) s g p ∧
    WritesLanes (.vote e .rank d m) e d
      (fun l => BitVec.ofNat 32 (act.filter (fun j => decide (j < l) && laneIn (readPred g m.toNat) j)).length) s g p ∧
    out (.first e d a) (fun _ => x (lowest p.active)) ∧
    out (.match e .mask d a) (fun l => maskOf (same l)) ∧
    out (.match e .lead d a) (fun l => BitVec.ofNat 32 ((same l).headD 0)) ∧
    out (.match e .count d a) (fun l => BitVec.ofNat 32 (same l).length) ∧
    out (.match e .all d a) (fun l => if (same l).length = act.length then 1 else 0) ∧
    out (.reda e false d a) (fun _ => act.foldl (fun t j => t + x j) 0) ∧
    LeavesOutstanding (.reda e true d a) e 0 (regRange d.toNat 1) (laneParts d p (fun _ => redaFloat g p a)) s g p ∧
    (∀ o : RedmOp, LeavesOutstanding (.redm e o d a) e 0 (regRange d.toNat 1) (laneParts d p (fun _ => redmValue o (act.map x))) s g p) ∧
    ∀ r : RegNum, 8 ≤ r.toNat → ∀ o : VoteOp, o = .all ∨ o = .any ∨ o = .same → Traps (.vote e o r m) s g p (.mk' 0x02 p.active 0)

/-! ## Lane floating-point and conversion instructions -/

/-- A floating-point instruction, on legal operands: where no lane raises a flag that FCSR enables it writes and ORs its flags into
FFLAGS; where one does it writes nothing and raises FP with the raising lanes and the union of the enabled flags (R149). -/
def FloatResult (i : Instr) (e : Bool) (d : RegNum) (f : Nat → Word × Flags) (s : State) (g : Group) (p : Split) : Prop :=
  (enabledUnion g p.active (fun l => (f l).2) = 0 → WritesFloat i e d f s g p) ∧
  (enabledUnion g p.active (fun l => (f l).2) ≠ 0 →
    Traps i s g p ⟨0x10, raisingLanes g p.active (fun l => (f l).2), 0, enabledUnion g p.active (fun l => (f l).2)⟩)

/-- FP32 arithmetic: one rounding, by the slot or by FMT.RM, of the exact sum, product, or product and sum; d is read before it is written
(R148, R152). -/
def Obligations.FloatArithmetic : Prop :=
  ∀ (s : State) (g : Group) (p : Split) (e : Bool) (r : FRnd) (d : RegNum) (a b : Src), Ready s g p → laneDstOk g d = true →
    srcOk g a = true → srcOk g b = true →
    let x := fun l => srcF g a l
    let y := fun l => srcF g b l
    let z := fun l => fp32 (readReg g d.toNat l)
    let rm := slotRm r p
    FloatResult (.fadd e r d a b) e d (roundLanes32 rm p.active (fun l => sumExt rm [x l, y l])) s g p ∧
    FloatResult (.fsub e r d a b) e d (roundLanes32 rm p.active (fun l => sumExt rm [x l, (y l).negate])) s g p ∧
    FloatResult (.fmul e r d a b) e d (roundLanes32 rm p.active (fun l => mulExt (x l) (y l))) s g p ∧
    FloatResult (.ffma e r d a b) e d (roundLanes32 rm p.active (fun l => sumExt rm [mulExt (x l) (y l), z l])) s g p

/-- Minimum, maximum, comparison and class (R153 to R155): a NaN operand gives the other operand, or the canonical NaN in the .nan slot;
a signalling NaN raises IV; the ordered comparisons raise IV for any NaN. FCLASS raises no flag. -/
def Obligations.FloatCompare : Prop :=
  ∀ (s : State) (g : Group) (p : Split) (e m : Bool) (c : FCmpOp) (d : RegNum) (k : PredNum) (a b : Src), Ready s g p →
    laneDstOk g d = true → srcOk g a = true → srcOk g b = true →
    let x := fun l => srcVal g a l
    let y := fun l => srcVal g b l
    let sig := fun l => if fp32 (x l) = .nan true ∨ fp32 (y l) = .nan true then fIV else 0
    let low := fun (isMin : Bool) l =>
      ((if (fp32 (x l)).isNan && (fp32 (y l)).isNan then 0x7FC00000
        else if (fp32 (x l)).isNan then (if m then 0x7FC00000 else y l)
        else if (fp32 (y l)).isNan then (if m then 0x7FC00000 else x l)
        else if (if isMin then ltExt (fp32 (y l)) (fp32 (x l)) else ltExt (fp32 (x l)) (fp32 (y l))) then y l else x l), sig l)
    FloatResult (.fmin e m d a b) e d (low true) s g p ∧
    FloatResult (.fmax e m d a b) e d (low false) s g p ∧
    (enabledUnion g p.active (fun l => (fcmpTest c (fp32 (x l)) (fp32 (y l))).2) = 0 →
      WritesFloatPred (.fcmp e c k a b) e k (fun l => fcmpTest c (fp32 (x l)) (fp32 (y l))) s g p) ∧
    WritesLanes (.fclass e d a) e d (fun l => fclassWord (x l)) s g p

/-- Packed FP16 arithmetic and comparison, element by element, and the four-element dot products (R159 to R161). HCMP2 writes element 0
to an even predicate and element 1 to the next; an odd one is illegal. -/
def Obligations.FloatPacked : Prop :=
  ∀ (s : State) (g : Group) (p : Split) (e : Bool) (c : FCmpOp) (d : RegNum) (k : PredNum) (a b : Src), Ready s g p →
    laneDstOk g d = true → srcOk g a = true → srcOk g b = true →
    let h := fun (r : Src) j l => half (srcVal g r l) j
    let rm := fmtRm p
    let two := fun (v : Nat → Nat → Ext) l =>
      let r := fun j => roundLanes (fltFmt 2) rm false p.active (v j) l
      ((BitVec.ofNat 32 ((r 0).1 + 65536 * (r 1).1), (r 0).2 ||| (r 1).2) : Word × Flags)
    FloatResult (.hadd2 e d a b) e d (two (fun j l => sumExt rm [h a j l, h b j l])) s g p ∧
    FloatResult (.hmul2 e d a b) e d (two (fun j l => mulExt (h a j l) (h b j l))) s g p ∧
    FloatResult (.hfma2 e d a b) e d (two (fun j l => sumExt rm [mulExt (h a j l) (h b j l), half (readReg g d.toNat l) j])) s g p ∧
    (let cmp := fun l j => fcmpTest c (h a j l) (h b j l)
     let fl := fun l => (cmp l 0).2 ||| (cmp l 1).2
     (k.toNat % 2 = 0 → enabledUnion g p.active fl = 0 →
       ∃ g1, Retires (.hcmp2 e c k a b) s g g1 p (nextSplit (.hcmp2 e c k a b) e s g p) (GroupsOnly s) ∧
         g1 = { g with p := g1.p, fflags := g1.fflags } ∧
         (∀ r l, l < 32 → laneIn (readPred g1 r) l =
           if r = k.toNat ∧ r < 7 ∧ laneIn p.active l = true then (cmp l 0).1
           else if r = k.toNat + 1 ∧ r < 7 ∧ laneIn p.active l = true then (cmp l 1).1 else laneIn (readPred g r) l) ∧
         ∀ l, l < 32 → sget g1.fflags l = flagsAfter fl g p l) ∧
     (k.toNat % 2 = 1 → Traps (.hcmp2 e c k a b) s g p (.mk' 0x02 p.active 0))) ∧
    WritesLanes (.dot4 e .i8 d a b) e d (fun l => dot4Int true (readReg g d.toNat l) (srcVal g a l) (srcVal g b l)) s g p ∧
    WritesLanes (.dot4 e .u8 d a b) e d (fun l => dot4Int false (readReg g d.toNat l) (srcVal g a l) (srcVal g b l)) s g p ∧
    FloatResult (.dot4 e .e4m3 d a b) e d
      (roundLanes32 rm p.active (fun l => sumExt rm (dot4Terms 3 (readReg g d.toNat l) (srcVal g a l) (srcVal g b l)))) s g p ∧
    FloatResult (.dot4 e .e5m2 d a b) e d
      (roundLanes32 rm p.active (fun l => sumExt rm (dot4Terms 4 (readReg g d.toNat l) (srcVal g a l) (srcVal g b l)))) s g p

/-- Division and the functions of the F major (R150, R156 to R158): where FCSR enables no flag that the instruction can raise, the
result is outstanding, with the words and flags of R156 and R157, of which the bit of the register `zero` stands in OUTSTANDING too where
d is `zero` (the model's choice, log entry 62); where FCSR enables one the result is made at once, with one check of R149 (the model's choice,
log entry 28). Only FSQRT and FDIVS round by FMT.RM. -/
def Obligations.FloatFunctions : Prop :=
  ∀ (s : State) (g : Group) (p : Split) (e : Bool) (d : RegNum) (a b : Src), Ready s g p → laneDstOk g d = true →
    srcOk g a = true → srcOk g b = true →
    let either := fun (i : Instr) (can : Flags) (f : Nat → Word × Flags) =>
      (g.fcsr &&& can = 0 → LeavesOutstanding i e 0 (regRange d.toNat 1) (laneParts d p f) s g p) ∧
      (g.fcsr &&& can ≠ 0 → FloatResult i e d f s g p)
    let fn := fun (f : SpecialFn) (rm : RMode) => roundWith rm p.active (fun j => specialValue f (srcF g a j))
    either (.fdivs e d a b) (fIX ||| fUF ||| fOF ||| fDZ ||| fIV)
      (roundWith (fmtRm p) p.active (fun j => quotient (srcF g a j) (srcF g b j))) ∧
    either (.frcp e d a) (fIX ||| fUF ||| fOF ||| fDZ ||| fIV) (fn .rcp .rne) ∧
    either (.frsq e d a) (fIX ||| fIV) (fn .rsq .rne) ∧
    either (.fsqrt e d a) (fIX ||| fIV) (fn .sqrt (fmtRm p)) ∧
    either (.fex2 e d a) (fIX ||| fUF ||| fOF ||| fIV) (fn .ex2 .rne) ∧
    either (.flg2 e d a) (fIX ||| fDZ ||| fIV) (fn .lg2 .rne) ∧
    either (.fsin e d a) (fIX ||| fUF ||| fIV) (fn .sin .rne) ∧
    either (.fcos e d a) (fIX ||| fIV) (fn .cos .rne) ∧
    either (.ftanh e d a) (fIX ||| fUF ||| fIV) (fn .tanh .rne)

/-- Conversions (R162 to R169): each accepts its own format codes, and any other is illegal; CVTF and CVTDX here with FMT.OUTCAP = 0, under which
they capture nothing. DXEXP takes the block format from FMT.NARROW. -/
def ConversionResults : Prop :=
  ∀ (s : State) (g : Group) (p : Split) (e : Bool) (d : RegNum) (a : Src) (c : BitVec 4), Ready s g p → laneDstOk g d = true →
    srcOk g a = true →
    let x := fun l => srcVal g a l
    let bad := Cause.mk' 0x02 p.active 0
    (c.toNat ∈ [1, 2, 3, 4, 8, 9] → FloatResult (.cvti e d a c) e d (roundLanes32 (fmtRm p) p.active (fun l => narrowValue c.toNat (x l))) s g p) ∧
    (c.toNat ∉ [1, 2, 3, 4, 8, 9] → Traps (.cvti e d a c) s g p bad) ∧
    (c.toNat ∈ [0, 1, 2, 3, 4, 8, 9] → fmtOutcap p = false →
      FloatResult (.cvtf e d a c) e d (cvtfWord c.toNat (fmtRm p) (fmtSat p) p.active x) s g p) ∧
    (c.toNat ∉ [0, 1, 2, 3, 4, 8, 9] → Traps (.cvtf e d a c) s g p bad) ∧
    (c.toNat ∈ [5, 6, 7] → fmtOutcap p = false →
      FloatResult (.cvtdx e d a c) e d (dxLane (dxBlock (dxM c.toNat) false g p d a)) s g p) ∧
    (c.toNat ∉ [5, 6, 7] → Traps (.cvtdx e d a c) s g p bad) ∧
    (c.toNat ∈ [5, 6, 7] →
      FloatResult (.cvtxd e d a c) e d (roundLanes32 (fmtRm p) p.active (fun l => dxLaneValue (dxM c.toNat) (x l))) s g p) ∧
    (c.toNat ∉ [5, 6, 7] → Traps (.cvtxd e d a c) s g p bad) ∧
    (fmtNarrow p ∈ [5, 6, 7] →
      WritesLanes (.dxexp e d a) e d
        (fun _ => let h := dxChoose (dxM (fmtNarrow p)) (blockValues g p a); dxWord h.1 h.2 0) s g p) ∧
    (fmtNarrow p ∉ [5, 6, 7] → Traps (.dxexp e d a) s g p bad) ∧
    (c.toNat ∈ [1, 2, 3, 4] → FloatResult (.srnd e d a c) e d (srndWord c.toNat (fmtSat p) p.active (fun l => srcF g a l)) s g p) ∧
    (c.toNat ∉ [1, 2, 3, 4] → Traps (.srnd e d a c) s g p bad)

/-- A split with nothing older of its group left to perform. -/
def NothingOlder (g : Group) : Prop := g.pending = [] ∧ ∀ q ∈ g.splits, q.buffer = []

/-- Nothing holds an access back: no pin lies on its bytes, no engine owns their line, and no clean of the party's own copies of their sector must
wait (R173, R226, R273, R334). -/
def NothingHolds (s : State) (P : Party) (pa n : Nat) : Prop :=
  pinned s (.global pa 0 0 4096) n = false ∧ lineOwned s pa = false ∧ dirtyHeld s P (localOf s pa) = false

/-- `n` bytes whose newest value, for a party outside every view, is the one at their home: its key is loaded, their sectors have no error, and
no cache of its core or cluster holds them (R173, R371, R373, R399). -/
structure AtHome (s : State) (P : Party) (pa n key : Nat) : Prop where
  view : P.view = 0
  key : keyOf s P.tenancy = some key
  good : ∀ k, pa ≤ k → k < pa + n → sectorFails s k = false ∧ flitFails s k = false
  l1 : ∀ k, pa ≤ k → k < pa + n → ∀ x ∈ s.mm.l1, l1Own P (localOf s k) x = false
  l2 : ∀ k, pa ≤ k → k < pa + n → ∀ x ∈ s.mm.l2, l2Is P (localOf s k) x = false

/-- A run of appends in lane order, from `s` to `s'` (R119, R171): each element takes a slot from the list's header and its entry is stored
there, or finds the list full, as those of `full` did. -/
def Captures (P : Party) (gid i list : Nat) (idx val : Nat → Word) : List Nat → State → List Nat → State → Prop
  | [], s, full, s' => full = [] ∧ s' = s
  | l :: r, s, full, s' =>
    (∃ s1 s2 n, appendHeader P gid i list s = (s1, .slot n) ∧
      appendEntry P gid i list n (leBytes (idx l).toNat 4 ++ leBytes (val l).toNat 4) s1 = (s2, .stored) ∧
      Captures P gid i list idx val r s2 full s') ∨
    ∃ s1 f, appendHeader P gid i list s = (s1, .full) ∧ full = l :: f ∧ Captures P gid i list idx val r s1 f s'

/-- What one append does to a list in committed memory (R119): while COUNT is less than CAPACITY the header's COUNT becomes one more and the
element has the old COUNT for its slot; else STATUS gets bit 0, and the list is full. The entry's 8 bytes are stored at the list's address + 16 + 8 × slot.
Either changes no other byte of DRAM. -/
def AppendsElement : Prop :=
  ∀ (s s1 : State) (P : Party) (gid i list key : Nat) (g : Group) (p : Split) (h : Leaf), s1.split? gid i = some (g, p) → NothingOlder g →
    h.attr ≠ 2 →
    let word := fun k => leNat ((List.range 4).map (fun j => dramByte s1 key (h.pa + k + j)))
    let changes := fun (t : State) (at_ : Nat) (bs : List Byte) =>
      ∀ k, dramByte t key k = if at_ ≤ k ∧ k < at_ + bs.length then bs.getD (k - at_) 0 else dramByte s1 key k
    (checkOne s P .store true true 16 list = (s1, .ok h) → AtHome s1 P h.pa 16 key → NothingHolds s1 (s1.party g) h.pa 16 →
      (word 4 < word 0 → ∃ t, appendHeader P gid i list s = (t, .slot (word 4)) ∧ changes t (h.pa + 4) (leBytes (word 4 + 1) 4)) ∧
      (word 0 ≤ word 4 → ∃ t, appendHeader P gid i list s = (t, .full) ∧ changes t (h.pa + 8) (leBytes (word 8 ||| 1) 4))) ∧
    ∀ (n : Nat) (bs : List Byte), bs.length = 8 → checkOne s P .store true true 8 (list + 16 + 8 * n) = (s1, .ok h) → AtHome s1 P h.pa 8 key →
      NothingHolds s1 (s1.party g) h.pa 8 → ∃ t, appendEntry P gid i list n bs s = (t, .stored) ∧ changes t h.pa bs

/-- CVTF and CVTDX with FMT.OUTCAP = 1 (R119, R164, R168, R170, R171): the list is at the address in x30, the base index in register 123. Where a lane
that is not captured raises an enabled flag, FP is raised and nothing is appended; else each captured element is appended, with the base plus its lane as
index and its FP32 input as value: its result is 0 with no flag, or, where the list is full, the saturated one with OF and IX. Under FMT.SAT CVTF
captures nothing. -/
def CapturedConversions : Prop :=
  ∀ (s : State) (g : Group) (p : Split) (e : Bool) (d : RegNum) (a : Src) (c : BitVec 4), Ready s g p → laneDstOk g d = true →
    srcOk g a = true → fmtOutcap p = true → p.st ≠ .fault → p.appends = none →
    let x := fun l => srcVal g a l
    let appends := Captures (s.party g) g.gid p.idx (readReg g 125 0 ++ readReg g 124 0).toNat (fun l => readReg g 123 0 + BitVec.ofNat 32 l) x
    let captures := fun (i : Instr) (out : LaneMask) (res lost : Nat → Word × Flags) =>
      let fl := fun l => if laneIn out l = true then 0 else (res l).2
      (enabledUnion g p.active fl ≠ 0 → Traps i s g p ⟨0x10, raisingLanes g p.active fl, 0, enabledUnion g p.active fl⟩) ∧
      (enabledUnion g p.active fl = 0 → ∀ (full : List Nat) (s1 : State) (g1 : Group) (p1 : Split),
        appends (lanesOf (out &&& p.active)) s full s1 → Ready s1 g1 p1 → g1.gid = g.gid → p1.idx = p.idx →
        ∃ t g2 sp, exec i s = .next t ∧ t.split? g.gid p.idx = some ({ g2 with splits := sp }, nextSplit i e s1 g1 p1) ∧ GroupsOnly s1 t ∧
          (∀ j, j ≠ p.idx → ({ g2 with splits := sp } : Group).split? j = g1.split? j) ∧ (∀ j, j ≠ g.gid → t.group? j = s1.group? j) ∧
          g2 = { g1 with v := g2.v, fflags := g2.fflags } ∧
          (∀ r l, l < 32 → readReg g2 r l = if r = d.toNat ∧ d.toNat < 96 ∧ laneIn p.active l = true then
            (if l ∈ full then (lost l).1 else (res l).1) else readReg g1 r l) ∧
          ∀ l, l < 32 → sget g2.fflags l =
            if laneIn p.active l = true then sget g1.fflags l ||| (if l ∈ full then fOF ||| fIX else fl l) else sget g1.fflags l)
    (c.toNat ∈ [0, 1, 2, 3, 4, 8, 9] →
      let res := cvtfWord c.toNat (fmtRm p) (fmtSat p) p.active x
      let out := if fmtSat p = true then 0 else testMask (fun l => laneIn p.active l && cvtfCaptured c.toNat (x l) (res l))
      captures (.cvtf e d a c) out (fun l => if laneIn out l = true then (0, 0) else res l) res) ∧
    (c.toNat ∈ [5, 6, 7] →
      let b := dxBlock (dxM c.toNat) true g p d a
      captures (.cvtdx e d a c) (testMask (fun l => laneIn p.active l && (b.2.2.getD l ⟨0, 0, false⟩).out)) (dxLane b)
        (dxLane (dxBlock (dxM c.toNat) false g p d a)))

/-- Conversions, with and without the capture of outliers, as the three statements above say (R119, R162 to R171).
Log entries 28, 29, 79 and 80 give the model's readings. -/
def Obligations.FloatConversions : Prop := ConversionResults ∧ AppendsElement ∧ CapturedConversions

/-- A lane instruction whose destination names a uniform register, lit or a vector register that does not exist, or whose source names a
register that does not exist, executes nothing and raises ILLEGAL_OPERAND (R19, R24, R62, R125); MOV.b64 asks for pairs (R136). Of PMOV and VOTE
the operand that is a register is held to the same, and the one that is a predicate to its number (R140, R144). -/
def LaneIllegalOperands : Prop :=
  ∀ (s : State) (g : Group) (p : Split) (e m : Bool) (sm : SatMode) (k : PredNum) (r : FRnd) (so : ShflOp) (mo : MatchOp) (ro : RedmOp)
    (qo : QswpOp) (q : BitVec 2) (c : CmpOp) (fc : FCmpOp) (o : Dot4Op) (code : BitVec 4) (n : BitVec 17) (d : RegNum) (a b : Src), Ready s g p →
    let bad := fun (i : Instr) => Traps i s g p (.mk' 0x02 p.active 0)
    ((laneDstOk g d && srcOk g a && srcOk g b) = false →
      ∀ i ∈ [Instr.iadd e sm d a b, .isub e sm d a b, .iaddc e k d a b, .imul e d a b, .imulh e m d a b, .imad e d a b, .imin e m d a b,
        .imax e m d a b, .and e d a b, .andn e d a b, .or e d a b, .xor e d a b, .shl e d a b, .shr e d a b, .sar e d a b, .rotl e d a b,
        .bfx e m d a b, .bfi e d a b, .prmt e d a b, .lea e k d a b, .isel e k d a b, .shfl e so d a b, .fadd e r d a b, .fsub e r d a b,
        .fmul e r d a b, .ffma e r d a b, .fmin e m d a b, .fmax e m d a b, .fdivs e d a b, .hadd2 e d a b, .hmul2 e d a b, .hfma2 e d a b,
        .dot4 e o d a b], bad i) ∧
    ((laneDstOk g d && srcOk g a) = false →
      ∀ i ∈ [Instr.iabs e m d a, .ineg e m d a, .popc e d a, .clz e d a, .brev e d a, .mov e false d a, .qswp e qo d a, .qbc e q d a,
        .first e d a, .match e mo d a, .reda e m d a, .redm e ro d a, .fclass e d a, .frcp e d a, .frsq e d a, .fsqrt e d a, .fex2 e d a,
        .flg2 e d a, .fsin e d a, .fcos e d a, .ftanh e d a, .cvti e d a code, .cvtf e d a code, .cvtdx e d a code, .cvtxd e d a code, .srnd e d a code,
        .dxexp e d a], bad i) ∧
    (laneDstOk g d = false → ∀ i ∈ [Instr.movi e d n, .pmov e .pv d a, .pmov e .pw d a, .vote e .mask d k, .vote e .count d k, .vote e .rank d k],
      bad i) ∧
    (srcPred a = none → ∀ i ∈ [Instr.pmov e .pv d a, .pmov e .pw d a], bad i) ∧ (srcOk g a = false → bad (.pmov e .vp d a) ∧ bad (.pmov e .wp d a)) ∧
    (predOf d = none → ∀ i ∈ [Instr.pmov e .vp d a, .pmov e .wp d a, .vote e .all d k, .vote e .any d k, .vote e .same d k], bad i) ∧
    ((laneDst64Ok g d && src64Ok g a) = false → bad (.mov e true d a)) ∧
    ((srcOk g a && srcOk g b) = false → ∀ i ∈ [Instr.icmp e c k a b, .fcmp e fc k a b, .hcmp2 e fc k a b], bad i)

/-- Taking a trap in user mode, with nothing outstanding and no containment (R43): TRAPCAUSE holds the code, the split, whether the
block is in a view, and the flags; TRAPPC, TRAPMASK and TRAPADDR the rest; PMODE keeps MODE and MODE becomes 1; the trapping split goes on
at TVEC with its mask; every other split is stopped; no register, predicate or byte of memory changes. A trap in supervisor mode changes
none of these registers: every split stops, one that is parked or suspended as it becomes runnable (R341).
Log entries 48 and 61 give the model's readings. -/
def Obligations.TrapEntry : Prop :=
  ∀ (s : State) (g : Group) (p : Split) (c : Cause), issuer s = some (g, p) → c.code ≠ 0x11 → c.code ≠ 0x12 → c.code ≠ 0x13 →
    let t := raiseAt s g.gid p.idx p.pc c false
    (g.mode = false → g.pending = [] →
      ∃ g1 p1, t.split? g.gid p.idx = some (g1, p1) ∧ t.mm = s.mm ∧ t.sys = s.sys ∧
        g1.trapCause = BitVec.ofNat 32 (c.code + 2 ^ 8 * p.idx +
          2 ^ 10 * (if ((s.block? g.bid).map (·.view)).getD 0 = 0 then 0 else 1) + 2 ^ 11 * c.flags.toNat) ∧
        g1.trapPc = p.pc.setWidth 64 ∧ g1.trapMask = c.mask ∧ g1.trapAddr = c.addr ∧ g1.pmode = false ∧ g1.mode = true ∧
        g1.v = g.v ∧ g1.s = g.s ∧ g1.k = g.k ∧ g1.p = g.p ∧ g1.fflags = g.fflags ∧ g1.fcsr = g.fcsr ∧
        p1.pc = g.tvec.setWidth 48 ∧ p1.st = (if p.stepOne || p.stepEnd then .stop else .super) ∧ p1.active = p.active ∧ p1.fmt = p.fmt ∧ p1.sig = p.sig ∧
        (∀ j q, j ≠ p.idx → g.split? j = some q → g1.split? j = some { q with frozen := true }) ∧
        ∀ j, j ≠ g.gid → t.group? j = s.group? j) ∧
    (g.mode = true →
      ∃ g1 p1, t.split? g.gid p.idx = some (g1, p1) ∧ g1 = { g with splits := g1.splits } ∧
        p1 = { p with st := .stop, stepOne := false, stepEnd := false, phase := 0, tagWait := none, hold := 0 } ∧
        ∀ j q, j ≠ p.idx → g.split? j = some q → g1.split? j = some
          (if q.st = .ready ∨ q.st = .fault ∨ q.st = .super ∨ q.st = .stop then { q with st := .stop, stepOne := false }
           else { q with stepEnd := true, stepOne := false }))

/-! ## Uniform arithmetic -/

/-- Uniform arithmetic, comparison and moves (R24, R189 to R191): a vector source gives its lowest active lane's value, a vector
destination takes the result in each active lane, and `zero` discards it. -/
def Obligations.UniformArithmetic : Prop :=
  ∀ (s : State) (g : Group) (p : Split) (e : Bool) (d : RegNum) (a b : Src) (u : BitVec 5) (n : BitVec 19), Ready s g p →
    srcOk g a = true → srcOk g b = true →
    let x := srcVal g a (lowest p.active)
    let y := srcVal g b (lowest p.active)
    let bit := fun c : Bool => if c then (1 : Word) else 0
    (uniDstOk g d = true →
      WritesUni (.sadd e d a b) e d (x + y) s g p ∧ WritesUni (.ssub e d a b) e d (x - y) s g p ∧
      WritesUni (.smul e d a b) e d (x * y) s g p ∧ WritesUni (.sand e d a b) e d (x &&& y) s g p ∧
      WritesUni (.sor e d a b) e d (x ||| y) s g p ∧ WritesUni (.sxor e d a b) e d (x ^^^ y) s g p ∧
      WritesUni (.sshl e d a b) e d (if y.toNat < 32 then x <<< y.toNat else 0) s g p ∧
      WritesUni (.sshr e d a b) e d (if y.toNat < 32 then x >>> y.toNat else 0) s g p ∧
      WritesUni (.scmp e .eq d a b) e d (bit (decide (x = y))) s g p ∧ WritesUni (.scmp e .ne d a b) e d (bit (decide (x ≠ y))) s g p ∧
      WritesUni (.scmp e .lt d a b) e d (bit (decide (x.toInt < y.toInt))) s g p ∧
      WritesUni (.scmp e .le d a b) e d (bit (decide (x.toInt ≤ y.toInt))) s g p ∧
      WritesUni (.scmp e .gt d a b) e d (bit (decide (y.toInt < x.toInt))) s g p ∧
      WritesUni (.scmp e .ge d a b) e d (bit (decide (y.toInt ≤ x.toInt))) s g p ∧
      WritesUni (.scmp e .ltu d a b) e d (bit (decide (x.toNat < y.toNat))) s g p ∧
      WritesUni (.scmp e .leu d a b) e d (bit (decide (x.toNat ≤ y.toNat))) s g p ∧
      WritesUni (.smov e false d a) e d x s g p) ∧
    (u.toNat < 30 → WritesUni (.sli e u n) e (96 + u.setWidth 7) (n.signExtend 32) s g p) ∧
    (uniDst64Ok g d = true → src64Ok g a = true →
      let w := srcVal64 g a (lowest p.active)
      ∃ g1, Retires (.smov e true d a) s g g1 p (nextSplit (.smov e true d a) e s g p) (GroupsOnly s) ∧
        g1 = { g with v := g1.v, s := g1.s, k := g1.k } ∧
        ∀ r l, l < 32 → readReg g1 r l =
          if d.toNat < 126 ∧ r = d.toNat ∧ (d.toNat < 96 → laneIn p.active l = true) then w.setWidth 32
          else if d.toNat < 126 ∧ r = d.toNat + 1 ∧ (d.toNat < 96 → laneIn p.active l = true) then (w >>> 32).setWidth 32
          else readReg g r l)

/-- A uniform instruction with a destination of lit or of a register that does not exist, or with such a source, raises ILLEGAL_OPERAND,
and so does a pair that is odd, or an SLI of d 30 or 31 (R18, R19, R23, R59, R62, R66). -/
def UniformIllegalOperands : Prop :=
  ∀ (s : State) (g : Group) (p : Split) (e : Bool) (c : CmpOp) (d : RegNum) (a b : Src) (n : BitVec 19), Ready s g p →
    let bad := fun (i : Instr) => Traps i s g p (.mk' 0x02 p.active 0)
    ((uniDstOk g d && srcOk g a && srcOk g b) = false →
      ∀ i ∈ [Instr.sadd e d a b, .ssub e d a b, .smul e d a b, .sand e d a b, .sor e d a b, .sxor e d a b, .sshl e d a b, .sshr e d a b,
        .scmp e c d a b], bad i) ∧
    ((uniDstOk g d && srcOk g a) = false → bad (.smov e false d a)) ∧
    ((uniDst64Ok g d && src64Ok g a) = false → bad (.smov e true d a)) ∧
    ∀ u : BitVec 5, 30 ≤ u.toNat → bad (.sli e u n)

/-- An operand that is not legal traps, for lane and uniform instructions (R19, R23, R24, R62, R125, R136). -/
def Obligations.IllegalOperands : Prop := LaneIllegalOperands ∧ UniformIllegalOperands

/-! ## Control flow -/

/-- Branches that do not diverge (R193, R195): where every active lane takes BRA, or none does; JZ and JNZ on the uniform register
c; JMP and RET to a 48-bit multiple of 4; CALL, whose return address goes to s20:s21. No other register changes.
Log entry 49 gives the model's readings. -/
def Obligations.Branches : Prop :=
  ∀ (s : State) (g : Group) (p : Split) (e : Bool) (c : BitVec 3) (j : BitVec 21) (a : Src), Ready s g p →
    let target := p.pc + (j.signExtend 48 <<< 2)
    let x := readReg g (96 + c.toNat) 0
    let t := srcVal64 g a (lowest p.active)
    (p.active &&& readPred g c.toNat = p.active → RetiresOnly (.bra e c j) e target s g p) ∧
    (p.active ≠ 0 → p.active &&& readPred g c.toNat = 0 → RetiresOnly (.bra e c j) e (p.pc + 4) s g p) ∧
    RetiresOnly (.jz e c j) e (if x = 0 then target else p.pc + 4) s g p ∧
    RetiresOnly (.jnz e c j) e (if x = 0 then p.pc + 4 else target) s g p ∧
    (src64Ok g a = true → t.toNat < 2 ^ 48 → t.toNat % 4 = 0 →
      RetiresOnly (.jmp e a) e (t.setWidth 48) s g p ∧ RetiresOnly (.ret e a) e (t.setWidth 48) s g p) ∧
    (src64Ok g a = true → 2 ^ 48 ≤ t.toNat →
      Traps (.jmp e a) s g p (.mk' 0x05 p.active t) ∧ Traps (.ret e a) s g p (.mk' 0x05 p.active t)) ∧
    (src64Ok g a = true → t.toNat < 2 ^ 48 → t.toNat % 4 ≠ 0 →
      Traps (.jmp e a) s g p (.mk' 0x04 p.active t) ∧ Traps (.ret e a) s g p (.mk' 0x04 p.active t)) ∧
    (src64Ok g a = false → Traps (.jmp e a) s g p (.mk' 0x02 p.active 0) ∧ Traps (.ret e a) s g p (.mk' 0x02 p.active 0)) ∧
    ∃ g1, Retires (.call e j) s g g1 p (retiredSplit e target (sigAfter (.call e j) g p) s g p) (GroupsOnly s) ∧
      g1 = { g with s := g1.s } ∧
      ∀ r l, readReg g1 r l =
        if r = 116 then ((p.pc + 4).setWidth 64 : DWord).setWidth 32
        else if r = 117 then (((p.pc + 4).setWidth 64 : DWord) >>> 32).setWidth 32 else readReg g r l

/-- A BRA that part of the active lanes take, with a free split index: the lanes that take it go on at the target and the others at the
next word, as two splits, each with the divergence's entry pushed; the split with the lowest lane keeps the index (R31, R32). With 16
entries it raises STACK, and with four live splits the taken arm runs first and the other waits in the entry. -/
def Divergence : Prop :=
  ∀ (s : State) (g : Group) (p : Split) (e : Bool) (c : BitVec 3) (j : BitVec 21), Ready s g p → p.stack.length = 16 →
    let t := p.active &&& readPred g c.toNat
    let target := p.pc + (j.signExtend 48 <<< 2)
    t ≠ p.active → t ≠ 0 →
    (p.depth < 16 → g.splits.length < 4 →
      let low := laneIn t (lowest p.active)
      let x : StackEntry := { id := newId g, jpc := (p.stack.getD p.depth StackEntry.zero).jpc, mask := p.active, ppc := 0, pmask := 0,
                              fmt := p.fmt, sig := sigAfter (.bra e c j) g p }
      ∃ u g1 pa pb, exec (.bra e c j) s = .next u ∧ u.mm = s.mm ∧
        u.split? g.gid (if low then p.idx else freeIndex g) = some (g1, pa) ∧
        u.split? g.gid (if low then freeIndex g else p.idx) = some (g1, pb) ∧ freeIndex g < 4 ∧ g.split? (freeIndex g) = none ∧
        pa.active = t ∧ pa.pc = target ∧ pb.active = p.active &&& ~~~ t ∧ pb.pc = p.pc + 4 ∧
        pa.depth = p.depth + 1 ∧ pb.depth = p.depth + 1 ∧ pa.stack[p.depth]? = some x ∧ pb.stack[p.depth]? = some x ∧
        g1.v = g.v ∧ g1.s = g.s ∧ g1.k = g.k ∧ g1.p = g.p) ∧
    (16 ≤ p.depth → Traps (.bra e c j) s g p (.mk' 0x14 p.active 0)) ∧
    (p.depth < 16 → 4 ≤ g.splits.length →
      ∃ u g1 pa, exec (.bra e c j) s = .next u ∧ u.split? g.gid p.idx = some (g1, pa) ∧ pa.active = t ∧ pa.pc = target ∧
        pa.depth = p.depth + 1 ∧ ((pa.stack[p.depth]?).map (fun x => (x.mask, x.ppc, x.pmask))) = some (p.active, p.pc + 4, p.active &&& ~~~ t))

/-- Reconvergence (R33, R194): RCV leaves its target in the entry above the top; JOIN with no entry goes on; JOIN of a first arm whose
other arm waits in the entry starts that arm; JOIN that completes an entry merges the splits waiting on it into the one of the lowest
index, whose mask is the entry's without the exited lanes; any other JOIN waits. -/
def Reconvergence : Prop :=
  ∀ (s : State) (g : Group) (p : Split) (e : Bool) (j : BitVec 21), Ready s g p → p.stack.length = 16 →
    let x := p.stack.getD (p.depth - 1) StackEntry.zero
    let ws := g.splits.filter (fun q => q.st == .join && decide (0 < q.depth) && q.top.id == x.id)
    (p.depth < 16 →
      ∃ p1, Retires (.rcv e j) s g g p p1 (GroupsOnly s) ∧ p1.pc = p.pc + 4 ∧ p1.depth = p.depth ∧
        (p1.stack.getD p.depth StackEntry.zero).jpc = p.pc + (j.signExtend 48 <<< 2) ∧
        ∀ n, n ≠ p.depth → p1.stack[n]? = p.stack[n]?) ∧
    (16 ≤ p.depth → RetiresOnly (.rcv e j) e (p.pc + 4) s g p) ∧
    (p.depth = 0 → RetiresOnly (.join e) e (p.pc + 4) s g p) ∧
    (0 < p.depth → p.depth ≤ 16 → x.ppc ≠ 0 →
      ∃ p1, Retires (.join e) s g g p p1 (GroupsOnly s) ∧ p1.pc = x.ppc ∧ p1.active = x.pmask ∧ p1.fmt = x.fmt ∧ p1.depth = p.depth ∧
        ((p1.stack.getD (p.depth - 1) StackEntry.zero).ppc = 0)) ∧
    (0 < p.depth → x.ppc = 0 → entryMet g x (p :: ws) = true → (∀ q ∈ ws, q.abort = none ∧ q.trapStep = false) →
      ∃ u g1 low q, low ∈ p :: ws ∧ (∀ m ∈ p :: ws, low.idx ≤ m.idx) ∧ exec (.join e) s = .next u ∧ u.mm = s.mm ∧
        u.split? g.gid low.idx = some (g1, q) ∧ q.active = low.top.mask &&& ~~~ g.exited ∧ q.fmt = low.top.fmt ∧
        q.depth = low.depth - 1 ∧ q.pc = (if low.top.jpc ≠ 0 then low.top.jpc + 4 else p.pc + 4) ∧
        (∀ m ∈ p :: ws, m.idx ≠ low.idx → g1.split? m.idx = none) ∧ g1.v = g.v ∧ g1.s = g.s ∧ g1.p = g.p) ∧
    (0 < p.depth → x.ppc = 0 → entryMet g x (p :: ws) = false →
      ∃ u g1 q, exec (.join e) s = .next u ∧ u.mm = s.mm ∧ u.split? g.gid p.idx = some (g1, q) ∧ q.st = .join ∧ q.pc = p.pc ∧
        g1.v = g.v ∧ g1.s = g.s ∧ g1.p = g.p)

/-- Divergence and reconvergence, as the two statements above say (R31 to R33, R193, R194).
Log entries 11 and 49 give the model's readings. -/
def Obligations.DivergenceReconvergence : Prop := Divergence ∧ Reconvergence

/-! ## Memory -/

/-- Bytes written to DRAM under a tenancy's loaded key are what a reader under that key finds there, and every other byte reads as
before, in whatever sectors the write lands (R11, R276, R399). -/
def DramReadAfterWrite : Prop :=
  ∀ (s : State) (tenancy pa key : Nat) (bs : List Byte), keyOf s tenancy = some key →
    ∀ a, dramByte (dramWrite s tenancy pa bs) key a = if pa ≤ a ∧ a < pa + bs.length then bs.getD (a - pa) 0 else dramByte s key a

/-- A read at the home site after a write there by a tenancy that has its key, in view 0, over sectors with no error, gives the bytes
written (R371, R372, R373, R399). -/
def HomeReadAfterWrite : Prop :=
  ∀ (s : State) (tenancy va pa : Nat) (bs : List Byte) (sc : Scope), keyOf s tenancy ≠ none → bs ≠ [] →
    (∀ x ∈ sectorsOf pa bs.length, s.mm.bad.contains x = false ∧ s.mm.lost.contains x = false ∧ flitFails s (64 * x) = false) →
    homeRead (homeWrite s tenancy 0 va pa bs sc) tenancy 0 pa bs.length = some bs

/-- Memory is read as it was written, as the two statements above say (R11, R276, R372, R373, R399). -/
def Obligations.MemoryReadAfterWrite : Prop := DramReadAfterWrite ∧ HomeReadAfterWrite

/-- The checks of R175 find every lane of an access: `s1` is the state that the translations leave, `oks` the lanes with their addresses
and their leaves. -/
structure FindsAll (s : State) (p : Split) (P : Party) (k : AccessKind) (noExt writes : Bool) (n : Nat) (lanes : List (Nat × Nat)) (s1 : State)
    (oks : List (Nat × Nat × Leaf)) : Prop where
  first : p.st ≠ .fault
  checks : checkAll s { P with markClu := p.scClu, markDev := p.scDev } k noExt writes n lanes = (s1, oks.map (fun x => (x.1, x.2.1, Finding.ok x.2.2)))
  groups : s1.fe.groups = s.fe.groups
  blocks : s1.fe.blocks = s.fe.blocks
  launches : s1.fe.launches = s.fe.launches
  queues : s1.fe.queues = s.fe.queues

/-- The part of an outstanding load that a lane still has to read: `n` bytes at its place, to its registers. -/
def loadPart (z : LoadSize) (c : Scope) (d : RegNum) (x : Nat × Nat × Leaf) : LaneResult :=
  { lane := x.1, dests := loadDests d x.1 (loadBytes z), vals := [], load := some (.global x.2.2.pa x.2.1 x.2.2.attr x.2.2.size, loadBytes z),
    sext := loadSigned z, scope := c, flags := 0 }

/-- LDG and SLD on WB pages, once every lane is found: no memory changes, the split goes on with the registers outstanding, and each lane's
bytes are read when its result returns, at the address that R57 and R192 give (R48, R172 to R175, R192). A load whose d is `zero` reads at
its issue, and leaves nothing outstanding and no register written.
Log entries 7, 8 and 26 give the model's readings. -/
def Obligations.GlobalLoads : Prop :=
  ∀ (s : State) (g : Group) (p : Split) (s1 : State) (oks : List (Nat × Nat × Leaf)) (e : Bool), Ready s g p → oks ≠ [] →
    (∀ x ∈ oks, x.2.2.attr = 0) →
    let P := s.party g
    let leaves := fun (i : Instr) regs parts =>
      Retires i s g { g with pending := g.pending ++ [owed P.view regs parts s1 g p] } p (nextSplit i e s1 g (owingSplit regs s1 g p))
        (fun t => t.mm = s1.mm)
    (∀ (z : LoadSize) (c : Scope) (sb : BitVec 5) (d : RegNum) (a : Src), globalOk g sb a = true → loadDstOk g d (loadBytes z) = true →
      d.toNat < 96 →
      FindsAll s p P .load true false (loadBytes z) ((lanesOf p.active).map (fun l => (l, runAddr g sb a (loadBytes z) l))) s1 oks →
      leaves (.ldg e z c sb d a) (regRange d.toNat (regsOf (loadBytes z))) (oks.map (loadPart z c d))) ∧
    (∀ (z : LoadSize) (c : Scope) (sb : BitVec 5) (a : Src), globalOk g sb a = true → NothingOlder g →
      FindsAll s p P .load true false (loadBytes z) ((lanesOf p.active).map (fun l => (l, runAddr g sb a (loadBytes z) l))) s1 oks →
      (∀ x ∈ oks, NothingHolds s1 P x.2.2.pa (loadBytes z)) →
      ∃ t, exec (.ldg e z c sb 126 a) s = .next t ∧
        (e = false → ∃ g1 p1, t.split? g.gid p.idx = some (g1, p1) ∧ g1 = { g with splits := g1.splits } ∧
          p1.pc = pcAfter (.ldg e z c sb 126 a) p ∧ p1.active = p.active ∧ p1.outst = p.outst)) ∧
    ∀ (w : Bool) (d : RegNum) (a b : Src), (if w then uniDst64Ok g d else uniDstOk g d) = true → baseOk g a = true → srcOk g b = true →
      d.toNat < 126 →
      FindsAll s p P .load true false (if w then 8 else 4)
        [(lowest p.active, (srcVal64 g a (lowest p.active)).toNat + (srcVal g b (lowest p.active)).toNat)] s1 oks →
      ∀ x ∈ oks, leaves (.sld e w d a b) (regRange d.toNat (if w then 2 else 1)) (wholeParts g p d w (.global x.2.2.pa x.2.1 0 x.2.2.size))

/-- STG and SST on WB pages, once every lane is found: no memory changes yet, no register changes, and the split keeps one store for each
lane, of the lane's bytes at the place of its address, with the scope that R174 gives; they are performed later (R173, R174, R192).
Log entries 7, 26 and 62 give the model's readings. -/
def Obligations.GlobalStores : Prop :=
  ∀ (s : State) (g : Group) (p : Split) (s1 : State) (oks : List (Nat × Nat × Leaf)) (e : Bool), Ready s g p →
    (∀ x ∈ oks, x.2.2.attr = 0) →
    let P := s.party g
    let keeps := fun (i : Instr) (c : Scope) (data : Nat → List Byte) =>
      ∃ t g1 p1, exec i s = .next t ∧ t.mm = s1.mm ∧ t.split? g.gid p.idx = some (g1, p1) ∧ g1 = { g with splits := g1.splits } ∧
        p1.pc = pcAfter i p ∧ p1.active = p.active ∧ p1.outst = p.outst ∧
        p1.buffer.map (fun y => (y.place, y.scope, y.bytes, y.view)) =
          p.buffer.map (fun y => (y.place, y.scope, y.bytes, y.view)) ++
            oks.map (fun x => (.global x.2.2.pa x.2.1 0 x.2.2.size, c, data x.1, P.view))
    (∀ (z : StoreSize) (c : Scope) (sb : BitVec 5) (d a : Src), globalOk g sb a = true → storeSrcOk g d (storeSize z) = true →
      FindsAll s p P .store false true (storeSize z) ((lanesOf p.active).map (fun l => (l, runAddr g sb a (storeSize z) l))) s1 oks →
      keeps (.stg e z c sb d a) c (fun l => dataBytes g d l (storeSize z))) ∧
    ∀ (w : Bool) (d a b : Src), (if w then src64Ok g d else srcOk g d) = true → baseOk g a = true → srcOk g b = true →
      FindsAll s p P .store false true (if w then 8 else 4)
        [(lowest p.active, (srcVal64 g a (lowest p.active)).toNat + (srcVal g b (lowest p.active)).toNat)] s1 oks →
      keeps (.sst e w d a b) .dev (fun _ =>
        if w then leBytes (srcVal64 g d (lowest p.active)).toNat 8 else leBytes (srcVal g d (lowest p.active)).toNat 4)

/-- The lanes of an atomic, in order, at addresses of a memory: the memory they leave, and each lane's old bytes, which hold what the lanes before it
wrote (R177). -/
def swapLanes (n : Nat) (op : Nat → List Byte → List Byte) : List (Nat × Nat) → (Nat → Byte) → (Nat → Byte) × List (Nat × List Byte)
  | [], m => (m, [])
  | x :: r, m =>
    let old := (List.range n).map (fun j => m (x.2 + j))
    let t := swapLanes n op r (fun k => if x.2 ≤ k ∧ k < x.2 + n then (op x.1 old).getD (k - x.2) 0 else m k)
    (t.1, (x.1, old) :: t.2)

/-- The lanes of an atomic, each performed at the place that its scope gives, in order, with no error: each lane's old bytes, and the state after
all of them (R177). -/
def LanesPerformed (P : Party) (gid i n : Nat) (c : Scope) (op : Nat → List Byte → List Byte) :
    List (Nat × Nat × Leaf) → State → List (Nat × List Byte) → State → Prop
  | [], s, olds, t => olds = [] ∧ t = s
  | x :: r, s, olds, t => ∃ s1 old gw rest,
      performAtomic s { P with writer := some (gid, i) } x.2.1 x.2.2.pa x.2.2.attr n c (op x.1) = (s1, some old, gw) ∧
      olds = (x.1, old) :: rest ∧ LanesPerformed P gid i n c op r (noteGwct s1 gid i x.2.2.attr gw) rest t

/-- ATOMG in both sets, once every lane is found, with nothing older of its group left and nothing that holds a lane's bytes. On SC pages, or on WB
pages at DEV or SYS scope, for bytes whose newest value is the one at their home: lane after lane in increasing order the bytes at the lane's place become
the operation's result, as one step with the read; no other byte of DRAM changes; and the old values are outstanding in d, nothing being
outstanding where d is `zero` (R173, R175, R177). Wherever the lanes are performed, the instruction answers with what `performAtomic` reads
and leaves, lane after lane. The last clauses say what each operation writes.
Log entries 7 and 24 give the model's readings. -/
def Obligations.GlobalAtomics : Prop :=
  (∀ (s : State) (g : Group) (p : Split) (s1 : State) (oks : List (Nat × Nat × Leaf)) (e : Bool) (c : Scope) (sb : BitVec 5) (d : RegNum) (a : Src),
    Ready s g p → NothingOlder g → globalOk g sb a = true → oks ≠ [] →
    let P := s.party g
    let answers := fun (i : Instr) (n : Nat) (g0 : Group) (p0 : Split) (olds : List (Nat × List Byte)) (left : State → Prop) =>
      ∃ t g1 p1, exec i s = .next t ∧ left t ∧ t.split? g.gid p.idx = some (g1, p1) ∧ p1.pc = pcAfter i p ∧ p1.outst = p0.outst ||| loadRegs d n ∧
        g1.pending.map (fun y => y.parts) =
          g0.pending.map (fun y => y.parts) ++ (if d = 126 then [] else [olds.map (fun x => oldPart d x.1 n x.2)]) ∧
        g1 = { g0 with splits := g1.splits, pending := g1.pending }
    let swaps := fun (i : Instr) (n : Nat) (op : Nat → List Byte → List Byte) =>
      FindsAll s p P .store true true n ((lanesOf p.active).map (fun l => (l, globalAddr g sb a l))) s1 oks →
      (∀ x ∈ oks, NothingHolds s1 P x.2.2.pa n) →
      (∀ key, (∀ x ∈ oks, AtHome s1 P x.2.2.pa n key ∧ (x.2.2.attr = 1 ∨ (x.2.2.attr = 0 ∧ (c = .dev ∨ c = .sys)))) →
        let m := swapLanes n op (oks.map (fun x => (x.1, x.2.2.pa))) (fun k => dramByte s1 key k)
        answers i n g p m.2 (fun t => ∀ k, dramByte t key k = m.1 k)) ∧
      ∀ (s2 : State) (olds : List (Nat × List Byte)) (g2 : Group) (p2 : Split), LanesPerformed P g.gid p.idx n c op oks s1 olds s2 →
        s2.split? g.gid p.idx = some (g2, p2) → p2.pc = p.pc → p2.abort = none → p2.trapStep = false →
        answers i n g2 p2 olds (fun t => t.mm = s2.mm)
    (∀ z : AtomA, atomDstOk g d 4 (decide (z = .cas)) = true → swaps (.atomgA e z c sb d a) 4 (atomABytes z g d)) ∧
    ∀ z : AtomB, atomDstOk g d (atomBSize z) (decide (z = .cas64)) = true → swaps (.atomgB e z c sb d a) (atomBSize z) (atomBBytes z g d)) ∧
  ∀ (g : Group) (d : RegNum) (l : Nat) (w : Word) (v : DWord),
    let r := readReg g d.toNat l
    let q := srcVal64 g (.reg d) l
    let A := fun z => atomABytes z g d l (leBytes w.toNat 4)
    let B := fun z => atomBBytes z g d l (leBytes v.toNat 8)
    let B4 := fun z => atomBBytes z g d l (leBytes w.toNat 4)
    A .add = leBytes (w + r).toNat 4 ∧ A .and = leBytes (w &&& r).toNat 4 ∧ A .or = leBytes (w ||| r).toNat 4 ∧
    A .exch = leBytes r.toNat 4 ∧ A .min = leBytes (if w.toInt ≤ r.toInt then w else r).toNat 4 ∧
    A .max = leBytes (if r.toInt ≤ w.toInt then w else r).toNat 4 ∧ A .fadd = leBytes (addRne w r).1.toNat 4 ∧
    A .cas = (if w = r then leBytes (readReg g (d.toNat + 1) l).toNat 4 else leBytes w.toNat 4) ∧
    B4 .xor = leBytes (w ^^^ r).toNat 4 ∧ B4 .umin = leBytes (min w.toNat r.toNat) 4 ∧ B4 .umax = leBytes (max w.toNat r.toNat) 4 ∧
    B .add64 = leBytes (v + q).toNat 8 ∧ B .exch64 = leBytes q.toNat 8 ∧
    B .cas64 = (if v = q then leBytes (srcVal64 g (.reg (d + 2)) l).toNat 8 else leBytes v.toNat 8) ∧
    B .min64 = leBytes (if v.toInt ≤ q.toInt then v else q).toNat 8 ∧ B .max64 = leBytes (if q.toInt ≤ v.toInt then v else q).toNat 8

/-- Scratchpad accesses whose checks pass (R57, R172, R178, R179): LDS leaves each lane's read outstanding at the byte that its local address
names; STS keeps one store for each lane; ATOMS changes the pool at once and leaves the old value outstanding; where d is `zero` nothing is outstanding (an LDS
then meets no error in its bytes, R176). REPLAYS counts the passes.
`s1` is the state in which the lanes' segments are the block's own (R245).
Log entries 7 and 37 give the model's readings. -/
def Obligations.LocalAccesses : Prop :=
  ∀ (s : State) (g : Group) (p : Split) (b : Block) (e : Bool) (c : Scope) (sb : BitVec 5) (a : Src), Ready s g p →
    s.block? g.bid = some b → localOk g c sb a = true → inRoutine g = false →
    let addr := fun l => if sb = 30 then (srcVal g a l).toNat else (readReg g (96 + sb.toNat) l + srcVal g a l).toNat
    let lanes := (lanesOf p.active).map (fun l => (l, addr l))
    let count := fun n atom => BitVec.ofNat 32 (replayCount s b n atom lanes)
    (∀ (z : LoadSize) (d : RegNum), loadDstOk g d (loadBytes z) = true → d.toNat < 96 → localTrap s b true (loadBytes z) lanes = none →
      let regs := regRange d.toNat (regsOf (loadBytes z))
      let parts := lanes.map (fun x =>
        ({ lane := x.1, dests := loadDests d x.1 (loadBytes z), vals := [],
           load := some (.pool ((keyAt s b x.2).getD 0), loadBytes z), sext := loadSigned z, scope := c, flags := 0 } : LaneResult))
      Retires (.lds e z c sb d a) s g
        { g with replays := g.replays + count (loadBytes z) false, pending := g.pending ++ [owed 0 regs parts s g p] } p
        (nextSplit (.lds e z c sb d a) e s g (owingSplit regs s g p)) (GroupsOnly s)) ∧
    (∀ (z : StoreSize) (d : Src), storeSrcOk g d (storeSize z) = true → localTrap s b false (storeSize z) lanes = none →
      ownLanes s b lanes = (s, []) →
      ∃ p1, Retires (.sts e z c sb d a) s g { g with replays := g.replays + count (storeSize z) false } p p1 (GroupsOnly s) ∧
        p1.pc = pcAfter (.sts e z c sb d a) p ∧ p1.outst = p.outst ∧
        p1.buffer = p.buffer ++ lanes.map (fun x =>
          ({ seq := s.seq, after := pastOf g p, place := .pool ((keyAt s b x.2).getD 0), scope := c, bytes := dataBytes g d x.1 (storeSize z),
             view := 0, held := pinned s (.pool ((keyAt s b x.2).getD 0)) (dataBytes g d x.1 (storeSize z)).length } : BufStore))) ∧
    (∀ z : LoadSize, localTrap s b true (loadBytes z) lanes = none →
      (∀ x ∈ lanes, ∀ key, keyAt s b x.2 = some key → poolFails s key (loadBytes z) = false) →
      Retires (.lds e z c sb 126 a) s g { g with replays := g.replays + count (loadBytes z) false } p
        (nextSplit (.lds e z c sb 126 a) e s g p) (GroupsOnly s)) ∧
    ∀ (d : RegNum) (l : Nat) (key : Nat), NothingOlder g → lanesOf p.active = [l] → keyAt s b (addr l) = some key →
      ownLanes s b lanes = (s, []) →
      let swaps := fun (i : Instr) (n : Nat) (op : List Byte → List Byte) =>
        localTrap s b true n lanes = none → pinned s (.pool key) n = false → poolFails s key n = false →
        ∃ t g1 p1, exec i s = .next t ∧ t.split? g.gid p.idx = some (g1, p1) ∧ p1.pc = pcAfter i p ∧
          p1.outst = p.outst ||| loadRegs d n ∧ g1.v = g.v ∧
          g1.pending.map (fun y => y.parts) = (if d = 126 then [] else [[oldPart d l n (sgetMany s.mm.scratch key n)]]) ∧ t.mm.mem = s.mm.mem ∧
          ∀ k, sget t.mm.scratch k =
            if key ≤ k ∧ k < key + n then (op (sgetMany s.mm.scratch key n)).getD (k - key) 0 else sget s.mm.scratch k
      (∀ z : AtomA, atomDstOk g d 4 (decide (z = .cas)) = true → swaps (.atomsA e z c sb d a) 4 (atomABytes z g d l)) ∧
      ∀ z : AtomB, atomDstOk g d (atomBSize z) (decide (z = .cas64)) = true → swaps (.atomsB e z c sb d a) (atomBSize z) (atomBBytes z g d l)

/-- PREF retires whatever its lanes find, with no trap and no register changed (R187); FENQ appends the active lanes' entries in
lane order where there is room, FDEQ takes the oldest where there are enough and none has expired, and both wait otherwise (R185).
Log entries 23 and 36 give the model's readings. -/
def Obligations.PrefetchFifo : Prop :=
  ∀ (s : State) (g : Group) (p : Split) (e : Bool) (sb : BitVec 5) (a : Src), Ready s g p →
    (∀ z : PrefLevel, globalOk g sb a = true →
      ((∀ l, addrInRange (globalAddr g sb a l) = false) → RetiresOnly (.pref e z sb a) e (pcAfter (.pref e z sb a) p) s g p) ∧
      ∃ t g1 p1, exec (.pref e z sb a) s = .next t ∧ t.mm.scratch = s.mm.scratch ∧ t.split? g.gid p.idx = some (g1, p1) ∧
        g1 = { g with splits := g1.splits } ∧ p1.pc = pcAfter (.pref e z sb a) p ∧ p1.active = p.active ∧ p1.outst = p.outst) ∧
    ∀ (z : FifoSize) (x : Pool), sb.toNat < 30 → inRival s g = false → fifoAt s g (readReg g (96 + sb.toNat) 0).toNat = some x →
      x.width = fifoBytes z → (lanesOf p.active).length ≤ x.depth →
      let k := (lanesOf p.active).length
      (∀ d : Src, storeSrcOk g d (fifoBytes z) = true → x.entries.length + k ≤ x.depth →
        Retires (.fenq e z sb d) s g g p (nextSplit (.fenq e z sb d) e s g p) (fun t => t.mm.mem = s.mm.mem ∧
          (t.pool x.cluster x.pool).entries = (s.pool x.cluster x.pool).entries ++
            (lanesOf p.active).map (fun l => (BitVec.ofNat 128 (leNat (dataBytes g d l (fifoBytes z))), 0)))) ∧
      (∀ d : RegNum, loadDstOk g d (fifoBytes z) = true → k ≤ x.entries.length →
        (∀ y ∈ x.entries.take k, y.2 < x.life * ageMicro) →
        let regs := regRange d.toNat (regsOf (fifoBytes z))
        let parts := ((lanesOf p.active).zip (x.entries.take k)).map (fun y =>
          oldPart d y.1 (fifoBytes z) (leBytes y.2.1.toNat (fifoBytes z)))
        Retires (.fdeq e z sb d) s g (if d = 126 then g else { g with pending := g.pending ++ [owed 0 regs parts s g p] }) p
          (nextSplit (.fdeq e z sb d) e s g (if d = 126 then p else owingSplit regs s g p)) (fun t => t.mm.mem = s.mm.mem ∧
            (t.pool x.cluster x.pool).entries = (s.pool x.cluster x.pool).entries.drop k)) ∧
      (∀ d : Src, storeSrcOk g d (fifoBytes z) = true → x.depth < x.entries.length + k →
        ∃ t g1 p1, exec (.fenq e z sb d) s = .next t ∧ t.mm = s.mm ∧ t.split? g.gid p.idx = some (g1, p1) ∧ p1.pc = p.pc ∧
          p1.st = .wait ∧ p1.park = .fifo x.pool k true) ∧
      ∀ d : RegNum, loadDstOk g d (fifoBytes z) = true → x.entries.length < k →
        ∃ t g1 p1, exec (.fdeq e z sb d) s = .next t ∧ t.mm = s.mm ∧ t.split? g.gid p.idx = some (g1, p1) ∧ p1.pc = p.pc ∧
          p1.st = .wait ∧ p1.park = .fifo x.pool k false

/-- The causes that stop an access before any lane is performed (R175): the first cause of the order ALIGN, ACCESS, TRANSLATION, MEM_ABORT,
VIEW_EXTERNAL, VIEW_EXHAUSTED that a lane meets is raised, with every lane that meets it, and the lowest one's address; of SLD and SST, which make one
access, with every active lane. Lanes that meet none of them raise nothing. Illegal operands raise ILLEGAL_OPERAND first (R57, R68).
Log entries 26 and 27 give the model's readings. -/
def Obligations.GlobalChecks : Prop :=
  (∀ (s : State) (g : Group) (p : Split) (e : Bool) (c : Scope) (sb : BitVec 5) (a : Src), Ready s g p →
    let P := s.party g
    let bad := fun (i : Instr) => Traps i s g p (.mk' 0x02 p.active 0)
    let stops := fun (i : Instr) (k : AccessKind) (noExt writes : Bool) (n : Nat) (lanes : List (Nat × Nat)) (mask : LaneMask → LaneMask) =>
      ∀ (s1 : State) (fs : List (Nat × Nat × Finding)) (code : Nat) (m : LaneMask) (va : Nat), p.st ≠ .fault →
        checkAll s { P with markClu := p.scClu, markDev := p.scDev } k noExt writes n lanes = (s1, fs) →
        findingTrap fs = some (code, m, va) → s1.fe.groups = s.fe.groups →
        exec i s = .next (raiseAt (issued s1 g) g.gid p.idx p.pc (.mk' code (mask m) (BitVec.ofNat 64 va)) (code == 0x11))
    let each := fun (addr : Nat → Nat) => (lanesOf p.active).map (fun l => (l, addr l))
    (∀ (z : LoadSize) (d : RegNum),
      (globalOk g sb a && loadDstOk g d (loadBytes z) = true →
        stops (.ldg e z c sb d a) .load true false (loadBytes z) (each (runAddr g sb a (loadBytes z))) id) ∧
      ((globalOk g sb a && loadDstOk g d (loadBytes z)) = false → bad (.ldg e z c sb d a)) ∧
      ((localOk g c sb a && loadDstOk g d (loadBytes z)) = false → bad (.lds e z c sb d a))) ∧
    (∀ (z : StoreSize) (d : Src),
      (globalOk g sb a && storeSrcOk g d (storeSize z) = true →
        stops (.stg e z c sb d a) .store false true (storeSize z) (each (runAddr g sb a (storeSize z))) id) ∧
      ((globalOk g sb a && storeSrcOk g d (storeSize z)) = false → bad (.stg e z c sb d a)) ∧
      ((localOk g c sb a && storeSrcOk g d (storeSize z)) = false → bad (.sts e z c sb d a))) ∧
    (∀ (z : AtomA) (d : RegNum),
      (globalOk g sb a && atomDstOk g d 4 (decide (z = .cas)) = true → stops (.atomgA e z c sb d a) .store true true 4 (each (globalAddr g sb a)) id) ∧
      ((globalOk g sb a && atomDstOk g d 4 (decide (z = .cas))) = false → bad (.atomgA e z c sb d a)) ∧
      ((localOk g c sb a && atomDstOk g d 4 (decide (z = .cas))) = false → bad (.atomsA e z c sb d a))) ∧
    (∀ (z : AtomB) (d : RegNum),
      (globalOk g sb a && atomDstOk g d (atomBSize z) (decide (z = .cas64)) = true →
        stops (.atomgB e z c sb d a) .store true true (atomBSize z) (each (globalAddr g sb a)) id) ∧
      ((globalOk g sb a && atomDstOk g d (atomBSize z) (decide (z = .cas64))) = false → bad (.atomgB e z c sb d a)) ∧
      ((localOk g c sb a && atomDstOk g d (atomBSize z) (decide (z = .cas64))) = false → bad (.atomsB e z c sb d a))) ∧
    ∀ (w : Bool) (d : RegNum) (b x : Src),
      let at_ := [(lowest p.active, (srcVal64 g a (lowest p.active)).toNat + (srcVal g b (lowest p.active)).toNat)]
      let n := if w then 8 else 4
      let okd := if w then uniDst64Ok g d else uniDstOk g d
      let okx := if w then src64Ok g x else srcOk g x
      ((okd && baseOk g a && srcOk g b) = true → stops (.sld e w d a b) .load true false n at_ (fun _ => p.active)) ∧
      ((okd && baseOk g a && srcOk g b) = false → bad (.sld e w d a b)) ∧
      ((okx && baseOk g a && srcOk g b) = true → stops (.sst e w x a b) .store false true n at_ (fun _ => p.active)) ∧
      ((okx && baseOk g a && srcOk g b) = false → bad (.sst e w x a b))) ∧
  ∀ (fs : List (Nat × Nat × Finding)),
    let order : List (Finding × Nat) := [(.align, 0x04), (.access, 0x05), (.translation, 0x06), (.abort, 0x11), (.external, 0x0E), (.exhausted, 0x0D)]
    (∀ before f code after, order = before ++ (f, code) :: after → (∀ x ∈ before, ∀ y ∈ fs, y.2.2 ≠ x.1) → (∃ y ∈ fs, y.2.2 = f) →
      ∃ va, findingTrap fs = some (code, maskOf ((fs.filter (fun y => y.2.2 == f)).map (·.1)), va) ∧
        (fs.find? (fun y => y.2.2 == f)).map (fun y => y.2.1) = some va) ∧
    ((∀ x ∈ order, ∀ y ∈ fs, y.2.2 ≠ x.1) → findingTrap fs = none)

/-- A split once the one outstanding result of its group has returned (R47, R48): where it holds the result, the result's registers leave its
OUTSTANDING, and in EBB with none left it runs again; where it does not, it stays as it is. -/
def returned (g : Group) (x : Pending) (order : Nat) (q : Split) : Split :=
  if holds q x = false then q
  else if q.st = .ebb ∧ q.outst &&& ~~~x.regs = 0 then { q with outst := 0, st := runState g q, stepEnd := false, order }
  else { q with outst := q.outst &&& ~~~x.regs }

/-- The bytes that a part of a load finds with no other access made: those of the pool, or those of the core's own L1 copy under a lease that runs
(R173, R176, R263). -/
def Finds (s : State) (P : Party) (p : Split) (r : LaneResult) (bs : List Byte) : Prop :=
  match r.load with
  | some (.pool key, n) => poolFails s key n = false ∧ bs = sgetMany s.mm.scratch key n
  | some (.global pa va attr _, n) =>
    attr = 0 ∧ lineOwned s pa = false ∧ ∃ y, l1Hit s P p.scClu p.scDev va n = some y ∧ bs = sectorBytes y.data (pa % 64) n
  | none => False

/-- The return of an outstanding result, the group's only one, of which all lanes return (R47, R48, R49, R128, R141, R150, R173): each word goes to its
register and lane, the flags to FFLAGS, and no other register changes; the result is gone, and each split is as `returned` says. The words are those
fixed at the issue; or, for a load, the bytes that each lane's place holds then, of any size, extended as the slot says: lane by lane for LDG and LDS, a
word to a register for SLD, from the pool, from the L1, or, with the caches empty, from DRAM.
Log entries 7 and 8 give the model's readings. -/
def Obligations.ResultReturn : Prop :=
  (∀ (s : State) (g : Group) (x : Pending) (p : Split), s.group? g.gid = some g → g.pending = [x] → g.split? x.sp = some p →
    (∀ q ∈ g.splits, q.st = .ebb → q.outst ≠ 0 ∧ q.abort = none ∧ q.stepDue = false) → x.after.contains x.seq = false →
    (∀ q ∈ g.splits, q.buffer = []) →
    let P := { s.party g with view := x.view }
    let returns := fun (memory : State → Prop) (regs : Nat → Nat → Word) (flags : Nat → Flags) =>
      ∃ t g1, exec (.outstandingResultReturn g.gid x.seq (BitVec.allOnes 32)) s = .next t ∧ t.group? g.gid = some g1 ∧ memory t ∧
        g1 = { g with v := g1.v, s := g1.s, k := g1.k, fflags := g1.fflags, pending := [], splits := g.splits.map (returned g x s.seq) } ∧
        (∀ r l, l < 32 → readReg g1 r l = regs r l) ∧ (∀ l, l < 32 → sget g1.fflags l = flags l) ∧ ∀ j, j ≠ g.gid → t.group? j = s.group? j
    (∀ (d : RegNum) (m : LaneMask) (f : Nat → Word × Flags), d.toNat < 96 → m ≠ 0 →
      x.parts = (lanesOf m).map (fun l => valuePart d.toNat l (f l).1 (f l).2) →
      returns (fun t => t.mm = s.mm) (fun r l => if r = d.toNat ∧ laneIn m l = true then (f l).1 else readReg g r l)
        (fun l => if laneIn m l = true then sget g.fflags l ||| (f l).2 else sget g.fflags l)) ∧
    (∀ (d : RegNum) (m : LaneMask) (n : Nat) (c : Scope) (sx : Bool) (place : Nat → Place) (bytes : Nat → List Byte), n ∈ [1, 2, 4, 8, 16] →
      d.toNat + regsOf n ≤ 96 → m ≠ 0 →
      let part := fun l => ({ lane := l, dests := loadDests d l n, vals := [], load := some (place l, n), sext := sx, scope := c, flags := 0 } : LaneResult)
      x.parts = (lanesOf m).map part →
      let loaded := fun r l => if d.toNat ≤ r ∧ r < d.toNat + regsOf n ∧ laneIn m l = true then (wordsOfBytes sx (bytes l)).getD (r - d.toNat) 0
        else readReg g r l
      ((∀ l ∈ lanesOf m, Finds s P p (part l) (bytes l)) → returns (fun t => t.mm = s.mm) loaded (fun l => sget g.fflags l)) ∧
      ∀ l pa va page key, lanesOf m = [l] → place l = .global pa va 0 page → pa % n = 0 → lineOwned s pa = false → s.mm.l1 = [] → s.mm.l2 = [] →
        AtHome s P (64 * (pa / 64)) 64 key → bytes l = (List.range n).map (fun k => dramByte s key (pa + k)) →
        returns (fun t => ∀ k, dramByte t key k = dramByte s key k) loaded (fun l => sget g.fflags l)) ∧
    ∀ (d : RegNum) (w : Bool) (q : Split) (pa va page : Nat) (bytes : Nat → List Byte), uniDst64Ok g d = true ∨ w = false → d.toNat < 126 →
      q.active ≠ 0 → x.parts = wholeParts g q d w (.global pa va 0 page) →
      (∀ k, k < (if w then 2 else 1) → ∀ r ∈ x.parts[k]?, Finds s P p r (bytes k)) →
      returns (fun t => t.mm = s.mm)
        (fun r l => if d.toNat ≤ r ∧ r < d.toNat + (if w then 2 else 1) ∧ (d.toNat < 96 → laneIn q.active l = true) then
            BitVec.ofNat 32 (leNat (bytes (r - d.toNat))) else readReg g r l) (fun l => sget g.fflags l)) ∧
  (∀ b0 b1 : Byte, wordsOfBytes false [b0] = [b0.setWidth 32] ∧ wordsOfBytes true [b0] = [b0.signExtend 32] ∧
    wordsOfBytes false [b0, b1] = [(b1 ++ b0).setWidth 32] ∧ wordsOfBytes true [b0, b1] = [(b1 ++ b0).signExtend 32]) ∧
  ∀ (sx : Bool) (bs : List Byte) (k : Nat), bs.length = 4 * k → 0 < k → ∀ i, i < k →
    (wordsOfBytes sx bs).getD i 0 = bs.getD (4 * i + 3) 0 ++ bs.getD (4 * i + 2) 0 ++ bs.getD (4 * i + 1) 0 ++ bs.getD (4 * i) 0

/-- A buffered store is performed once nothing older must go first (R174, R264): a scratchpad store writes its bytes and no other byte of any
memory; a store of view 0 at DEV or SYS scope to a WB or SC page, under a loaded key and over sectors with no error, writes its bytes of DRAM
and no other. Either way it leaves the split's buffer.
Log entries 7 and 24 give the model's readings. -/
def Obligations.StorePerformed : Prop :=
  ∀ (s : State) (g : Group) (p : Split) (i : Nat) (x : BufStore), s.split? g.gid p.idx = some (g, p) → p.buffer[i]? = some x →
    entryReady s g p x = true → (∀ q ∈ g.splits, q.idx ≠ p.idx → x ∉ q.buffer) →
    (∀ key, x.place = .pool key →
      ∃ t g1 p1, exec (.storeAcknowledge g.gid p.idx i) s = .next t ∧ t.split? g.gid p.idx = some (g1, p1) ∧
        p1.buffer = p.buffer.filter (fun y => y != x) ∧ t.mm.mem = s.mm.mem ∧
        ∀ k, sget t.mm.scratch k = if key ≤ k ∧ k < key + x.bytes.length then x.bytes.getD (k - key) 0 else sget s.mm.scratch k) ∧
    ∀ pa va attr page key, x.place = .global pa va attr page → x.view = 0 → attr = 1 ∨ (attr = 0 ∧ (x.scope = .dev ∨ x.scope = .sys)) →
      keyOf s (s.party g).tenancy = some key → sectorFails s pa = false → flitFails s pa = false →
      ∃ t g1 p1, exec (.storeAcknowledge g.gid p.idx i) s = .next t ∧ t.split? g.gid p.idx = some (g1, p1) ∧
        p1.buffer = p.buffer.filter (fun y => y != x) ∧ t.mm.scratch = s.mm.scratch ∧
        ∀ k, dramByte t key k = if pa ≤ k ∧ k < pa + x.bytes.length then x.bytes.getD (k - pa) 0 else dramByte s key k

/-! ## Synchronisation and system instructions -/

/-- Each of these splits is named once, and none of them owes a MEM_ABORT or a STEP trap when it goes on. -/
def Calm (s : State) (ps : List (Nat × Nat)) : Prop :=
  ps.Nodup ∧ ∀ x ∈ ps, ∀ g q, s.split? x.1 x.2 = some (g, q) → q.abort = none ∧ q.trapStep = false

/-- From `s` to `t`, each of these parked splits goes on at its continuation, with its group's registers as they were. -/
def Released (s t : State) (ps : List (Nat × Nat)) : Prop :=
  ∀ x ∈ ps, ∀ g q, s.split? x.1 x.2 = some (g, q) →
    ∃ g1 q1, t.split? x.1 x.2 = some (g1, q1) ∧ g1 = { g with splits := g1.splits } ∧ q1.pc = q.next ∧ q1.sig = q.nextSig ∧ q1.park = .none ∧
      q1.active = q.active ∧ q1.st = stateAfter q.nextEbb g q

/-- The instruction parks its split, at its own word, in the given state, to go on at `next`; no register and no memory changes. -/
def Parks (i : Instr) (e : Bool) (st : SplitState) (pk : Park) (next : Pc) (s : State) (g : Group) (p : Split) : Prop :=
  ∃ t g1 p1, exec i s = .next t ∧ t.mm = s.mm ∧ t.split? g.gid p.idx = some (g1, p1) ∧ g1 = { g with splits := g1.splits } ∧ p1.pc = p.pc ∧
    p1.active = p.active ∧ p1.st = st ∧ p1.park = pk ∧ p1.next = next ∧ p1.nextEbb = e

/-- BAR, CBAR and VCOMMIT (R197, R198, R254, R258), once the fence each contains is done: an arrival that clashes raises BARRIER; one that
leaves a live lane of a group of the block, or of the cohort for CBAR, outside parks; the one that completes the barrier lets every parked
split go on after its own instruction. CBAR in a rival, and VCOMMIT where no checkpoint or commit is due, raise VIEW_STATE.
Log entry 35 gives the model's readings. -/
def Obligations.Barriers : Prop :=
  ∀ (s : State) (g : Group) (p : Split) (e : Bool) (k : BitVec 4) (b : Block) (s1 : State) (g1 : Group) (p1 : Split), Ready s g p →
    s1.split? g.gid p.idx = some (g1, p1) → s1.block? g1.bid = some b → g1.gid = g.gid → p1.idx = p.idx →
    let arrives := fun (i : Instr) (n : Nat) (sc : Scope) => fenceBoth s g.gid p.idx sc = (s1, .done) →
      let s2 := parkTo i e .bar (.barrier n) (p1.pc + 4) s1 g1 p1
      let ps := parkedAt (groupsOfAll s2 (barrierBlocks s2 b n)) n
      (barrierClash g1 p1 n = true → exec i s = .next (raiseAt (issued s1 g1) g1.gid p1.idx p1.pc (.mk' 0x15 p1.active (BitVec.ofNat 64 n)) false)) ∧
      (barrierClash g1 p1 n = false →
        (barrierMet s2 (barrierBlocks s2 b n) n = false → exec i s = .next s2) ∧
        (barrierMet s2 (barrierBlocks s2 b n) n = true → n = 16 ∨ checkpoints s2 b = false → n ≠ 17 ∨ b.view = 0 → Calm s2 ps →
          ∃ t, exec i s = .next t ∧ t.mm = s2.mm ∧ Released s2 t ps))
    arrives (.bar e k) k.toNat .blk ∧
    (inRival s g = false → arrives (.cbar e) 16 .clu) ∧
    (inRival s g = true → Traps (.cbar e) s g p (.mk' 0x0F p.active 0)) ∧
    ∀ b0, s.block? g.bid = some b0 →
      let due := b0.forkRec.isNone && (s.modeOf b0 == 1 || (s.modeOf b0 == 2 && !b0.committed))
      (due = true → arrives (.vcommit e) 17 .blk ∧
        (fenceBoth s g.gid p.idx .blk = (s1, .done) → barrierClash g1 p1 17 = false →
          let s2 := parkTo (.vcommit e) e .bar (.barrier 17) (p1.pc + 4) s1 g1 p1
          let ps := parkedAt (groupsOfAll s2 [b]) 17
          ∀ s3 s4 b4, barrierMet s2 [b] 17 = true → checkpoints s2 b = false → b.view ≠ 0 → (s2.view? b.view).bind (·.commit) = none →
            enginesIdle s2 b = true → verifyView s2 b b.view = (s3, .ready) →
            advanceCommit ((commitStore s3 b b.view 0).mapBlock b.bid (fun x => { x with committed := true })) b b.view = (s4, true) →
            s4.block? b.bid = some b4 → b4.committed = true → Calm s4 ps →
            ∃ t b5, exec (.vcommit e) s = .next t ∧ t.mm = s4.mm ∧ Released s4 t ps ∧ t.block? b.bid = some b5 ∧ b5 = { b4 with view := 0 })) ∧
      (due = false → Traps (.vcommit e) s g p (.mk' 0x0F p.active 0))

/-- The address of an object's barrier passes its checks, its segment is the block's own, nothing of the split is left to perform, and
nothing pins it: `key` is its place, `o` its fields (R200, R202). -/
structure AtObject (s : State) (g : Group) (p : Split) (la key : Nat) (b : Block) : Prop where
  block : s.block? g.bid = some b
  checks : localTrap s b true 16 [(lowest p.active, la)] = none
  own : ownAt s b la = some s
  place : keyAt s b la = some key
  done : NothingOlder g
  free : pinned s (.pool key) 16 = false
  clean : linesToClean s (s.party g) .clu = []

/-- Barrier objects (R199 to R204): BINIT writes every field; BARV adds to BYTES, takes one from ARRIVE and gives the PHASE, and completes
the phase where both reach 0; BWAIT and YIELD go on where the phase has passed, and park and are counted where it has not. Where the
object is not usable, or a count cannot be taken, they raise BARRIER at its address. No other byte of any memory changes.
Log entry 63 gives the model's readings. -/
def Obligations.BarrierObjects : Prop :=
  ∀ (s : State) (g : Group) (p : Split) (e : Bool) (b : Block) (key : Nat), Ready s g p →
    let writes := fun (t : State) (o : Barrier) => readBarrier t key = o ∧ t.mm.mem = s.mm.mem ∧
      ∀ k, k < key ∨ key + 16 ≤ k → sget t.mm.scratch k = sget s.mm.scratch k
    let o := readBarrier s key
    let stops := fun (i : Instr) (la : Nat) =>
      Traps i s g p (.mk' 0x15 p.active (BitVec.ofNat 64 la))
    (∀ d a c : Src, srcOk g d && srcOk g a && srcOk g c = true →
      let la := (srcVal g a (lowest p.active)).toNat
      let n := (srcVal g c (lowest p.active)).toNat
      AtObject s g p la key b →
      (0 < n ∧ n ≤ 65535 ∧ o.waiters = 0 →
        Retires (.binit e d a c) s g g p (nextSplit (.binit e d a c) e s g p) (fun t =>
          writes t { bytes := (srcVal g d (lowest p.active)).toNat, arrive := n, phase := 0, expect := n, flags := 1, waiters := 0 })) ∧
      (n = 0 ∨ 65535 < n ∨ o.waiters ≠ 0 → stops (.binit e d a c) la)) ∧
    (∀ (d : RegNum) (a c : Src), uniDstOk g d && srcOk g a && srcOk g c = true →
      let la := (srcVal g a (lowest p.active)).toNat
      let n := o.bytes + (srcVal g c (lowest p.active)).toNat
      AtObject s g p la key b →
      (o.usable = true ∧ 0 < o.arrive ∧ n < 2 ^ 32 →
        (¬ (o.arrive = 1 ∧ n = 0) →
          ∃ g1, Retires (.barv e d a c) s g g1 p (nextSplit (.barv e d a c) e s g p) (fun t =>
              writes t { o with bytes := n, arrive := o.arrive - 1 }) ∧
            g1 = writeUni g p d (BitVec.ofNat 32 o.phase)) ∧
        (o.arrive = 1 ∧ n = 0 → objectWaiters s key = [] →
          ∃ g1, Retires (.barv e d a c) s g g1 p (nextSplit (.barv e d a c) e s g p) (fun t =>
              writes t { o with bytes := 0, arrive := o.expect, phase := (o.phase + 1) % 65536, waiters := 0 }) ∧
            g1 = writeUni g p d (BitVec.ofNat 32 o.phase))) ∧
      (o.usable = false ∨ o.arrive = 0 ∨ 2 ^ 32 ≤ n → stops (.barv e d a c) la)) ∧
    (Calm s ((objectWaiters s key).map (fun w => (w.1, w.2.1.idx))) →
      Released s (completeObject s key) ((objectWaiters s key).map (fun w => (w.1, w.2.1.idx)))) ∧
    ∀ (c : BitVec 3) (j : BitVec 21) (a d : Src),
      let waits := fun (i : Instr) (st : SplitState) (la : Nat) (token : Word) (target : Pc) =>
        (o.usable = true → o.phase ≠ token.toNat % 65536 → RetiresOnly i e target s g p) ∧
        (o.usable = true → o.phase = token.toNat % 65536 → o.waiters + 1 < 2 ^ 32 →
          ∃ t g1 p1, exec i s = .next t ∧ writes t { o with waiters := o.waiters + 1 } ∧ t.split? g.gid p.idx = some (g1, p1) ∧
            g1 = { g with splits := g1.splits } ∧ p1.pc = p.pc ∧ p1.st = st ∧ p1.park = .object la ∧ p1.next = target) ∧
        (o.usable = false → stops i la)
      (srcOk g a && srcOk g d = true → AtObject s g p (srcVal g a (lowest p.active)).toNat key b →
        waits (.bwait e a d) .bwait (srcVal g a (lowest p.active)).toNat (srcVal g d (lowest p.active)) (pcAfter (.bwait e a d) p)) ∧
      (AtObject s g p (readReg g (96 + c.toNat) 0).toNat key b →
        waits (.yield e c j) .yield (readReg g (96 + c.toNat) 0).toNat (readReg g (97 + c.toNat) 0) (p.pc + (j.signExtend 48 <<< 2)))

/-- FENCE (R206, R274): with the split's older stores performed, its loads done and nothing to clean, each form retires, and `.sc` marks the
copies filled before it. A release that is done at scope c leaves the split no buffered store of its own, its core no dirty L1 line of a
narrower scope, and, at DEV and SYS, its cluster no dirty L2 sector of the partition; CLOCK has then reached every completion time kept.
Log entries 24 and 25 give the model's readings. -/
def Obligations.Fences : Prop :=
  (∀ (s : State) (g : Group) (p : Split) (e : Bool) (c : Scope), Ready s g p → loadsPerformed g p = true →
    RetiresOnly (.fence e .acq c) e (p.pc + 4) s g p ∧
    (bufferOf g p = [] → coveredError p c = none → linesToClean s (s.party g) c = [] → homeward s (s.party g) c = [] → p.gwct ≤ s.clock →
      RetiresOnly (.fence e .rel c) e (p.pc + 4) s g p ∧ RetiresOnly (.fence e .ar c) e (p.pc + 4) s g p ∧
      Retires (.fence e .sc c) s g g p
        (nextSplit (.fence e .sc c) e s g
          { p with scClu := if c = .blk then p.scClu else s.seq + 1, scDev := if c = .dev ∨ c = .sys then s.seq + 1 else p.scDev }) (GroupsOnly s))) ∧
  ∀ (s t : State) (gid i : Nat) (sc : Scope) (g : Group) (p : Split), releaseAt s gid i sc = (t, .done) → t.split? gid i = some (g, p) →
    bufferOf g p = [] ∧ (sc ≠ .blk → p.gwct ≤ t.clock) ∧
    (∀ x ∈ t.mm.l1, x.cluster = (t.party g).cluster → x.core = (t.party g).core → sc ≠ .blk → x.scope = .blk ∨ x.scope = .clu → x.dirty = 0) ∧
    ∀ x ∈ t.mm.l2, sc = .dev ∨ sc = .sys → x.cluster = (t.party g).cluster → x.part = (t.party g).part → x.dirty = 0

/-- REGREQ and REGREL (R27, R28, R207, R208): a count that is no multiple of 8 from 8 to 96 is illegal; a request for no more than the group has
retires; one for more is granted where the core has room, no group of it is evicted and it resolves no deadlock, and parks the split with the new
registers outstanding where the core has no room, or where registers that an eviction freed are for another requester; a release to
fewer drops the registers above, which then read 0.
Log entry 73 gives the model's readings. -/
def Obligations.RegisterCounts : Prop :=
  ∀ (s : State) (g : Group) (p : Split) (e : Bool) (n : BitVec 7), Ready s g p →
    let P := s.party g
    (countOk n = false → Traps (.regreq e n) s g p (.mk' 0x02 p.active 0) ∧ Traps (.regrel e n) s g p (.mk' 0x02 p.active 0)) ∧
    (countOk n = true → n.toNat ≤ g.count → RetiresOnly (.regreq e n) e (p.pc + 4) s g p) ∧
    (countOk n = true → g.count < n.toNat → g.req ≤ n.toNat → (∀ q ∈ g.splits, q.idx ≠ p.idx → q.st ≠ .regreq) →
      let s2 := parkTo (.regreq e n) e .regreq .none (p.pc + 4) s { g with req := n.toNat }
        { p with outst := p.outst ||| regRange g.count (n.toNat - g.count) }
      let mine := (lowestRequester s2 (coreGroups s2 P.cluster P.core)).all (fun x => x.gid == g.gid)
      let kept := evictedHere s P.cluster P.core = true ∨ inDeadlock s P.cluster P.core = true
      (n.toNat - g.count ≤ freeRegs s P.cluster P.core → ¬ kept →
        ∃ t g1 p1, exec (.regreq e n) s = .next t ∧ t.mm = s.mm ∧ t.split? g.gid p.idx = some (g1, p1) ∧
          g1 = { g with splits := g1.splits, count := n.toNat, req := 0 } ∧ p1.pc = p.pc + 4 ∧ p1.park = .none ∧
          p1.outst = p.outst &&& ~~~ regRange g.count (n.toNat - g.count)) ∧
      (freeRegs s P.cluster P.core < n.toNat - g.count ∨ (kept ∧ mine = false) →
        ∃ t g1 p1, exec (.regreq e n) s = .next t ∧ t.mm = s.mm ∧ t.split? g.gid p.idx = some (g1, p1) ∧
          g1 = { g with splits := g1.splits, req := n.toNat } ∧ p1.pc = p.pc ∧ p1.st = .regreq ∧ p1.next = p.pc + 4 ∧
          p1.outst = p.outst ||| regRange g.count (n.toNat - g.count))) ∧
    (countOk n = true → g.count ≤ n.toNat → RetiresOnly (.regrel e n) e (p.pc + 4) s g p) ∧
    (countOk n = true → n.toNat < g.count → (∀ q ∈ g.splits, q.outst &&& regRange n.toNat (g.count - n.toNat) = 0) →
      ∃ g1, Retires (.regrel e n) s g g1 p (nextSplit (.regrel e n) e s g p) (GroupsOnly s) ∧ g1 = { g with count := n.toNat, v := g1.v } ∧
        ∀ r l, l < 32 → readReg g1 r l = if n.toNat ≤ r ∧ r < g.count ∧ r < 96 then 0 else readReg g r l)

/-- SETFMT writes one field of FMT, or all of it, and refuses a value above the field or a reserved one (R37, R209). SIGX exchanges SIG and
the source without hashing its own word; SIGCHK that finds the signature clears SIG, and otherwise raises SIGMISMATCH; in user mode every
other word is hashed into SIG, as NOP shows (R210, R214, R377).
Log entry 49 gives the model's readings. -/
def Obligations.FormatSignature : Prop :=
  ∀ (s : State) (g : Group) (p : Split) (e : Bool) (o : FmtField) (d : RegNum) (a : Src), Ready s g p →
    let x := srcVal g a (lowest p.active)
    (srcOk g a = true →
      (∀ w, setFmt p.fmt o x = some w →
        Retires (.setfmt e o a) s g g p (nextSplit (.setfmt e o a) e s g { p with fmt := w }) (GroupsOnly s)) ∧
      (setFmt p.fmt o x = none → Traps (.setfmt e o a) s g p (.mk' 0x02 p.active 0)) ∧
      (p.sig = x → Retires (.sigchk e a) s g g p (retiredSplit e (pcAfter (.sigchk e a) p) 0 s g p) (GroupsOnly s)) ∧
      (p.sig ≠ x → Traps (.sigchk e a) s g p (.mk' 0x12 p.active (p.sig.setWidth 64))) ∧
      (uniDstOk g d = true →
        Retires (.sigx e d a) s g (writeUni g p d p.sig) p (retiredSplit e (pcAfter (.sigx e d a) p) x s g p) (GroupsOnly s))) ∧
    (∀ w, setFmt p.fmt .rm w = (if w.toNat ≤ 4 ∧ fmtOk (putField p.fmt 0 3 w) = true then some ((p.fmt &&& 0xFFFFFFF8) ||| w) else none)) ∧
    RetiresOnly (.nop e) e (p.pc + 4) s g p ∧
    (g.mode = false → sigAfter (.nop e) g p =
      let h := (p.sig.rotateLeft 7 ^^^ encodeWord (.nop e)) * 0x2c1b3c6d
      h ^^^ (h >>> 15))

/-- MFSR (R35 to R42): each register of the map is read as its value in the lane, to a register or an even pair; a number outside the map, or
a destination that does not exist, is illegal, and a supervisor register in user mode raises PRIVILEGE. CLOCK is left outstanding with
its value at issue, where d is `zero` too (DEDUCED, log entry 62). -/
def SpecialReads : Prop :=
  ∀ (s : State) (g : Group) (p : Split) (e : Bool) (d : RegNum) (i : BitVec 8), Ready s g p →
    let sg := sigAfter (.mfsr e d i) g p
    let v := fun l => readSpecial s g p sg i.toNat l
    (specialInfo i.toNat = none → Traps (.mfsr e d i) s g p (.mk' 0x02 p.active 0)) ∧
    (∀ x, specialInfo i.toNat = some x →
      (g.mode = false → x.user = 0 → Traps (.mfsr e d i) s g p (.mk' 0x03 p.active 0)) ∧
      (g.mode = true ∨ x.user ≠ 0 → (if x.words = 2 then uniDst64Ok g d else uniDstOk g d) = false →
        Traps (.mfsr e d i) s g p (.mk' 0x02 p.active 0)) ∧
      (g.mode = true ∨ x.user ≠ 0 → (if x.words = 2 then uniDst64Ok g d else uniDstOk g d) = true → i.toNat ≠ 0x18 →
        ∃ g1, Retires (.mfsr e d i) s g g1 p (nextSplit (.mfsr e d i) e s g p) (GroupsOnly s) ∧
          g1 = { g with v := g1.v, s := g1.s, k := g1.k } ∧
          ∀ r l, l < 32 →
            let at' := if d.toNat < 96 then l else lowest p.active
            readReg g1 r l =
              if 126 ≤ d.toNat ∨ (d.toNat < 96 ∧ laneIn p.active l = false) then readReg g r l
              else if r = d.toNat then (v at').setWidth 32
              else if x.words = 2 ∧ r = d.toNat + 1 then (v at' >>> 32).setWidth 32
              else readReg g r l)) ∧
    (i.toNat = 0x18 → uniDst64Ok g d = true →
      ∃ parts, Retires (.mfsr e d i) s g { g with pending := g.pending ++ [owed (s.viewOf g) (if d = 126 then regRange 126 1 else regRange d.toNat 2) parts s g p] } p
          (nextSplit (.mfsr e d i) e s g (owingSplit (if d = 126 then regRange 126 1 else regRange d.toNat 2) s g p)) (GroupsOnly s) ∧
        parts.map (fun r => (r.dests, r.vals)) =
          if d = 126 then [([], []), ([], [])]
          else [(uniDests g p d.toNat, [BitVec.ofNat 32 s.clock]), (uniDests g p (d.toNat + 1), [BitVec.ofNat 32 (s.clock / 2 ^ 32)])]) ∧
    let b := blockD s g
    (∀ l, v l = if i.toNat = 0 then BitVec.ofNat 64 l else if i.toNat = 1 then BitVec.ofNat 64 (l / 4)
      else if i.toNat = 2 then BitVec.ofNat 64 g.index else if i.toNat = 3 then b.index.setWidth 64 else if i.toNat = 4 then b.x.setWidth 64
      else if i.toNat = 5 then b.y.setWidth 64 else if i.toNat = 6 then b.z.setWidth 64
      else if i.toNat = 7 then BitVec.ofNat 64 ((16 * b.cohort + b.member) % 2 ^ 32)
      else if i.toNat = 8 then ((s.launch? b.lid).map (·.seq)).getD 0
      else if i.toNat = 0x10 then BitVec.ofNat 64 (p.idx + 4 * p.depth + 256 * (g.splits.length - 1))
      else if i.toNat = 0x11 then BitVec.ofNat 64 b.rival
      else if i.toNat = 0x12 then BitVec.ofNat 64 (b.view + 2 ^ 12 * ((s.view? b.view).map (·.depth)).getD 0 + 2 ^ 16 * (s.modeOf b).toNat)
      else if i.toNat = 0x13 then BitVec.ofNat 64 ((s.queueOfBlock b).tenancy % 256 + 256 * ((s.queueOfBlock b).asid % 4096))
      else if i.toNat = 0x18 then BitVec.ofNat 64 s.clock
      else if i.toNat = 0x20 then p.fmt.setWidth 64 else if i.toNat = 0x21 then g.fcsr.setWidth 64
      else if i.toNat = 0x22 then (sget g.fflags l).setWidth 64 else if i.toNat = 0x28 then g.gang
      else if i.toNat = 0x29 then BitVec.ofNat 64 (g.count + 256 * g.req) else if i.toNat = 0x2A then sg.setWidth 64
      else if i.toNat = 0x2B then g.replays.setWidth 64 else if i.toNat = 0x30 then g.trapCause.setWidth 64
      else if i.toNat = 0x31 then g.trapPc else if i.toNat = 0x32 then g.trapMask.setWidth 64
      else if i.toNat = 0x33 then g.trapAddr else if i.toNat = 0x34 then g.saveBase else if i.toNat = 0x35 then g.tvec
      else if i.toNat = 0x36 then BitVec.ofNat 64 (g.mode.toNat + 2 * g.pmode.toNat + 4 * g.step.toNat)
      else if 0x40 ≤ i.toNat ∧ i.toNat ≤ 0x47 then (sget g.s (i.toNat - 42)).setWidth 64 else v l)

/-- MTSR (R35 to R42): FCSR, FFLAGS, SIG, REPLAYS, GANG, FMT, the trap registers, SAVEBASE, TVEC, PRIVST and the user bank of s22 to s29
take the written value where its reserved bits are 0; MODE does not change. A register that only reads is illegal to write, and a
supervisor register in user mode raises PRIVILEGE. -/
def SpecialWrites : Prop :=
  ∀ (s : State) (g : Group) (p : Split) (e : Bool) (a : Src) (i : BitVec 8), Ready s g p →
    let n := i.toNat
    let retires := fun (g1 : Group) (p1 : Split) => Retires (.mtsr e a i) s g g1 p (nextSplit (.mtsr e a i) e s g p1) (GroupsOnly s)
    let bad := fun (c : Nat) => Traps (.mtsr e a i) s g p (.mk' c p.active 0)
    let w := srcVal g a (lowest p.active)
    let v := srcVal64 g a (lowest p.active)
    (specialInfo n = none → bad 0x02) ∧
    (g.mode = false → 0x30 ≤ n → n ≤ 0x36 ∨ (0x40 ≤ n ∧ n ≤ 0x47) → bad 0x03) ∧
    (n ≤ 0x08 ∨ (0x10 ≤ n ∧ n ≤ 0x13) ∨ n = 0x18 ∨ n = 0x29 ∨ (n = 0x2A ∧ g.mode = false) → bad 0x02) ∧
    (srcOk g a = true →
      (n = 0x20 → fmtOk w = true → retires g { p with fmt := w }) ∧ (n = 0x20 → fmtOk w = false → bad 0x02) ∧
      (n = 0x21 → w.toNat < 32 → retires { g with fcsr := w.setWidth 5 } p) ∧ (n = 0x21 → 32 ≤ w.toNat → bad 0x02) ∧
      (n = 0x22 → ∃ g1, retires g1 p ∧ g1 = { g with fflags := g1.fflags } ∧
        ∀ l, sget g1.fflags l = if l < 32 ∧ laneIn p.active l = true then (srcVal g a l).setWidth 5 else sget g.fflags l) ∧
      (n = 0x2A → g.mode = true → ∃ p1, retires g p1 ∧ p1 = { p with sig := w }) ∧
      (n = 0x2B → retires { g with replays := w } p) ∧
      (g.mode = true →
        (n = 0x30 → w &&& 0xFFFF00C0 = 0 → retires { g with trapCause := w } p) ∧ (n = 0x30 → w &&& 0xFFFF00C0 ≠ 0 → bad 0x02) ∧
        (n = 0x32 → retires { g with trapMask := w } p) ∧
        (n = 0x36 → w.toNat < 8 → retires { g with pmode := w.getLsbD 1, step := w.getLsbD 2 } p) ∧ (n = 0x36 → 8 ≤ w.toNat → bad 0x02) ∧
        (0x40 ≤ n → n ≤ 0x47 → retires { g with s := sset g.s (n - 42) w } p))) ∧
    (src64Ok g a = true →
      (n = 0x28 → v &&& 0xFFFFFFC0000000F8 = 0 → v.toNat % 8 ≠ 0 → v.toNat % 8 ≠ 7 → gangOk s g v = true → retires { g with gang := v } p) ∧
      (n = 0x28 → v &&& 0xFFFFFFC0000000F8 ≠ 0 ∨ v.toNat % 8 = 0 ∨ v.toNat % 8 = 7 ∨ gangOk s g v = false → bad 0x02) ∧
      (g.mode = true →
        (n = 0x31 → v.toNat < 2 ^ 48 → retires { g with trapPc := v } p) ∧ (n = 0x31 → 2 ^ 48 ≤ v.toNat → bad 0x02) ∧
        (n = 0x33 → retires { g with trapAddr := v } p) ∧
        (n = 0x34 → v.toNat % 256 = 0 → v.toNat < 2 ^ 48 → retires { g with saveBase := v } p) ∧
        (n = 0x35 → v.toNat % 256 = 0 → v.toNat < 2 ^ 48 → retires { g with tvec := v } p) ∧
        (n = 0x34 ∨ n = 0x35 → v.toNat % 256 ≠ 0 ∨ 2 ^ 48 ≤ v.toNat → bad 0x02)))

/-- Every special register that is read, and every one that is written, as the two statements above say (R35 to R42).
Log entry 12 gives the model's readings. -/
def Obligations.SpecialRegisters : Prop := SpecialReads ∧ SpecialWrites

/-- TRAP, BKPT, a word of no assigned slot, and RTE (R65, R212, R213): TRAP k raises SOFTWARE with k, BKPT k BREAKPOINT with k where the block
is not debugged, and stops the splits that a debugger watches where it is; an unassigned word raises ILLEGAL_OP. RTE in user mode raises
PRIVILEGE; in supervisor mode, outside the save routines, it returns to TRAPPC in the mode of PMODE, lets the stopped splits go on, one in EBB
whose results have returned among them, and changes no other register.
Log entry 61 gives the model's readings. -/
def Obligations.SoftwareTraps : Prop :=
  ∀ (s : State) (g : Group) (p : Split) (e : Bool) (k : BitVec 16) (w : Word), Ready s g p →
    Traps (.trap e k) s g p (.mk' 0x16 p.active (k.setWidth 64)) ∧
    Traps (.illegalOp w) s g p (.mk' 0x01 p.active 0) ∧
    (((s.block? g.bid).map (·.debug)).getD false = false → Traps (.bkpt e k) s g p (.mk' 0x17 p.active (k.setWidth 64))) ∧
    (((s.block? g.bid).map (·.debug)).getD false = true → p.stepOne = true → RetiresOnly (.bkpt e k) e (p.pc + 4) s g p) ∧
    (((s.block? g.bid).map (·.debug)).getD false = true → p.stepOne = false →
      ∃ t g1 p1, exec (.bkpt e k) s = .next t ∧ t.mm = s.mm ∧ t.split? g.gid p.idx = some (g1, p1) ∧ p1.st = .stop ∧ p1.pc = p.pc ∧
        ∀ j q, g1.split? j = some q → q.stopReq = true) ∧
    (g.mode = false → Traps (.rte e) s g p (.mk' 0x03 p.active 0)) ∧
    (g.mode = true → g.trapCause.toNat % 64 ≠ 0x19 → g.trapPc.toNat % 4 ≠ 0 → Traps (.rte e) s g p (.mk' 0x04 p.active g.trapPc)) ∧
    (g.mode = true → g.trapCause.toNat % 64 ≠ 0x19 → g.trapPc.toNat % 4 = 0 → g.trapCause.toNat / 256 % 4 = p.idx →
      p.keptAbort = none → (∀ q ∈ g.splits, q.st = .ebb → q.outst = 0 → q.abort = none ∧ q.stepDue = false) →
      ∃ t g1 p1, exec (.rte e) s = .next t ∧ t.mm = s.mm ∧ t.split? g.gid p.idx = some (g1, p1) ∧
        g1 = { g with splits := g1.splits, mode := g.pmode } ∧ p1.pc = g.trapPc.setWidth 48 ∧ p1.active = p.active ∧ p1.fmt = p.fmt ∧
        p1.sig = p.sig ∧ p1.trapStep = g.step ∧ p1.frozen = false ∧
        ∀ j q, j ≠ p.idx → g.split? j = some q →
          (q.st ≠ .ebb ∨ q.outst ≠ 0 → g1.split? j = some { q with frozen := false }) ∧
          (q.st = .ebb → q.outst = 0 → j < 4 → ∃ q1, g1.split? j = some q1 ∧ q1.pc = q.pc ∧ q1.active = q.active ∧ q1.frozen = false ∧
            q1.st = runState g1 { q with frozen := false }))

/-- SLEEP, WAIT and what ends them (R186, R214, R30): SLEEP 0 retires; any other parks until CLOCK has passed that many ticks. WAIT of a
readable word that differs from the operand retires, and of one that does not parks on its sector, until a write there or its timeout: none where d is
the register `zero`, else as many ticks as d holds, 0 among them. The word is the one at its home, the party's own copies having given way.
Log entry 74 gives the model's readings. -/
def Obligations.WaitsSleeps : Prop :=
  ∀ (s : State) (g : Group) (p : Split) (e w : Bool) (d a b : Src), Ready s g p →
    (srcOk g a = true →
      let x := (srcVal g a (lowest p.active)).toNat
      (x = 0 → RetiresOnly (.sleep e a) e (pcAfter (.sleep e a) p) s g p) ∧
      (x ≠ 0 → Parks (.sleep e a) e .wait (.sleep (s.clock + x)) (pcAfter (.sleep e a) p) s g p)) ∧
    (srcOk g d && baseOk g a && (if w then src64Ok g b else srcOk g b) = true → ∀ (s1 : State) (x : Nat × Nat × Leaf) (bs : List Byte),
      let n := if w then 8 else 4
      let pa := x.2.2.pa
      let limit := if d = .reg 126 then none else some (srcVal g d (lowest p.active)).toNat
      let s2 := settleCopies s1 (s.party g) pa
      FindsAll s p (s.party g) .load true false n [(lowest p.active, (srcVal64 g a (lowest p.active)).toNat)] s1 [x] → NothingOlder g →
      NothingHolds s1 (s.party g) pa n → s2.split? g.gid p.idx = some (g, p) →
      (if x.2.2.attr = 2 then extRead s2 (s2.party g) pa n else homeSees s2 (s2.party g) pa n) = some bs →
      (x.2.2.attr ≠ 2 → ∀ key, AtHome s1 (s.party g) pa n key → bs = (List.range n).map (fun k => dramByte s1 key (pa + k))) ∧
      (bs ≠ wholeData g p b w →
        ∃ t g1 p1, exec (.wait e w d a b) s = .next t ∧ t.mm = s2.mm ∧ t.split? g.gid p.idx = some (g1, p1) ∧
          g1 = { g with splits := g1.splits } ∧ p1 = nextSplit (.wait e w d a b) e s2 g p) ∧
      (bs = wholeData g p b w →
        ∃ t g1 p1, exec (.wait e w d a b) s = .next t ∧ t.mm = s2.mm ∧ t.split? g.gid p.idx = some (g1, p1) ∧
          g1 = { g with splits := g1.splits } ∧ p1.pc = p.pc ∧ p1.st = .wait ∧ p1.next = pcAfter (.wait e w d a b) p ∧
          p1.park = .word (localOf s2 pa / 64) false (limit.map (fun ticks => s2.clock + ticks)))) ∧
    ∀ (gid sp : Nat) (q : Split) (h : Group), s.split? gid sp = some (h, q) → q.abort = none → q.trapStep = false →
      let goes := fun (i : Instr) => ∃ t, exec i s = .next t ∧ t.mm = s.mm ∧ Released s t [(gid, sp)]
      (∀ n, q.park = .sleep n → n ≤ s.clock → goes (.sleepExpiry gid sp)) ∧
      (∀ sec lim, q.park = .word sec true lim → goes (.waitWake gid sp)) ∧
      ∀ sec hit n, q.park = .word sec hit (some n) → n ≤ s.clock → goes (.waitTimeout gid sp)

/-- The child packet of a LAUNCH joins the raft of its queue (R315): the first open window with its descriptor, priority and parameter size that keeps
the merged block count at most 2^32, which closes with its 256th child; else a new window of its own, for which the oldest of 16 closes first. A window
that closes becomes one launch of its queue, logged as accepted, under the next value of the raft counter. -/
def RaftJoins : Prop :=
  ∀ (s : State) (qn : Nat) (k : Kernel) (prio psize : Nat) (c : Child) (before after : List RaftWindow),
    let t := raftJoin s qn k prio psize c
    let fits := fun (w : RaftWindow) => w.q = qn ∧ w.kdesc = k.addr ∧ w.prio = prio ∧ w.psize = psize ∧
      (w.children.map (fun x => x.x * x.y * x.z)).sum + c.x * c.y * c.z ≤ 2 ^ 32
    let closes := fun (w : RaftWindow) => ∃ l e, t.fe.launches = s.fe.launches ++ [l] ∧ t.fe.log = s.fe.log ++ [e] ∧ e.kind = .launch l.lid ∧
      e.q = w.q ∧ e.seq = l.seq ∧ l.q = w.q ∧ l.seq = (s.queue w.q).raftCount ∧ (t.queue w.q).raftCount = (s.queue w.q).raftCount + 1 ∧
      l.kernel = w.kernel ∧ l.prio = w.prio ∧ l.children = w.children ∧ l.started = false ∧ l.nextBlock = 0 ∧
      (l.dimx, l.dimy, l.dimz) = ((w.children.map (fun x => x.x * x.y * x.z)).sum, 1, 1)
    let fresh : RaftWindow := { q := qn, kdesc := k.addr, kernel := k, prio, psize, first := s.clock, children := [c] }
    (∀ w, s.fe.raft = before ++ w :: after → fits w → (∀ y ∈ before, ¬ fits y) →
      let w1 := { w with children := w.children ++ [c] }
      w ∉ before ++ after → w1 ∉ before ++ after →
      (w1.children.length < 256 → t.fe.raft = before ++ w1 :: after ∧ t.fe.launches = s.fe.launches) ∧
      (256 ≤ w1.children.length → t.fe.raft = before ++ after ∧ closes w1)) ∧
    ((∀ y ∈ s.fe.raft, ¬ fits y) →
      ((s.fe.raft.filter (fun y => y.q == qn)).length < 16 → t.fe.raft = s.fe.raft ++ [fresh] ∧ t.fe.launches = s.fe.launches) ∧
      ∀ w, s.fe.raft = before ++ w :: after → w.q = qn → (∀ y ∈ before, y.q ≠ qn) → w ∉ after →
        16 ≤ (s.fe.raft.filter (fun y => y.q == qn)).length → t.fe.raft = before ++ after ++ [fresh] ∧ closes w)

/-- LAUNCH and SEND, with every effect on the raft, the event ring and the outbox (R215, R216, R251, R315). -/
def ChildrenRecords : Prop :=
  ∀ (s : State) (g : Group) (p : Split) (e : Bool) (a b : Src), Ready s g p →
    let l := lowest p.active
    let blk := blockD s g
    let who := g.index + 32 * p.idx + 128 * blk.rival
    let posts := fun (i : Instr) (op : OutboxOp) =>
      (outboxRoom s blk.view 1 = true →
        Retires i s g g p (nextSplit i e s g p) (fun t => ∃ x y, s.view? blk.view = some x ∧ t.view? blk.view = some y ∧
          y.outbox = x.outbox ++ [{ op, bid := g.bid, gid := g.gid }])) ∧
      (outboxRoom s blk.view 1 = false → Traps i s g p (.mk' 0x0D p.active 0))
    (baseOk g a && srcOk g b = true →
      (blk.view ≠ 0 → posts (.launch e a b) (.launch (srcVal64 g a l).toNat (srcVal g b l).toNat)) ∧
      (blk.view = 0 → ∀ (s1 : State) (oks : List (Nat × Nat × Leaf)) (bs : List Byte),
        let addr := (srcVal64 g a l).toNat
        let len := (srcVal g b l).toNat
        len = 64 ∨ len = 128 ∨ len = 192 ∨ len = 256 → releaseAt s g.gid p.idx .dev = (s, .done) →
        FindsAll s p (s.party g) .load true false 64 ((List.range (len / 64)).map (fun j => (32 + j, addr + 64 * j))) s1 oks → readPacket s1 (s.party g) oks = .ok bs →
        (childOk s1 (s.party g).tenancy len bs = true → ∀ k, kernelAt s1 (s1.queueOfBlock (blockD s1 g)).tenancy (field bs 16 8) = some k →
          let q := s1.queueOfBlock (blockD s1 g)
          let n := packetDims (some k) bs
          let s2 := raftJoin s1 q.q k (if field bs 36 1 = 0 then q.prio.toNat else field bs 36 1) (field bs 37 1)
            { x := n.1, y := n.2.1, z := n.2.2, event := (field bs 2 2).testBit 1, params := (bs.drop 64).take (field bs 37 1), posted := false }
          s2.split? g.gid p.idx = some (g, p) →
          ∃ t g1 p1, exec (.launch e a b) s = .next t ∧ t.mm = s2.mm ∧ t.fe.launches = s2.fe.launches ∧ t.fe.raft = s2.fe.raft ∧ t.fe.log = s2.fe.log ∧
            t.fe.queues = s2.fe.queues ∧ t.split? g.gid p.idx = some (g1, p1) ∧ g1 = { g with splits := g1.splits } ∧ p1 = nextSplit (.launch e a b) e s2 g p) ∧
        (childOk s1 (s.party g).tenancy len bs = false →
          exec (.launch e a b) s = .next (raiseAt (issued s1 g) g.gid p.idx p.pc (.mk' 0x02 p.active (BitVec.ofNat 64 addr)) false)))) ∧
    (srcOk g a && srcOk g b = true →
      let code := srcVal g a l
      let pay := srcVal g b l
      (code.toNat < 0xFFFF0000 → blk.view ≠ 0 → posts (.send e a b) (.send code pay (BitVec.ofNat 32 who))) ∧
      (code.toNat < 0xFFFF0000 → blk.view = 0 → releaseAt s g.gid p.idx .sys = (s, .done) →
        let r := recordBytes code.toNat pay.toNat (((s.launch? blk.lid).map (·.seq)).getD 0) blk.index.toNat who s.clock
        ∀ s2 x, postEvent s (s.queueOfBlock blk).q r = (s2, .ok x) → s2.split? g.gid p.idx = some (g, p) →
          ∃ t g1 p1, exec (.send e a b) s = .next t ∧ t.mm = s2.mm ∧ t.fe.queues = s2.fe.queues ∧ t.split? g.gid p.idx = some (g1, p1) ∧
            g1 = { g with splits := g1.splits } ∧ p1 = nextSplit (.send e a b) e s2 g p) ∧
      (0xFFFF0000 ≤ code.toNat → (∀ x, s.launch? blk.lid = some x → x.item = none) → Traps (.send e a b) s g p (.mk' 0x02 p.active 0)))

/-- LAUNCH and SEND (R215, R216, R251, R315): in a view, each puts its operation into the view's outbox, in order, or raises VIEW_EXHAUSTED where
64 are there; outside one, after a release, LAUNCH reads the child's packet and gives it to the raft of its queue, and SEND posts its
record. A SEND of a reserved code is illegal outside a flume stage.
Log entries 17, 75, 76 and 91 give the model's readings. -/
def Obligations.LaunchSend : Prop := ChildrenRecords ∧ RaftJoins

/-- EXIT (R196): with nothing outstanding, no entry left to echo and the release done, the split's lanes leave: where other lanes of the
group live on, and no split of the block is parked, those lanes are exited for good, the split is gone, and no register or byte of memory
changes; the last lanes of a block end it, free its registers, and are recorded in its launch. With results outstanding it waits; in a save
routine it is illegal.
Log entry 35 gives the model's readings. -/
def Obligations.Exits : Prop :=
  ∀ (s : State) (g : Group) (p : Split) (e : Bool) (b : Block), Ready s g p → s.block? g.bid = some b → b.st = .running → b.evict = [] →
    b.forkRec = none →
    (g.mode = false → p.outst ≠ 0 ∨ echoLeft s g p = true → exec (.exit e) s = .next s) ∧
    (g.mode = true → g.trapCause.toNat % 64 = 0x19 → Traps (.exit e) s g p (.mk' 0x02 p.active 0)) ∧
    (g.mode = false → p.outst = 0 → echoLeft s g p = false → p.depth = 0 → releaseAt s g.gid p.idx .dev = (s, .done) →
      (g.ended = false → p.active &&& g.live ≠ g.live → (∀ h ∈ s.groupsOf b.bid, ∀ q ∈ h.splits, q.park = .none) →
        (∀ q ∈ g.splits, q.st ≠ .join) →
        ∃ t g1, exec (.exit e) s = .next t ∧ t.mm = s.mm ∧ t.group? g.gid = some g1 ∧ g1.exited = g.exited ||| p.active ∧
          g1.split? p.idx = none ∧ (∀ j, j ≠ p.idx → g1.split? j = g.split? j) ∧ g1.v = g.v ∧ g1.s = g.s ∧ g1.p = g.p) ∧
      (p.active = g.live → g.splits = [p] → s.groupsOf b.bid = [g] → b.view = 0 → s.en.copies = [] → cohortOthers s b = [] →
        ∀ l, s.launch? b.lid = some l → l.item = none →
          ∃ t l1, exec (.exit e) s = .next t ∧ t.groupsOf b.bid = [] ∧ (t.block? b.bid).map (·.st) = some .ended ∧
            t.launch? b.lid = some l1 ∧ b.index.toNat ∈ l1.done))
/-! ## Pools, copy requests, the matrix engine and views -/

/-- SALLOC (R180): refusals by rule; a full list gives 0x80000002, no room gives 0x80000001, and an allocation gives its base: whole
segments, free before, of age 0, each of whose bytes lies at the local address that R180 gives. -/
def Allocation : Prop :=
  ∀ (s : State) (g : Group) (p : Split) (e m : Bool) (d : RegNum) (a c : Src) (b : Block), Ready s g p → s.block? g.bid = some b →
    uniDstOk g d && srcOk g a && srcOk g c = true →
    let i := Instr.salloc e m d a c
    let n := (srcVal g a (lowest p.active)).toNat
    let life := (srcVal g c (lowest p.active)).toNat
    let size := (n + 511) / 512 * 512
    let owner := if m then cohortKey b else b.bid
    ((m && inRival s g) = true → Traps i s g p (.mk' 0x0F p.active 0)) ∧
    ((m && inRival s g) = false →
      (n = 0 ∨ 6291456 < n → Traps i s g p (.mk' 0x02 p.active 0)) ∧
      (0 < n → n ≤ 6291456 →
        (life = 0 ∨ 60 < life → Traps i s g p (.mk' 0x1A p.active 0)) ∧
        (0 < life → life ≤ 60 →
          (64 ≤ ownedCount s b m → WritesUni i e d 0x80000002 s g p) ∧
          (ownedCount s b m < 64 →
            (allocPlaces s b m size = [] → WritesUni i e d 0x80000001 s g p) ∧
            (allocPlaces s b m size ≠ [] →
              ∃ x g1, Retires i s g g1 p (nextSplit i e s g p) (fun t => t.mm.mem = s.mm.mem ∧ t.mm.scratch = s.mm.scratch ∧
                  t.mm.allocs = s.mm.allocs ++ [x] ∧ ∀ seg ∈ x.segs, lookupD t.mm.segAge seg = 0) ∧
                g1 = writeUni g p d (BitVec.ofNat 32 x.base) ∧ x.cohortOwned = m ∧ x.owner = owner ∧ x.cluster = b.cluster ∧
                x.size = size ∧ x.life = life ∧ x.segs.length = size / 512 ∧ (∀ seg ∈ x.segs, segFree s seg = true) ∧
                ∀ j, j < size → allocByte x (allocAddr x j) = some j)))))

/-- SFREE, RENEW and SSTAT (R181 to R184): the allocation based at the address is removed, once nothing of it is in use, and its unshared
segments read 0; RENEW sets the age of the segments that a range touches to 0 and no other; SSTAT gives the remaining reference
nanoseconds, or bit 31. An address that names no such allocation raises SCRATCH_BOUNDS, and an expired segment STALE. -/
def FreeRenewStatus : Prop :=
  ∀ (s : State) (g : Group) (p : Split) (e m : Bool) (d : RegNum) (a c : Src) (b : Block), Ready s g p → s.block? g.bid = some b →
    let la := (srcVal g a (lowest p.active)).toNat
    let bounds := fun (i : Instr) => Traps i s g p (.mk' 0x08 p.active (BitVec.ofNat 64 la))
    (srcOk g a = true → (m && inRival s g) = false →
      (s.mm.allocs.find? (fun x => mine b x && x.cohortOwned == m && x.base == la) = none → bounds (.sfree e m a)) ∧
      ∀ x, s.mm.allocs.find? (fun x => mine b x && x.cohortOwned == m && x.base == la) = some x →
        let gs := ownerGroups s b m
        (copyNames s (gs.map (·.bid)) x = true ∨ waitersIn gs x = true → bounds (.sfree e m a)) ∧
        (copyNames s (gs.map (·.bid)) x = false → waitersIn gs x = false → accessesLeft gs x = false →
          Retires (.sfree e m a) s g g p (nextSplit (.sfree e m a) e s g p) (fun t => t.mm.mem = s.mm.mem ∧
            t.mm.allocs = s.mm.allocs.filter (fun y => y != x) ∧
            ∀ y ∈ s.mm.segAge, y.1 ∈ x.segs → segFree t y.1 = true → ∀ k, k < 512 → sget t.mm.scratch (segKey y.1 + k) = 0))) ∧
    (srcOk g a && srcOk g c = true →
      let n := (srcVal g c (lowest p.active)).toNat
      (locate s b la = none → bounds (.renew e a c)) ∧
      ∀ x j, locate s b la = some (x, j) →
        let ks := renewSegs j n
        (n = 0 ∨ x.size < j + n → bounds (.renew e a c)) ∧
        (0 < n → j + n ≤ x.size →
          (∀ k, ks.find? (fun k => expired s x (512 * k)) = some k →
            Traps (.renew e a c) s g p (.mk' 0x07 p.active (BitVec.ofNat 64 (allocAddr x (512 * k))))) ∧
          (ks.find? (fun k => expired s x (512 * k)) = none → ownAll s b x.base ks = (s, none) →
            s.mm.allocs.find? (fun y => mine b y && y.base == x.base) = some x →
            Retires (.renew e a c) s g g p (nextSplit (.renew e a c) e s g p) (fun t => t.mm.mem = s.mm.mem ∧ t.mm.scratch = s.mm.scratch ∧
              t.mm.allocs = s.mm.allocs ∧
              ∀ seg, lookupD t.mm.segAge seg = if seg ∈ ks.map (fun k => x.segs.getD k 0) then 0 else lookupD s.mm.segAge seg)))) ∧
    (uniDstOk g d && srcOk g a = true →
      (locate s b la = none → WritesUni (.sstat e d a) e d 0x80000000 s g p) ∧
      ∀ x j, locate s b la = some (x, j) →
        WritesUni (.sstat e d a) e d (BitVec.ofNat 32 ((x.life * 6000000 - lookupD s.mm.segAge (x.segs.getD (j / 512) 0)) / 6000)) s g p)

/-- Scratchpad allocations, as the two statements above say (R180 to R184).
Log entries 5 and 37 give the model's readings. -/
def Obligations.ScratchAllocation : Prop := Allocation ∧ FreeRenewStatus

/-- POOLCFG (R188): privileged; illegal on a pool above 63 or a mode word that R188 does not allow; it gives PARTITION, then BUSY, and
otherwise changes the pool's mode, with a FIFO held by the block, and gives 0. Nothing but that pool changes, where it holds
no L2 sector. That a scratchpad pool with a live allocation is BUSY for the mode it has too, where another sentence of R188 has it DONE,
is the model's choice (log entry 82).
Log entry 36 gives the model's readings. -/
def Obligations.PoolConfiguration : Prop :=
  ∀ (s : State) (g : Group) (p : Split) (e : Bool) (d : RegNum) (a c : Src) (b : Block), Ready s g p → s.block? g.bid = some b →
    let i := Instr.poolcfg e d a c
    let n := (srcVal g a (lowest p.active)).toNat
    let w := (srcVal g c (lowest p.active)).toNat
    let x := s.pool b.cluster n
    let part := (s.partyOf b).part
    let used := (x.mode = .scratch ∧ ∃ y ∈ keptAllocs s, ∃ k ∈ y.segs, k / 65536 = b.cluster ∧ k % 65536 / 768 = n) ∨
      (x.mode = .fifo ∧ x.holder.isSome = true)
    (g.mode = false → Traps i s g p (.mk' 0x03 p.active 0)) ∧
    (g.mode = true → uniDstOk g d && srcOk g a && srcOk g c = true →
      (63 < n ∨ poolWordOk w = false → Traps i s g p (.mk' 0x02 p.active 0)) ∧
      (n ≤ 63 → poolWordOk w = true → (x.mode = .cache → w % 4 ≠ 0 → clusterPins s b.cluster = false) →
        ((s.quarter (4 * b.cluster + n / 16)).serves ≠ part → WritesUni i e d 2 s g p) ∧
        ((s.quarter (4 * b.cluster + n / 16)).serves = part → used → WritesUni i e d 1 s g p) ∧
        ((s.quarter (4 * b.cluster + n / 16)).serves = part → ¬ used → (∀ y ∈ s.mm.l2, ¬ (y.cluster = b.cluster ∧ y.pool = n)) →
          Retires i s g (writeUni g p d 0) p (nextSplit i e s g p) (fun t => t.mm.mem = s.mm.mem ∧ t.mm.scratch = s.mm.scratch ∧
            (t.pool b.cluster n).mode = (if w % 4 = 0 then .cache else if w % 4 = 1 then .scratch else .fifo) ∧
            (w % 4 = 2 → (t.pool b.cluster n).holder = some b.bid ∧ (t.pool b.cluster n).entries = [] ∧
              (t.pool b.cluster n).width = 4 * 2 ^ (w / 4 % 4) ∧ (t.pool b.cluster n).depth = 2 ^ (w / 16 % 32) ∧
              (t.pool b.cluster n).life = w / 512 % 64) ∧
            ∀ k, k ≠ n → t.pool b.cluster k = s.pool b.cluster k))))

/-- KICK (R238, R239): with the release done, the core's kick register takes the address, and with the request's 32 bytes checked, its object usable and fewer than 16 requests of the core, it
adds one request, with the fields of R238, no piece of it performed, and retires; with 16 it waits. What is wrong is raised at the
instruction, with the address that is. A rival's KICK raises VIEW_STATE.
Log entry 64 gives the model's readings. -/
def Obligations.CopyRequests : Prop :=
  ∀ (s : State) (g : Group) (p : Split) (e : Bool) (a : Src) (b : Block), Ready s g p → s.block? g.bid = some b → srcOk g a = true →
    let la := (srcVal g a (lowest p.active)).toNat
    (inRival s g = true → Traps (.kick e a) s g p (.mk' 0x0F p.active 0)) ∧
    (inRival s g = false → releaseAt s g.gid p.idx .clu = (s, .done) →
      let s1 := setKick s b (BitVec.ofNat 32 la)
      let stops := fun (code x : Nat) =>
        exec (.kick e a) s = .next (raiseAt (issued s1 g) g.gid p.idx p.pc (.mk' code p.active (BitVec.ofNat 64 x)) false)
      (∀ code m x, localTrap s b true 32 [(lowest p.active, la)] = some (code, m, x) → stops code x) ∧
      (localTrap s b true 32 [(lowest p.active, la)] = none → ∀ key, keyAt s b la = some key →
        let bs := sgetMany s.mm.scratch key 32
        let f := fun o n => leNat ((bs.drop o).take n)
        let r : CopyReq :=
          { id := s.nextId, cluster := b.cluster, core := b.core, bid := b.bid, asid := (s.partyOf b).asid, view := b.view, src := f 0 6,
            dst := f 8 6, rows := f 14 2, sstride := f 16 4, dstride := f 20 4, rowBytes := f 24 4 % 2 ^ 24, cruise := f 24 4 / 2 ^ 24 % 16,
            slocal := f 24 4 / 2 ^ 28 % 2 == 1, dlocal := f 24 4 / 2 ^ 29 % 2 == 1, bar := f 28 4, done := [], met := [], failed := [] }
        (copyOk bs r = false → stops 0x02 la) ∧
        (copyOk bs r = true → localTrap s b true 16 [(lowest p.active, r.bar)] = none → ∀ k2, keyAt s b r.bar = some k2 →
          ((readBarrier s k2).usable = false → stops 0x15 r.bar) ∧
          ((readBarrier s k2).usable = true → 16 ≤ coreCopies s b → exec (.kick e a) s = .next s1) ∧
          ((readBarrier s k2).usable = true → coreCopies s b < 16 → r.cruise = 0 →
            Retires (.kick e a) s g g p (nextSplit (.kick e a) e s g p) (fun t => t.mm = s.mm ∧ t.en.copies = s.en.copies ++ [r] ∧
              t.en.kicks = s1.en.kicks)))))

/-- The issuing group's block, and a tag of it that it may use (R217, R219). -/
structure HasTag (s : State) (g : Group) (t : Nat) (b : Block) (x : Tag) : Prop where
  block : s.block? g.bid = some b
  mine : ownTag s b t = some x

/-- From `s` to `u`, beside what issuing changes (`GroupsOnly`), only the tags `ks` of a cluster may differ: the other tags, the rest of the engine state
and all of memory are as before. -/
def TagsOnly (s u : State) (cluster : Nat) (ks : List Nat) : Prop :=
  GroupsOnly { s with en := { s.en with tags := u.en.tags } } u ∧ ∀ c k, ¬ (c = cluster ∧ k ∈ ks) → u.tag c k = s.tag c k

/-- The slots of a tag: its own, and those of its member quadrants (R217, R218). -/
def tagSlots (x : Tag) : List Nat := (quadsOf x.fuse (x.p / 8)).map (fun q => 8 * q + x.p % 8)

/-- GANG, TAGBIND, TAGFREE, MFREEZE, MTHAW, TAGKILL and MSTAT (R221 to R223, R235 to R237): what each changes of the tags, and that nothing else
of the engine or of memory changes; what a tag's status word says; and that a tag the block may not use raises TAG. TAGFREE and MFREEZE wait for the
waves in flight, and a waiting MFREEZE leaves the tag as it then is.
Log entry 38 gives the model's readings. -/
def Obligations.MatrixTags : Prop :=
  ∀ (s : State) (g : Group) (p : Split) (e : Bool) (t d5 : BitVec 5) (d : RegNum) (a : Src) (o : Fusion) (b : Block), Ready s g p →
    s.block? g.bid = some b →
    let v := srcVal64 g a (lowest p.active)
    let n := (srcVal g a (lowest p.active)).toNat
    let noTag := fun (i : Instr) (k : Nat) => ownTag s b k = none → Traps i s g p (.mk' 0x0B p.active (BitVec.ofNat 64 k))
    let waits := fun (i : Instr) (x : Tag) (ks : List Nat) (tags : State → Prop) =>
      ∃ u g1, exec i s = .next u ∧ TagsOnly s u x.cluster ks ∧ tags u ∧ u.split? g.gid p.idx = some (g1, { p with phase := 1 }) ∧
        g1 = { g with splits := g1.splits } ∧ (∀ j, j ≠ p.idx → g1.split? j = g.split? j) ∧ ∀ j, j ≠ g.gid → u.group? j = s.group? j
    let freed := fun (x : Tag) (u : State) => ∀ k ∈ tagSlots x, u.tag x.cluster k = Tag.atReset x.cluster k
    let killed := fun (x : Tag) (u : State) => u.tag x.cluster x.p =
        { x with st := .killing, queue := [], latched := [], pins := [], chunk := [], flags := 0, void := false, vk := 0, vcause := 0, vcount := 0, bank := [] } ∧
      ∀ k ∈ tagSlots x, k ≠ x.p → u.tag x.cluster k = { s.tag x.cluster k with st := .killing }
    (src64Ok g a = true →
      (gangOk s g v = true → g.index ∈ gangMembers v →
        Retires (.gang e a) s g { g with gang := v } p (nextSplit (.gang e a) e s g p) (GroupsOnly s)) ∧
      (gangOk s g v = false ∨ g.index ∉ gangMembers v → Traps (.gang e a) s g p (.mk' 0x02 p.active 0))) ∧
    (uniDstOk g d && srcOk g a = true → inRival s g = false → n ≤ 7 →
      let qs := quadsOf o b.core
      let busy := ∃ q ∈ qs, (s.tag b.cluster (8 * q + n)).st ≠ .free
      let other := ∃ q ∈ qs, (s.quarter (4 * b.cluster + q)).serves ≠ (s.partyOf b).part
      let fa := p.fmt.toNat / 2 ^ 8 % 16
      let fb := p.fmt.toNat / 2 ^ 12 % 16
      let acc := p.fmt.toNat / 2 ^ 16 % 4
      (busy → WritesUni (.tagbind e o d a) e d 1 s g p) ∧
      (¬ busy → other → WritesUni (.tagbind e o d a) e d 2 s g p) ∧
      (¬ busy → ¬ other → pairOk fa fb acc = false → WritesUni (.tagbind e o d a) e d 3 s g p) ∧
      (¬ busy → ¬ other → pairOk fa fb acc = true →
        Retires (.tagbind e o d a) s g (writeUni g p d 0) p (nextSplit (.tagbind e o d a) e s g p) (fun u =>
          TagsOnly s u b.cluster (qs.map (fun q => 8 * q + n)) ∧
          ∀ q ∈ qs, u.tag b.cluster (8 * q + n) =
            { Tag.atReset b.cluster (8 * q + n) with
              st := .bound, owner := b.bid, fuse := o, member := decide (q ≠ b.core), afmt := BitVec.ofNat 4 fa, bfmt := BitVec.ofNat 4 fb,
              acc := BitVec.ofNat 2 acc, weight := ((s.launch? b.lid).map (·.prio)).getD 1 }))) ∧
    (srcOk g a = true →
      (p.phase ≠ 1 → noTag (.tagfree e a) n ∧ ∀ x, ownTag s b n = some x →
        (x.inflight = [] →
          Retires (.tagfree e a) s g g p (nextSplit (.tagfree e a) e s g p) (fun u => TagsOnly s u x.cluster (tagSlots x) ∧ freed x u)) ∧
        (x.inflight ≠ [] → waits (.tagfree e a) x (tagSlots x) (killed x))) ∧
      (p.phase = 1 →
        let y := s.tag b.cluster (physTag b.core n)
        (y.st = .killing ∧ y.owner = b.bid → exec (.tagfree e a) s = .next s) ∧
        (y.st ≠ .killing ∨ y.owner ≠ b.bid → RetiresOnly (.tagfree e a) e (pcAfter (.tagfree e a) p) s g p))) ∧
    noTag (.mfreeze e t) t.toNat ∧ noTag (.mthaw e t) t.toNat ∧
    (∀ x, ownTag s b t.toNat = some x →
      let sets := fun (i : Instr) (st : TagState) =>
        Retires i s g g p (nextSplit i e s g p) (fun u => TagsOnly s u x.cluster [x.p] ∧ u.tag x.cluster x.p = { x with st := st })
      (p.phase ≠ 1 → x.st = .bound → drained x = true → sets (.mfreeze e t) .frozen) ∧
      (p.phase ≠ 1 → x.st = .bound → drained x = false →
        waits (.mfreeze e t) x [x.p] (fun u => u.tag x.cluster x.p = { x with st := .frozen })) ∧
      (p.phase = 1 → drained x = false → exec (.mfreeze e t) s = .next s) ∧
      ((p.phase = 1 ∧ drained x = true) ∨ (p.phase ≠ 1 ∧ x.st = .frozen) → RetiresOnly (.mfreeze e t) e (p.pc + 4) s g p) ∧
      sets (.mthaw e t) .bound) ∧
    (g.mode = false → Traps (.tagkill e t) s g p (.mk' 0x03 p.active 0)) ∧
    (g.mode = true →
      let k := physTag b.core t.toNat
      let x := s.tag b.cluster (primaryTag s b.cluster k)
      ((s.quarter (4 * b.cluster + k / 8)).serves ≠ (s.partyOf b).part → Traps (.tagkill e t) s g p (.mk' 0x02 p.active 0)) ∧
      ((s.quarter (4 * b.cluster + k / 8)).serves = (s.partyOf b).part →
        (x.st = .free ∨ x.st = .killing → RetiresOnly (.tagkill e t) e (p.pc + 4) s g p) ∧
        (x.st = .bound ∨ x.st = .frozen → tagUsers s x.owner = [] →
          Retires (.tagkill e t) s g g p (nextSplit (.tagkill e t) e s g p) (fun u => TagsOnly s u x.cluster (tagSlots x) ∧
            (x.inflight = [] → freed x u) ∧ (x.inflight ≠ [] → killed x u))))) ∧
    (d5.toNat < 30 →
      let word := fun (traps : Bool) => LeavesOutstanding (.mstat e t d5 traps) e 0 (regRange (96 + d5.toNat) 1)
        [{ lane := lowest p.active, dests := [uniHome g.mode (96 + d5.toNat)], vals := [statusWord s b g.mode t.toNat], load := none,
           sext := false, scope := .blk, flags := 0 }] s g p
      word false ∧ noTag (.mstat e t d5 true) t.toNat ∧
      ∀ x, ownTag s b t.toNat = some x →
        (x.void = false → word true) ∧
        (x.void = true → allEnded x = false → exec (.mstat e t d5 true) s = .next s) ∧
        (x.void = true → allEnded x = true →
          exec (.mstat e t d5 true) s =
            .next (raiseAt (issued (s.mapTag x.cluster x.p (fun y => { y with void := false, vk := 0, vcause := 0, vcount := 0 })) g)
              g.gid p.idx p.pc (.mk' 0x0C p.active (voidRecord x t.toNat)) false)))

/-- The pins of an MMA accepted now (R226, R334): of each chunk of 32 waves, every 64-byte sector that a row of A or B touches is pinned for that MMA: in
a pool the 128-byte row that holds it, in global memory its line, by its virtual address where the address does not translate yet. -/
def PinsOperands : Prop :=
  ∀ (s : State) (b : Block) (m : Mma), m.admitK = 0 → m.voided = [] →
    let P := mmaParty s b m
    let pins := mmaPins s b m
    let held := fun (kind : PinKind) (at_ : Nat) => ∃ y ∈ pins, y.kind = kind ∧ y.mma = m.no ∧ y.addr ≤ at_ ∧ at_ < y.addr + y.len
    let covers := fun (r : TileRec) (addr n : Nat) => ∀ z ∈ piecesOf addr n,
      (r.isLocal = true → ∀ key, keyAt s b z.1 = some key → held .pool key) ∧
      (r.isLocal = false → addrInRange z.1 = true →
        (∀ u l, translate s P z.1 .load = (u, .ok l) → held .line l.pa) ∧
        ((∀ u l, translate s P z.1 .load ≠ (u, .ok l)) → held (.page P.asid) z.1))
    ∀ c, 32 * c < m.a.cols →
      let fin := min (32 * c + 32) m.a.cols
      (∀ i, i < m.a.rows →
        covers m.a (elemPlace m.a i (32 * c)).1 ((elemPlace m.a i (fin - 1)).1 + (elemPlace m.a i (fin - 1)).2 - (elemPlace m.a i (32 * c)).1)) ∧
      ∀ k, 32 * c ≤ k → k < fin → covers m.b (m.b.base + k * m.b.stride) (rowBytes m.b.fmt m.b.cols)

/-- MMA (R224 to R226): on a gang of one, with its tag usable, its records fit, the release done and fewer than four queued, it adds one MMA of
those records to the tag's queue, none of its waves fetched, adds the MMA's pins to the tag's, and retires; with four it waits. A gang that does not name
the group raises GANG, records that do not fit SHAPE, and a rival's MMA VIEW_STATE. On a larger gang the first to arrive parks at the latch while another
member lives, and the last to arrive adds one MMA of the records of the gang's first member, and every member goes on. -/
def MmaAcceptance : Prop :=
  ∀ (s : State) (g : Group) (p : Split) (e : Bool) (t a c : BitVec 5) (b : Block), Ready s g p → s.block? g.bid = some b →
    let i := Instr.mma e t a c
    let legal := a.toNat % 4 = 0 ∧ a.toNat ≤ 24 ∧ c.toNat % 4 = 0 ∧ c.toNat ≤ 24
    let one := g.gang.toNat % 8 < 2
    let named := g.index ∈ gangMembers g.gang ∧ p.active = g.live
    let accepts := fun (s u : State) (x : Tag) (ra rb : TileRec) =>
      let m : Mma := { no := s.nextId, a := ra, b := rb, asid := (s.partyOf b).asid, view := (s.partyOf b).view, bid := b.bid, latchK := 0, admitK := 0,
                       voided := [], met := [], failed := [], opened := 0 }
      u.mm = s.mm ∧ u.tag x.cluster x.p = { x with queue := x.queue ++ [m], pins := addPins x.pins (mmaPins s b m) } ∧
        u.en = { s.en with tags := u.en.tags } ∧ ∀ cl k, ¬ (cl = x.cluster ∧ k = x.p) → u.tag cl k = s.tag cl k
    (¬ legal → Traps i s g p (.mk' 0x02 p.active 0)) ∧
    (legal → inRival s g = true → Traps i s g p (.mk' 0x0F p.active 0)) ∧
    (legal → inRival s g = false → one →
      (ownTag s b t.toNat = none → Traps i s g p (.mk' 0x0B p.active (BitVec.ofNat 64 t.toNat))) ∧
      ∀ x, ownTag s b t.toNat = some x →
        let ra := tileRec g a.toNat
        let rb := tileRec g c.toNat
        (¬ named → Traps i s g p (.mk' 0x0A p.active 0)) ∧
        (named → mmaShape x ra rb = false → Traps i s g p (.mk' 0x09 p.active 0)) ∧
        (named → mmaShape x ra rb = true → releaseAt s g.gid p.idx .clu = (s, .done) →
          (4 ≤ x.queue.length → exec i s = .next s) ∧
          (x.queue.length < 4 → ((s.context? (s.partyOf b).asid).map (·.mcruise)).getD 0 = 0 →
            Retires i s g g p (nextSplit i e s g p) (fun u => accepts s u x ra rb)))) ∧
    (legal → inRival s g = false → ¬ one →
      let s2 := parkTo i e .bar (.latch (encodeWord i)) (p.pc + 4) s g p
      let ms := atLatch s2 b.bid
      (gangArrives s g p (encodeWord i) = false → Traps i s g p (.mk' 0x0A p.active 0)) ∧
      (named → atLatch s b.bid = [] → (∃ h ∈ s.groupsOf b.bid, h.index ∈ gangMembers g.gang ∧ h.alive = true ∧ h.gid ≠ g.gid) →
        exec i s = .next s2) ∧
      ∀ m0 rest x, gangArrives s g p (encodeWord i) = true → ms = m0 :: rest →
        (∀ m ∈ ms, m.2.2 = encodeWord i ∧ m.1.index < 32 ∧ (∀ y ∈ ms, sameGang (gangMembers m.1.gang) (gangMembers y.1.gang) = true) ∧
          ∀ h ∈ s2.groupsOf b.bid, h.index ∈ gangMembers m.1.gang → h.alive = true → ∃ y ∈ ms, y.1.gid = h.gid) →
        (∀ m ∈ ms, releaseAt s2 m.1.gid m.2.1.idx .clu = (s2, .done)) → ownTag s2 b t.toNat = some x → x.queue.length < 4 →
        ((s.context? (s.partyOf b).asid).map (·.mcruise)).getD 0 = 0 →
        let lead := ((s2.groupsOf b.bid).find? (fun h => h.index == ((gangMembers m0.1.gang).headD 0))).getD m0.1
        let ra := tileRec lead a.toNat
        let rb := tileRec lead c.toNat
        let ps := ms.map (fun m => (m.1.gid, m.2.1.idx))
        mmaShape x ra rb = true → Calm s2 ps → ∃ u, exec i s = .next u ∧ accepts s2 u x ra rb ∧ Released s2 u ps)

/-- MMA and its pins, as the two statements above say (R224 to R226, R334).
Log entry 38 gives the model's readings. -/
def Obligations.MatrixMultiply : Prop := MmaAcceptance ∧ PinsOperands

/-- The issuing split has begun a bank instruction on a tag: a TAGKILL of the tag reaches it (R237). -/
def waiting (s : State) (g : Group) (p : Split) (t : Nat) : State := s.mapSplit g.gid p.idx (fun q => { q with tagWait := some t })

/-- The bank (R228 to R232) of a tag whose waves have ended: ACCZ clears it and the flags; ACCWR writes the row that the group's place in the
gang names, 32 columns to a register, and no other element; ACCRD leaves that row outstanding in the same registers, converted, which at
the accumulator's own format is the elements as they are. A void record pending raises MATRIX_WAVE at a read, and is then clear. -/
def MatrixBank : Prop :=
  ∀ (s : State) (g : Group) (p : Split) (e : Bool) (t : BitVec 5) (d : RegNum) (w : BitVec 6) (b : Block) (x : Tag), Ready s g p →
    HasTag s g t.toNat b x → waited x = true → inRival s g = false →
    Retires (.accz e t) s g g p (nextSplit (.accz e t) e s g p) (fun u => u.mm = s.mm ∧ u.tag x.cluster x.p = { x with bank := [], flags := 0 }) ∧
    (d.toNat < 96 → regExists g d.toNat = true →
      (accRow g w = none → Traps (.accwr e t d w) s g p (.mk' 0x0A p.active 0) ∧
        (faultsLeft s g p = false → Traps (.accrd e t d w) s g p (.mk' 0x0A p.active 0))) ∧
      ∀ r, accRow g w = some r →
        (63 < r → Traps (.accwr e t d w) s g p (.mk' 0x09 p.active 0)) ∧
        (r ≤ 63 → min 96 g.count < d.toNat + accRegs x → Traps (.accwr e t d w) s g p (.mk' 0x02 p.active 0)) ∧
        (r ≤ 63 → d.toNat + accRegs x ≤ min 96 g.count →
          Retires (.accwr e t d w) s g g p (nextSplit (.accwr e t d w) e s g p) (fun u => u.mm = s.mm ∧
            u.tag x.cluster x.p = { x with bank := (u.tag x.cluster x.p).bank } ∧
            ∀ i j, i < 128 → j < 128 →
              (u.tag x.cluster x.p).elem i j =
                if (i = r ∨ (bankRows x.fuse = 128 ∧ i = r + 64)) ∧ j < bankCols x.fuse then
                  readReg g (d.toNat + (if i = r then 0 else bankCols x.fuse / 32) + j / 32) (j % 32)
                else x.elem i j) ∧
          (faultsLeft s g p = false → inRoutine g = false → p.appends = none →
            (x.void = true →
              exec (.accrd e t d w) s = .next (raiseAt
                (issued ((waiting s g p t.toNat).mapTag x.cluster x.p (fun y => { y with void := false, vk := 0, vcause := 0, vcount := 0 })) g)
                g.gid p.idx p.pc (.mk' 0x0C p.active (voidRecord x t.toNat)) false)) ∧
            (x.void = false → fmtNarrow p = (if x.acc = 1 then 9 else 0) →
              let regs := regRange d.toNat (accRegs x)
              let val := fun n l => x.elem (if n < bankCols x.fuse / 32 then r else r + 64) (32 * (n % (bankCols x.fuse / 32)) + l)
              Retires (.accrd e t d w) s g
                { g with pending := g.pending ++ [owed 0 regs ((List.range 32).map (fun l =>
                    { lane := l, dests := (List.range (accRegs x)).map (fun n => .vec (d.toNat + n) l),
                      vals := (List.range (accRegs x)).map (fun n => val n l), load := none, sext := false, scope := .blk, flags := 0 })) s g p] }
                p (nextSplit (.accrd e t d w) e s g (owingSplit regs s g p)) (fun u => u.mm = s.mm)))))

/-- ACCST to a local region (R233, R234), in a format that is the accumulator's own, with nothing to capture: each row's bytes are kept as
stores at the places of its addresses, in row order, none of them performed yet; no register changes. A record that does not fit the tag
raises SHAPE, and a byte outside every allocation SCRATCH_BOUNDS, before anything is stored. -/
def MatrixStore : Prop :=
  ∀ (s : State) (g : Group) (p : Split) (e : Bool) (t q : BitVec 5) (b : Block) (x : Tag), Ready s g p → HasTag s g t.toNat b x →
    waited x = true → x.void = false → q.toNat % 4 = 0 → q.toNat ≤ 24 → p.st ≠ .fault → p.appends = none →
    let i := Instr.accst e t q
    let r := tileRec g q.toNat
    let fits := tileOk r 9 = true ∧ r.rows ≤ bankRows x.fuse ∧ r.cols ≤ bankCols x.fuse
    let ps := tilePieces r
    let lanes := ps.mapIdx (fun n y => (64 + n, y.2.1))
    (¬ fits → Traps i s g p (.mk' 0x09 p.active 0)) ∧
    (fits → r.isLocal = true → r.outpair = 0 →
      (∀ code m va, localTrap s b false 1 lanes = some (code, m, va) →
        exec i s = .next (raiseAt (issued (waiting s g p t.toNat) g) g.gid p.idx p.pc (.mk' code p.active (BitVec.ofNat 64 va)) false)) ∧
      (localTrap s b false 1 lanes = none → ownLanes s b lanes = (s, []) → r.fmt = (if x.acc = 1 then 9 else 0) →
        let row := fun k => (List.range r.cols).flatMap (fun j => leBytes (x.elem k j).toNat 4)
        let piece := fun (y : Nat × Nat × Nat × Nat) => ((row y.1).drop y.2.2.1).take y.2.2.2
        ∃ u g1 p1, exec i s = .next u ∧ u.mm = s.mm ∧ u.split? g.gid p.idx = some (g1, p1) ∧ g1 = { g with splits := g1.splits } ∧
          p1.pc = p.pc + 4 ∧ p1.outst = p.outst ∧
          p1.buffer = p.buffer ++ ps.map (fun y =>
            ({ seq := s.seq, after := pastOf g p, place := .pool ((keyAt s b y.2.1).getD 0), scope := .blk,
               bytes := piece y, view := 0, held := pinned s (.pool ((keyAt s b y.2.1).getD 0)) (piece y).length } : BufStore))))

/-- The bank and its stores, as the two statements above say (R228 to R234).
Log entry 30 gives the model's readings. -/
def Obligations.MatrixAccumulators : Prop := MatrixBank ∧ MatrixStore

/-- FORK, CHOOSE, VABORT and VSTAT (R246 to R250, R253): a FORK of one rival is illegal, one in a split without every live lane, or CHOOSE
outside a rival, raises VIEW_STATE; the FORK that completes its rendezvous opens a view for each rival, makes the block rival 0 in the
first of them, adds the others, and lets the groups go on; CHOOSE with every group there whose view is verified and committed leaves the
block in the parent view, with no rival left; VABORT of a rival other than 0, before the last, removes it, and of an atomic block
sends it back to wait; VSTAT gives the selector's word.
Log entries 33 and 34 give the model's readings. -/
def Obligations.Views : Prop :=
  ∀ (s : State) (g : Group) (p : Split) (e : Bool) (c : BitVec 3) (j : BitVec 21) (d : RegNum) (a : Src) (b : Block), Ready s g p →
    s.block? g.bid = some b →
    let traps := fun (i : Instr) => Traps i s g p (.mk' 0x0F p.active 0)
    (c = 0 → Traps (.fork e c j) s g p (.mk' 0x02 p.active 0)) ∧
    (c ≠ 0 → p.active ≠ g.live → parkedAs s g.bid isFork = [] → traps (.fork e c j)) ∧
    (c ≠ 0 → p.active = g.live → releaseAt s g.gid p.idx .dev = (s, .done) → (∀ x ∈ s.fe.blocks, x.bid < s.nextId) →
      (∀ x ∈ parkedAs s g.bid isFork, ∀ h q, s.split? x.1 x.2 = some (h, q) → q.park = .fork (encodeWord (.fork e c j)) ∧ q.pc = p.pc) →
      let w := encodeWord (.fork e c j)
      let n := c.toNat + 1
      let s1 := parkTo (.fork e c j) e .bar (.fork w) (p.pc + 4) s g p
      (allParked s1 b isFork = false → exec (.fork e c j) s = .next s1) ∧
      (allParked s1 b isFork = true → quietStep s1 b.bid = s1 → isQuiet s1 b.bid = true → forkRefused s1 b = false →
        n ≤ (freeViewIds s1).length → Calm s1 (parkedAs s1 b.bid isFork) →
        ∃ t x, exec (.fork e c j) s = .next t ∧ t.mm.mem = s.mm.mem ∧ t.mm.scratch = s.mm.scratch ∧ Released s1 t (parkedAs s1 b.bid isFork) ∧
          t.mm.views.map (fun v => (v.id, v.parent)) =
            s.mm.views.map (fun v => (v.id, v.parent)) ++ ((freeViewIds s1).take n).map (fun v => (v, b.view)) ∧
          t.block? b.bid = some x ∧ x.view = ((freeViewIds s1).take n).getD 0 0 ∧ x.rival = 0 ∧ x.forkRec.isSome = true ∧
          ((t.fe.blocks.drop s.fe.blocks.length).map (fun y => (y.rival, y.view, y.clone))) =
            (List.range (n - 1)).map (fun k => (k + 1, ((freeViewIds s1).take n).getD (k + 1) 0, true)))) ∧
    (inRival s g = false ∨ p.active ≠ g.live → traps (.choose e)) ∧
    (inRival s g = true → p.active = g.live →
      let s1 := parkTo (.choose e) e .bar .choose (p.pc + 4) s g p
      (allParked s1 b isChoose = false → exec (.choose e) s = .next s1) ∧
      ∀ r s2 s3 b3, allParked s1 b isChoose = true → b.forkRec.bind s1.fork? = some r → (s1.view? b.view).bind (·.commit) = none →
        verifyView s1 b b.view = (s2, .ready) → r.parent = 0 ∨ (outboxOf s2 r.parent).length + (outboxOf s2 b.view).length ≤ 64 →
        advanceCommit (stopRivals { s2 with mm := { s2.mm with forks := s2.mm.forks.map (fun f => if f.id == r.id then { f with claimed := true } else f) } } r b)
          b b.view = (s3, true) → s3.block? b.bid = some b3 → Calm s3 (parkedAs s1 b.bid isChoose) →
        ∃ t x, exec (.choose e) s = .next t ∧ Released s3 t (parkedAs s1 b.bid isChoose) ∧ t.block? b.bid = some x ∧ x.view = r.parent ∧
          x.rival = r.parentRival ∧ x.forkRec = r.parentRec ∧ ∀ f ∈ t.mm.forks, f.id ≠ r.id) ∧
    (b.forkRec = none → s.modeOf b ≠ 2 ∨ b.committed = true → traps (.vabort e)) ∧
    (∀ r, b.forkRec.bind s.fork? = some r → r.aborted.length + 1 < r.n → b.bid ≠ r.base.bid → 0 < b.view → b.bid ≠ 0 →
      ∃ t, exec (.vabort e) s = .next t ∧ t.block? b.bid = none ∧ t.view? b.view = none ∧ t.groupsOf b.bid = []) ∧
    (b.forkRec = none → s.modeOf b = 2 → b.committed = false →
      ∃ t x, exec (.vabort e) s = .next t ∧ t.block? b.bid = some x ∧ x.st = .waiting ∧ x.view = 0 ∧ t.groupsOf b.bid = []) ∧
    (uniDstOk g d && srcOk g a = true →
      let x := (srcVal g a (lowest p.active)).toNat
      (3 < x → Traps (.vstat e d a) s g p (.mk' 0x02 p.active 0)) ∧
      (x = 0 → b.forkRec = none →
        WritesUni (.vstat e d a) e d (BitVec.ofNat 32 (b.view + 2 ^ 10 * b.rival + 2 ^ 16 * ((s.view? b.view).map (·.depth)).getD 0 +
          2 ^ 19 * (s.modeOf b).toNat)) s g p) ∧
      (x = 1 → WritesUni (.vstat e d a) e d (BitVec.ofNat 32 (min (2 ^ 32 - 1)
        ((s.mm.sectors.filter (fun y => b.view != 0 && y.view == b.view && !y.dead)).length))) s g p) ∧
      (x = 2 → WritesUni (.vstat e d a) e d (BitVec.ofNat 32 (((s.view? b.view).map (·.outbox)).getD []).length) s g p) ∧
      (x = 3 → WritesUni (.vstat e d a) e d (BitVec.ofNat 32 (freeViewIds s).length) s g p))
/-! ## The front end and the distributor -/

/-- From `s` to `t` only queue `q` is another: it is `y`. -/
def OnlyQueue (s t : State) (q : Nat) (y : Queue) : Prop :=
  t.queue q = y ∧ (∀ k, k ≠ q → t.queue k = s.queue k) ∧ t = { s with fe := { s.fe with queues := t.fe.queues } }

/-- A host write of the register at an offset of BAR0 wakes the WAITs that watch its sector, of the functions that see it (R186, R381). -/
def woken (s : State) (fns : List Nat) (off : Nat) : State := fns.foldl (fun s fn => wakeBar s fn off) s

/-- What waking does: a split that waits on the sector of the register, which BAR0's base places, has its write; nothing else changes. -/
def WakesWaits : Prop :=
  ∀ (s : State) (fn off : Nat), wakeBar s fn off = { s with fe := { s.fe with groups := (wakeBar s fn off).fe.groups } } ∧
    (s.sys.bars.find? (fun x => x.1 == fn) = none → wakeBar s fn off = s) ∧
    ∀ x gid i g p, s.sys.bars.find? (fun x => x.1 == fn) = some x → s.split? gid i = some (g, p) →
      ∃ g1 p1, (wakeBar s fn off).split? gid i = some (g1, p1) ∧ g1 = { g with splits := g1.splits } ∧
        (∀ dl hit, p.park = .word ((2 ^ 51 + x.2 + off) / 64) hit dl → p1 = { p with park := .word ((2 ^ 51 + x.2 + off) / 64) true dl }) ∧
        ((∀ dl hit, p.park ≠ .word ((2 ^ 51 + x.2 + off) / 64) hit dl) → p1 = p)

/-- The rows of the event table that are a host's register write (R299, R300, R306, R382, R410): before boot is complete they are discarded. A QTAIL
doorbell sets QTAIL; a QHEAD write takes effect while the queue is halted, which it ends where the offset is one of the ring, or disabled; ENABLE
needs ring sizes that are powers of two from 4 KiB to 16 MiB; a command-ring tail and a ring head take an offset of the ring, and keep their value at
any other. -/
def RegisterRows : Prop :=
  ∀ (s : State) (q : Nat) (v : Word),
    let y := s.queue q
    let row := fun (i : Instr) (fns : List Nat) (off : Nat) (holds : State → State → Prop) =>
      (s.sys.stage ≠ .ready → exec i s = .next s) ∧ (s.sys.stage = .ready → ∃ t, exec i s = .next t ∧ holds (woken s fns off) t)
    let sets := fun (i : Instr) (reg : Nat) (z : Queue) => row i [0, y.fn] (0x10000 + 128 * q + reg) (fun u t => OnlyQueue u t q z)
    sets (.qtailDoorbell q v) 0x10 { y with tail := v } ∧
    (y.halt = true → v.toNat % 64 = 0 → v.toNat < y.size.toNat →
      sets (.qheadWrite q v) 0x18 { y with head := v, halt := false, cause := 0, errOff := 0, errSeq := 0 }) ∧
    (y.halt = true → v.toNat % 64 ≠ 0 ∨ y.size.toNat ≤ v.toNat → sets (.qheadWrite q v) 0x18 y) ∧
    (y.halt = false → y.enable = false → sets (.qheadWrite q v) 0x18 { y with head := v }) ∧
    (y.halt = false → y.enable = true → sets (.qheadWrite q v) 0x18 y) ∧
    (y.enable = false → ringSizeOk y.size = true → ringSizeOk y.evSize = true →
      sets (.queueEnable q) 0x30 { y with enable := true, lastLaunch := none }) ∧
    (y.enable = true ∨ ringSizeOk y.size = false ∨ ringSizeOk y.evSize = false → sets (.queueEnable q) 0x30 y) ∧
    (ringSizeOk v = true ↔ ∃ k, 12 ≤ k ∧ k ≤ 24 ∧ v.toNat = 2 ^ k) ∧
    sets (.queueDisable q) 0x30 { y with enable := false } ∧
    ∀ (fn r : Nat), (∀ f ∈ s.mm.faults, f.posted = true ∨ f.pri.isSome = true) →
      let ok := fun (x : Ring) => v.toNat % ringEntry x.r = 0 ∧ v.toNat < x.size.toNat
      let only := fun (u t : State) (fn r : Nat) (z : Ring) => t.ring fn r = z ∧ (∀ j k, (j, k) ≠ (fn, r) → t.ring j k = u.ring j k) ∧
        t = { u with sys := { u.sys with rings := t.sys.rings } }
      row (.commandRingTail v) [0] 0x20018 (fun u t =>
        (ok (s.ring 0 0) → only u t 0 0 { s.ring 0 0 with tail := v }) ∧ (¬ ok (s.ring 0 0) → only u t 0 0 (s.ring 0 0))) ∧
      (1 ≤ r → r ≤ 3 → fn = 0 ∨ r = 3 → row (.ringHeadWrite fn r v) [fn] (0x20010 + 64 * r) (fun u t =>
        (ok (s.ring fn r) → only u t fn r { s.ring fn r with head := v }) ∧ (¬ ok (s.ring fn r) → only u t fn r (s.ring fn r)))) ∧
      (¬ (1 ≤ r ∧ r ≤ 3 ∧ (fn = 0 ∨ r = 3)) → exec (.ringHeadWrite fn r v) s = .next s)

/-- A host write through BAR0 (R299, R381, R382, R410): one that is not aligned, of no function, or past the first 32 bytes before boot is complete, does
nothing. A write of QTAIL, QHEAD, ENABLE, a ring's head or tail, or the fault response does what the register's own row does. While a queue is
disabled QBASE, QSIZE with PRIO, EVBASE, EVSIZE with EVHEAD and QNEXTSEQ take the value written; enabled, PRIO and EVHEAD alone. FRVA takes the
frame address written. A write past the last register, or by a function to a register it does not see, does nothing. Beyond the waking of WAITs
nothing but the register named changes. -/
def RegisterWrites : Prop :=
  ∀ (s : State) (fn off q : Nat) (wide : Bool) (w : DWord),
    let write := Instr.registerWrite fn off wide w
    let lo : Word := w.setWidth 32
    let hi : Word := (w >>> 32).setWidth 32
    (off % (if wide then 8 else 4) ≠ 0 ∨ 64 ≤ fn ∨ (s.sys.stage ≠ .ready ∧ 0x20 ≤ off) → exec write s = .next s) ∧
    (s.sys.stage = .ready → fn < 64 →
      let u := wakeBar s fn off
      let y := s.queue q
      (q < 512 → fn = 0 ∨ y.fn = fn →
        (off = 0x10010 + 128 * q → exec write s = exec (.qtailDoorbell q lo) u) ∧
        (off = 0x10018 + 128 * q → exec write s = exec (.qheadWrite q lo) u) ∧
        (off = 0x10030 + 128 * q → exec write s = exec (if w.getLsbD 0 then .queueEnable q else .queueDisable q) u) ∧
        (wide = true →
          let sets := fun (z : Queue) => ∃ t, exec write s = .next t ∧ OnlyQueue u t q z
          (off = 0x10000 + 128 * q → sets (if y.enable then y else { y with base := w &&& ~~~0xFFF })) ∧
          (off = 0x10008 + 128 * q →
            sets { y with size := if y.enable then y.size else lo, prio := if hi.toNat % 16 = 0 then 1 else BitVec.ofNat 4 hi.toNat }) ∧
          (off = 0x10020 + 128 * q → sets (if y.enable then y else { y with evBase := w &&& ~~~0xFFF })) ∧
          (off = 0x10028 + 128 * q → sets { y with evSize := if y.enable then y.evSize else lo, evHead := hi }) ∧
          (off = 0x10048 + 128 * q → sets (if y.enable then y else { y with nextSeq := w })))) ∧
      (fn = 0 → off = 0x20018 → exec write s = exec (.commandRingTail lo) u) ∧
      (∀ r, r < 4 → fn = 0 ∨ r = 3 → off = 0x20010 + 64 * r → exec write s = exec (.ringHeadWrite fn r lo) u) ∧
      (fn = 0 → off = 0x20108 → exec write s = exec (.faultResponse (w.toNat % 4096) s.sys.frva.toNat (w.getLsbD 12)) u) ∧
      (fn = 0 → wide = true → off = 0x20100 →
        exec write s = .next { u with sys := { u.sys with frva := w &&& ~~~0xFFF } } ∧ readBar { u with sys := { u.sys with frva := w &&& ~~~0xFFF } } 0 off = w &&& ~~~0xFFF) ∧
      ((off % 8 = 0 ∨ wide = false) → 0x74008 ≤ off → exec write s = if off % 4 = 0 then .next u else .next s) ∧
      (fn ≠ 0 → off % 8 = 0 → 0x20100 ≤ off → ¬ (0x40000 ≤ off ∧ off < 0x40040) → ¬ (0x50000 ≤ off ∧ off < 0x50100) → exec write s = .next u) ∧
      (q < 512 → fn ≠ 0 → y.fn ≠ fn → off % 8 = 0 → 0x10000 + 128 * q ≤ off → off < 0x10080 + 128 * q → exec write s = .next u))

/-- The host's registers, as the three statements above say (R186, R299, R300, R306, R381, R382, R410).
Log entries 54 and 74 give the model's readings. -/
def Obligations.HostRegisters : Prop := WakesWaits ∧ RegisterRows ∧ RegisterWrites

/-- Reading a queue's packet (R300 to R307): the packet that the checks let through is accepted in the queue's order, QNEXTSEQ and QHEAD go on,
and its work stands in the log, not started; a LAUNCH makes a launch of its descriptor's kernel with its block counts; a WRAP or NOP is done
at once. A packet that a check stops halts the queue with the first cause of R305's order, at its offset, and is not accepted; one that QTAIL does
not cover yet is not checked. -/
def Packets : Prop :=
  ∀ (s : State) (q : Nat) (s1 : State) (bs : List Byte),
    let y := s1.queue q
    let seq : DWord := BitVec.ofNat 64 (field bs 8 8)
    (peekPacket s q = (s1, .ok bs) →
      let accepts := fun (i : Instr) (started done : Bool) (more : State → LogEntry → Prop) =>
        ∃ t e, exec i s = .next t ∧ e ∈ t.fe.log ∧ e.q = q ∧ e.seq = seq ∧ e.off = y.head.toNat ∧ e.started = started ∧ e.complete = done ∧
          (t.queue q).nextSeq = seq + 1 ∧
          (t.queue q).head = (if field bs 0 1 = 5 then 0 else BitVec.ofNat 32 ((y.head.toNat + 64 * field bs 1 1) % y.size.toNat)) ∧
          t.mm = s1.mm ∧ more t e
      (field bs 0 1 = 1 → ∀ k, kernelAt s1 y.tenancy (field bs 16 8) = some k →
        accepts (.launchPacket q) false false (fun t e => ∃ l, e.kind = .launch l.lid ∧ t.fe.launches = s1.fe.launches ++ [l] ∧ l.q = q ∧ l.seq = seq ∧
          l.kernel = k ∧ (l.dimx, l.dimy, l.dimz) = packetDims (some k) bs ∧ l.started = false ∧ l.done = [] ∧ l.nextBlock = 0 ∧
          l.params = (bs.drop 64).take (field bs 37 1))) ∧
      (field bs 0 1 = 2 → ∀ f, flumeAt s1 y.tenancy (field bs 16 8) = some f →
        accepts (.flumePacket q) false false (fun t e => ∃ x, e.kind = .flume x.id ∧ t.fe.items = s1.fe.items ++ [x] ∧ x.flume = f ∧ x.q = q ∧
          x.item = BitVec.ofNat 64 (field bs 24 8) ∧ x.statAddr = field bs 32 8)) ∧
      (field bs 0 1 = 3 → accepts (.waitseqPacket q) false false (fun _ e => e.kind = .waitseq (field bs 16 2) (BitVec.ofNat 64 (field bs 24 8)))) ∧
      (field bs 0 1 = 4 → accepts (.signalPacket q) false false (fun _ e => e.kind = .signal (field bs 16 8) (BitVec.ofNat 64 (field bs 24 8)))) ∧
      (field bs 0 1 = 5 → field bs 2 2 / 2 % 2 ≠ 1 → accepts (.wrapPacket q) true true (fun _ e => e.kind = .trivial)) ∧
      (field bs 0 1 = 6 → field bs 2 2 / 2 % 2 ≠ 1 → accepts (.nopPacket q) true true (fun _ e => e.kind = .trivial))) ∧
    (∀ (c ty : Nat) (sq : DWord) (s2 : State) (x : List Byte), peekPacket s q = (s1, .bad c ty sq) → postFront s1 q 0xFFFF0011 c sq = (s2, .ok x) →
      ∀ z ∈ [(1, Instr.launchPacket q), (2, .flumePacket q), (3, .waitseqPacket q), (4, .signalPacket q), (5, .wrapPacket q), (6, .nopPacket q)],
        z.1 = ty → ∃ t, exec z.2 s = .next t ∧
          OnlyQueue s2 t q { s2.queue q with halt := true, cause := BitVec.ofNat 6 c, errOff := BitVec.ofNat 24 (s2.queue q).head.toNat, errSeq := sq }) ∧
    (let y := s.queue q
     let len := 64 * field bs 1 1
     let seq : DWord := BitVec.ofNat 64 (field bs 8 8)
     let ty := field bs 0 1
     y.assigned = true → y.enable = true → y.halt = false → y.head ≠ y.tail → feRead s y (y.base.toNat + y.head.toNat) 64 = (s1, .ok bs) →
      let ends := y.head.toNat + len ≤ y.size.toNat
      let short := tailOk y = true ∧ ends ∧ (y.tail.toNat + y.size.toNat - y.head.toNat) % y.size.toNat < len
      (short → peekPacket s q = (s1, .idle)) ∧
      (¬short → ty < 1 ∨ 6 < ty → peekPacket s q = (s1, .bad 1 6 seq)) ∧
      (1 ≤ ty → ty ≤ 6 → tailOk y = false → peekPacket s q = (s1, .bad 2 ty seq)) ∧
      (1 ≤ ty → ty ≤ 6 → tailOk y = true → ¬short → len = 0 ∨ ¬ends → peekPacket s q = (s1, .bad 3 ty seq)) ∧
      (1 ≤ ty → ty ≤ 6 → tailOk y = true → ¬short → len ≠ 0 → ends → ∀ c, lineCause s1 y bs = some c → peekPacket s q = (s1, .bad c ty seq))) ∧
    let y := s.queue q
    let c := lineCause s y bs
    let fields := fieldsOk s y.tenancy bs
    (lengthOk bs = false → c = some 4) ∧
    (lengthOk bs = true → seq ≠ y.nextSeq → c = some 5) ∧
    (lengthOk bs = true → seq = y.nextSeq → fields = false → c = some 6) ∧
    (lengthOk bs = true → seq = y.nextSeq → fields = true → descriptorOk s y.tenancy bs = false → c = some 7) ∧
    (lengthOk bs = true → seq = y.nextSeq → fields = true → descriptorOk s y.tenancy bs = true → waitQueueOk s y bs = false → c = some 8)

/-- Starting and completing (R301, R304, R309, R313): an entry that may start is started, a launch whose cohort fits an empty cluster with it;
a WAITSEQ completes once what it names has, a SIGNAL with its store, and a launch once its last block has exited, with the entry of its
packet. -/
def StartsCompletions : Prop :=
  ∀ (s : State) (q : Nat) (seq : DWord) (e : LogEntry),
    let starts := fun (t : State) => ∃ x ∈ t.fe.log, x.q = e.q ∧ x.order = e.order ∧ x.seq = e.seq ∧ x.started = true
    let completes := fun (t : State) => ∃ x ∈ t.fe.log, x.q = e.q ∧ x.order = e.order ∧ x.seq = e.seq ∧ x.complete = true
    (s.entry? q seq = some e →
      (mayStart s e = true → (∀ l, e.kind ≠ .launch l) → ∃ t, exec (.packetStart q seq) s = .next t ∧ t.mm = s.mm ∧ starts t) ∧
      (∀ lid l, mayStart s e = true → e.kind = .launch lid → s.launch? lid = some l → e.handoff = false →
        cohortFits s (s.queue l.q).part l.kernel (min l.kernel.cohort l.total) = true →
        ∃ t l1, exec (.packetStart q seq) s = .next t ∧ t.mm = s.mm ∧ starts t ∧ t.launch? lid = some l1 ∧ l1.started = true ∧ l1.kernel = l.kernel ∧
          l1.nextBlock = l.nextBlock) ∧
      (mayStart s e = false → entryDone s e = true → e.complete = false → e.event = false →
        ∃ t, exec (.packetStart q seq) s = .next t ∧ t.mm = s.mm ∧ completes t) ∧
      (∀ k n, e.kind = .waitseq k n → entryDone s e = true → e.complete = false → e.event = false →
        ∃ t, exec (.waitseqMet q seq) s = .next t ∧ t.mm = s.mm ∧ completes t) ∧
      (∀ a w s1 x, e.kind = .signal a w → e.started = true → e.complete = false → e.event = false →
        feWrite s (s.queue q) a (leBytes w.toNat 8) = (s1, .ok x) → (∃ z ∈ s1.fe.log, z = e) →
        ∃ t, exec (.signalStore q seq) s = .next t ∧ t.mm = s1.mm ∧ completes t)) ∧
    ∀ lid l, s.launch? lid = some l → l.children = [] → l.started = true → launchDone l = true → entryOf s l = some e → entryDone s e = true →
      e.complete = false → e.event = false →
      ∃ t l1, exec (.launchComplete lid) s = .next t ∧ t.mm = s.mm ∧ completes t ∧ t.launch? lid = some l1 ∧ l1 = { l with complete := true }

/-- The front end reads packets, starts their work in order and completes it, as the two statements above say (R300 to R313).
Log entry 45 gives the model's readings. -/
def Obligations.FrontEnd : Prop := Packets ∧ StartsCompletions

/-- The distributor (R28, R45, R207, R246, R311 to R320, R351): what each of its events does where its condition holds: a cohort is placed, a clone
made, a saved block restored, a starving split issues, a register deadlock grants or evicts, a raft window becomes a launch, a flume stage is
released or overruns, a slice ends, and a reclaimed quarter's grace ends.
A change of a latch that another already holds only makes the latch change once more (R396). Which of the choices left open the distributor takes is
the model's own (log entries 13, 17, 33, 46, 47, 55, 67 and 73): a starving split is one required for 64 cycles in its own count (13), a core in
register deadlock evicts its highest holder and grants its lowest request (73), a record whose rivals have all aborted gives its snapshot back (33). -/
def Obligations.Distributor : Prop :=
  ∀ (s : State),
    (∀ part cluster cores l s1, nextPlacement s part = (some (l.lid, none), []) → s.launch? l.lid = some l → placeCohort s l cluster cores = some s1 →
      (∀ x ∈ s.fe.blocks, x.bid < s.nextId) →
      ∃ t, exec (.placementStep part cluster cores) s = .next t ∧ t.mm = s1.mm ∧ (t.partition part).lastQueue = l.q ∧
        ∀ n ∈ nextMembers l, ∃ x ∈ t.fe.blocks, x.lid = l.lid ∧ x.index = BitVec.ofNat 32 n ∧ x.cluster = cluster ∧ x.st = .running) ∧
    (∀ bid cluster core b s1, s.block? bid = some b → b.clone = true → (nextPlacement s (s.queueOfBlock b).part).1 = some (b.lid, some bid) →
      placeClone s b cluster core = some s1 →
      exec (.clonePlacement bid cluster core) s = .next (roomTaken s1 (b.lid, some bid)) ∧
       ∀ r, b.forkRec.bind s.fork? = some r →
        (r.n ≤ r.aborted.length → s1 = giveBack s r core ∧ cluster = r.snapshot.cluster) ∧
        (r.aborted.length < r.n → ∃ x, s1.block? bid = some x ∧ x.st = .running ∧ x.clone = false ∧ x.cluster = cluster ∧ x.core = core ∧ x.view = b.view)) ∧
    (∀ bid cluster core b s1, s.block? bid = some b → b.st = .saved → (nextPlacement s (s.queueOfBlock b).part).1 = some (b.lid, some bid) →
      restoreOn s b cluster core = (s1, true) → exec (.blockRestore bid cluster core) s = .next (settleWindows (roomTaken s1 (b.lid, some bid)))) ∧
    (∀ sched g p, requiredFirst s sched = some (g, p) → canIssue s g p = true ∧ p ∈ g.splits ∧ runnableSplit p = true ∧ 64 * 80 ≤ p.low.2 ∧
      ∀ x ∈ g.splits, runnableSplit x = true → lowest p.active ≤ lowest x.active) ∧
    (∀ gid sp g p, s.split? gid sp = some (g, p) → (requiredFirst s (schedOf s g)).map (fun x => (x.1.gid, x.2.idx)) = some (gid, sp) →
      exec (.starvationIssue gid sp) s = .next { s with agenda := .issue gid sp :: s.agenda }) ∧
    (∀ cluster core r, inDeadlock s cluster core = true ∨ deadlocked s cluster core = true →
      lowestRequester s (coreGroups s cluster core) = some r →
      (r.req - r.count ≤ freeRegs s cluster core →
        ∃ t, exec (.regreqGrant r.gid) (noteDeadlock s cluster core true) = .next t ∧
          exec (.registerDeadlock cluster core) s = .next (noteDeadlock t cluster core false)) ∧
      (freeRegs s cluster core < r.req - r.count → leavingCore s cluster core = false →
        ∀ h b, highestHolder s (coreGroups s cluster core) r.gid = some h → s.block? h.bid = some b →
        ∃ t x, exec (.registerDeadlock cluster core) s = .next t ∧ t.fe.groups = s.fe.groups ∧ t.block? h.bid = some x ∧ h.index ∈ x.evict ∧
          inDeadlock t cluster core = true)) ∧
    (∀ gid g, s.group? gid = some g → g.count < g.req → g.req - g.count ≤ freeRegs s (s.party g).cluster (s.party g).core →
      mayGrant s g = true →
      Calm s ((g.splits.filter (fun q => q.st == .regreq)).map (fun q => (gid, q.idx))) →
      ∃ t x, exec (.regreqGrant gid) s = .next t ∧ t.mm = s.mm ∧ t.group? gid = some x ∧ x = { g with splits := x.splits, count := g.req, req := 0 }) ∧
    (∀ q n w, (s.fe.raft.filter (fun x => x.q == q))[n]? = some w → w.first + 2000 ≤ s.clock ∨ 256 ≤ w.children.length →
      ∃ t l, exec (.raftWindowClose q n) s = .next t ∧ t.fe.launches = s.fe.launches ++ [l] ∧ l.q = q ∧ l.kernel = w.kernel ∧ l.children = w.children ∧
        l.seq = (s.queue q).raftCount ∧ (t.queue q).raftCount = (s.queue q).raftCount + 1 ∧ w ∉ t.fe.raft) ∧
    (∀ id j x e y f k, s.item? id = some x → itemEntry s id = some e → x.stages[j]? = some y → x.flume.stages[j]? = some f → y.released = false →
      e.started = true → stagesBefore x j = true → s.fe.kernels.find? (fun k => k.addr == f.kernel) = some k →
      cohortFits s (s.queue x.q).part k (min k.cohort (k.dimx * k.dimy * k.dimz)) = true → (∀ l ∈ s.fe.launches, l.lid < s.nextId) →
      ∃ t x1 y1 l, exec (.stageRelease id j) s = .next t ∧ t.item? id = some x1 ∧ x1.stages[j]? = some y1 ∧ y1.released = true ∧ y1.start = s.clock ∧
        y1.lid = some l.lid ∧ t.launch? l.lid = some l ∧ l.kernel = k ∧ l.started = true ∧ l.params = x.params) ∧
    (∀ id j x y f l, s.item? id = some x → x.stages[j]? = some y → x.flume.stages[j]? = some f → y.released = true → y.ended = false →
      y.overrun = false → y.owed = false → y.lid.bind s.launch? = some l → l.unplaceable = false → y.releasedBlocks.length < l.total → f.deadline ≠ 0 →
      y.start + f.deadline < s.clock → f.skip = false →
      let s0 := s.mapItem id (fun x => x.mapStage j (fun _ => { y with overrun := true, owed := true }))
      (eventRoom (s.queue x.q) = false → exec (.stageOverrun id j) s = .next s0) ∧
      (∀ s1 r, postFront s0 x.q 0xFFFF0013 j x.seq = (s1, .ok r) → s1.fe.items = s0.fe.items →
        ∃ t x1, exec (.stageOverrun id j) s = .next t ∧ t.item? id = some x1 ∧ x1.stages[j]? = some { y with overrun := true })) ∧
    (∀ part i ten, nextSharer (s.partition part) = some (i, ten) → 2 ≤ (sharers (s.partition part)).length →
      80 * 2 ^ (s.partition part).slice.toNat ≤ (s.partition part).counted →
      ∃ t, exec (.sliceEnd part) s = .next t ∧ (t.partition part).serving = i ∧ (t.partition part).counted = 0 ∧ t.mm = s.mm ∧
        ∀ c ∈ partCoreList s part,
          t.latch c = (if (s.latch c).lpend then { s.latch c with again := true }
            else if (s.latch c).latch.toNat = ten then s.latch c else { s.latch c with next := BitVec.ofNat 8 ten, lpend := true })) ∧
    ∀ q n, (s.quarter q).graceEnd = some n → n ≤ s.clock →
      ∃ t, exec (.reclaimGraceExpiry q) s = .next t ∧ (t.quarter q).graceEnd = none ∧ (t.latch q).lpend = true ∧ t.mm = s.mm ∧
        ((s.latch q).lpend = true → t.latch q = { s.latch q with again := true })
/-! ## Events of the engines, of errors and of time -/

/-- No split is parked on a barrier object. -/
def NoneAtObjects (s : State) : Prop := ∀ g ∈ s.fe.groups, ∀ q ∈ g.splits, ∀ la, q.park ≠ .object la

/-- A copy request's pieces and its object's count (R202, R240, R241, R273): a piece whose source reads is written, bytes to a destination
that nothing holds, and recorded; the request is gone with its last byte, and its line with each piece; the object counts the bytes down,
and completes with none left and every arrival; a source that fails, or whose page had an INVALID answer, stops the request, and its object is no
longer usable. A piece ahead of the data pointer is taken only where its request goes on: a failed page stops the request when every byte before it is
copied, and not earlier (R295). -/
def CopyPieces : Prop :=
  ∀ (s : State) (req row off len : Nat) (r : CopyReq) (b : Block), s.en.copies.find? (fun c => c.id == req) = some r →
    pieceOk r row off len = true → s.block? r.bid = some b →
    let P := copyParty s r
    let src := r.src + row * r.sstride + off
    let dst := r.dst + row * r.dstride + off
    let i := Instr.copyPiecePerformed req row off len
    let open_ := r.slocal = true ∨ r.failed.contains (faultPage src) = false
    let gives := fun (t : State) =>
      (copyPointer r = (row, off) ∨ goesOn r t = true → exec i s = .next t) ∧ (copyPointer r ≠ (row, off) → goesOn r t = false → exec i s = .next s)
    (r.slocal = false → r.failed.contains (faultPage src) = true → gives (stopCopy s r 0x06 src)) ∧
    (∀ s1 bs, open_ → readPieces s P b r.id r.slocal (piecesOf src len) = (s1, .ok bs) → s1.block? r.bid = some b →
      let ps := piecesOf dst bs.length
      (r.dlocal = true → (∀ x ∈ ps, (locate s1 b x.1).isSome = true) → ownLanes s1 b (ps.map (fun x => (0, x.1))) = (s1, []) →
        (∀ x ∈ ps, pinned s1 (.pool ((keyAt s1 b x.1).getD 0)) x.2 = false) →
        gives (pieceDone
          { s1 with mm :=
            { s1.mm with
              scratch := ps.foldl (fun m x => ssetMany m ((keyAt s1 b x.1).getD 0) ((bs.drop (x.1 - dst)).take x.2)) s1.mm.scratch } }
          r row off bs.length)) ∧
      (r.dlocal = false → addrInRange dst = true → r.failed.contains (faultPage dst) = true → gives (stopCopy s1 r 0x06 dst)) ∧
      (∀ s2 x l, r.dlocal = false → addrInRange dst = true → r.failed.contains (faultPage dst) = false → faultPending s1 r.asid dst = false →
        checkPieces s1 r P ps = (s2, x, .ok l) → l.attr ≠ 2 →
        let pa := l.pa - (x - dst)
        pinned s2 (.global pa dst l.attr l.size) bs.length = false → ownedElse s2 r.id pa = false →
        (∀ x ∈ ps, storeFails s2 P (.global (pa + (x.1 - dst)) x.1 l.attr l.size) x.2 = false) →
        let s2' := cleanLine s2 P pa
        let s3 : State := { s2' with mm := { s2'.mm with owned := s2'.mm.owned.filter (fun x => x.2 != r.id) ++ [(lineOf pa, r.id)] } }
        (s3.clock < leaseGwct s3 pa → gives s3) ∧
        (leaseGwct s3 pa ≤ s3.clock → gives (pieceDone
          (ps.foldl (fun s x => homeWrite s P.tenancy P.view x.1 (pa + (x.1 - dst)) ((bs.drop (x.1 - dst)).take x.2) .clu) s3)
          r row off bs.length)))) ∧
    (∀ s1 va, open_ → readPieces s P b r.id r.slocal (piecesOf src len) = (s1, .fault va) → gives (waitPage s1 r P va false)) ∧
    (∀ s1 code va key, open_ → readPieces s P b r.id r.slocal (piecesOf src len) = (s1, .void code va) → code ≠ 0x11 → NoneAtObjects s1 →
      copyObject (dropCopy s1 r) r = (dropCopy s1 r, some key) →
      let o := readBarrier (dropCopy s1 r) key
      gives (writeBarrier (dropCopy s1 r) key { o with flags := o.flags / 2 * 2 })) ∧
    (let t := pieceDone s r row off len
     let r1 := { r with done := r.done ++ [(row, off, len)] }
     (∀ x ∈ t.mm.owned, x.2 ≠ r.id) ∧
     ((r1.done.map (·.2.2)).sum = r.rows * r.rowBytes → ∀ c ∈ t.en.copies, c.id ≠ r.id) ∧
     ((r1.done.map (·.2.2)).sum ≠ r.rows * r.rowBytes → NoneAtObjects s → ∃ c ∈ t.en.copies, c.id = r.id ∧ c.done = r1.done)) ∧
    ∀ key n, copyObject s r = (s, some key) →
      let o := readBarrier s key
      (o.bytes < n → countDown s r n = writeBarrier s key { o with bytes := 0, flags := o.flags ||| 2 }) ∧
      (n < o.bytes ∨ (n = o.bytes ∧ o.arrive ≠ 0) → countDown s r n = writeBarrier s key { o with bytes := o.bytes - n }) ∧
      (n = o.bytes → o.arrive = 0 → countDown s r n = completeObject (writeBarrier s key { o with bytes := 0 }) key)

/-- The matrix engine's hardware (R227, R237, R325 to R327, R331, R333, R335): the tile fetch unit latches a pack in order, with the chunk's pins, each of which lasts as long as a
wave that needs it is neither admitted nor void; an
arbitration domain admits the ready tag with the largest deficit, the lowest at a tie, and its pack enters the array; the oldest wave
leaves, and with the last of a chunk the chunk's sum enters the bank, element by element; a killed tag's waves leave no trace, and with
none left it is free; an accumulator's uncorrected error makes its element a NaN, or 0, and the void record says so. -/
def MatrixHardware : Prop :=
  ∀ (s : State) (cluster p : Nat),
    let t := s.tag cluster p
    (∀ m b s1 ws, nextMma t = some m → fetchOpen t m = true → matrixStopped s cluster = false → s.block? m.bid = some b →
      let c := mmaCruise s b m
      let pins := addPins t.pins (chunkPins c.1 b m m.latchK)
      formWaves (c.1.mapTag cluster p (fun x => { x with pins := addPins x.pins (chunkPins c.1 b m m.latchK) })) b c.2 m.latchK
        (packEnd t m m.latchK - m.latchK) = (s1, .ok ws) →
      c.2 = { m with met := c.2.met } ∧
      ∃ u, exec (.tileFetchLatch cluster p) s = .next u ∧ u.mm = s1.mm ∧ u.fe = s1.fe ∧
        ws.map (·.k) = (List.range (packEnd t m m.latchK - m.latchK)).map (m.latchK + ·) ∧
        let voided := m.voided ++ ((ws.filter (fun w => w.void.isSome)).map (·.k)).filter (fun k => !m.voided.contains k)
        u.tag cluster p = { t with
          pins := (u.tag cluster p).pins
          latched := t.latched ++ ws
          queue := t.queue.map (fun x =>
            if x.no = m.no then { c.2 with latchK := m.latchK + ws.length, opened := if fetchPlace t m = 0 then m.opened else 0, voided } else x) } ∧
        (∀ y, y.mma ≠ m.no → (y ∈ (u.tag cluster p).pins ↔ y ∈ pins)) ∧
        (∀ y ∈ (u.tag cluster p).pins, y.mma = m.no →
          m.admitK ≤ y.last ∧ y.last ∉ voided ∧ ∃ x ∈ pins, y = { x with last := y.last } ∧ x.first ≤ y.last ∧ y.last ≤ x.last) ∧
        ∀ x ∈ pins, x.mma = m.no → ∀ k, x.first ≤ k → k ≤ x.last → m.admitK ≤ k → k ∉ voided →
          ∃ y ∈ (u.tag cluster p).pins, y = { x with last := y.last } ∧ k ≤ y.last) ∧
    (∀ ts free done x, bestTag ts free done = some x →
      x ∈ ts ∧ tagReady x = true ∧ x.p ∉ done ∧ (∀ q ∈ tagQuads x, q ∈ free) ∧
        ∀ y ∈ ts, tagReady y = true → y.p ∉ done → (∀ q ∈ tagQuads y, q ∈ free) → y.deficit ≤ x.deficit ∧ (y.deficit = x.deficit → x.p ≤ y.p)) ∧
    (∀ quadrant m r, liveTags s cluster = [t] → matrixStopped s cluster = false → quadrant ∈ tagQuads t → (∀ q ∈ tagQuads t, q < 4) →
      s.en.held = [] → t.queue = m :: r → tagReady t = true →
      ∃ u, exec (.waveAdmission cluster quadrant) s = .next u ∧ u.mm = s.mm ∧ u.fe = s.fe ∧
        (u.tag cluster p).inflight = t.inflight ++ nextPack t ∧ (u.tag cluster p).latched = t.latched.drop (nextPack t).length ∧
        (u.tag cluster p).deficit = t.deficit ∧
        (u.tag cluster p).queue =
          (if m.admitK + (nextPack t).length < m.a.cols then [{ m with admitK := m.admitK + (nextPack t).length }] else []) ++ r) ∧
    (∀ w r, t.inflight = w :: r → matrixStopped s cluster = false →
      ∃ u, exec (.waveExit cluster p) s = .next u ∧ u.mm = s.mm ∧ u.fe = s.fe ∧ (u.tag cluster p).inflight = r ∧
        (t.st = .killing → u.tag cluster p = { t with inflight := r }) ∧
        (t.st ≠ .killing → w.k % 32 ≠ 31 → w.last = false → u.tag cluster p = { t with inflight := r, chunk := t.chunk ++ [w] }) ∧
        (t.st ≠ .killing → w.k % 32 = 31 ∨ w.last = true →
          let ws := (t.chunk ++ [w]).filter (fun x => x.void.isNone)
          (u.tag cluster p).chunk = [] ∧
          (ws = [] → (u.tag cluster p).bank = t.bank) ∧
          ∀ w0 rest, ws = w0 :: rest → w0.b.length ≤ 128 → ∀ i j, j < 128 →
            (u.tag cluster p).elem i j = if i < w0.a.length ∧ j < w0.b.length then (chunkElem t ws i j).1 else t.elem i j)) ∧
    (t.st = .killing → t.member = false → t.inflight = [] →
      ∃ u, exec (.tagkillDrainComplete cluster p) s = .next u ∧ u.mm = s.mm ∧ u.fe = s.fe ∧
        ∀ q ∈ quadsOf t.fuse (p / 8), u.tag cluster (8 * q + p % 8) = Tag.atReset cluster (8 * q + p % 8)) ∧
    ∀ b row col,
      let p0 := primaryTag s cluster p
      let t0 := s.tag cluster p0
      let at_ := quadElem t0.fuse (p / 8) row col
      s.block? t0.owner = some b → t0.st ≠ .free → t0.st ≠ .killing →
      (∃ u, exec (.accumulatorError cluster p row col true) s = .next u ∧ u.en = s.en ∧ u.fe = s.fe ∧ u.sys.rseq = s.sys.rseq + 1) ∧
      ∃ u, u.fe = s.fe ∧ u.sys.rseq = s.sys.rseq + 1 ∧
        (u.tag cluster p0).elem at_.1 at_.2 = (if t0.acc = 1 then 0 else 0x7FC00000) ∧ (u.tag cluster p0).void = true ∧
        (t0.vcount = 0 → (u.tag cluster p0).vk = 0xFFFFFFFF ∧ (u.tag cluster p0).vcause = 0x11) ∧
        (s.modeOf b ≠ 1 ∨ b.shadow = none ∨ 3 ≤ b.rollbacks → exec (.accumulatorError cluster p row col false) s = .next u) ∧
        ∀ sh, s.modeOf b = 1 → b.shadow = some sh → b.rollbacks < 3 → exec (.accumulatorError cluster p row col false) s = .next (rollback u b sh)

/-- What the engines do as hardware (R202, R227, R237, R240, R241, R273, R325 to R335): copy pieces, and the matrix engine.
Log entries 39 and 64 give the model's readings. -/
def Obligations.EngineEvents : Prop := CopyPieces ∧ MatrixHardware

/-- What time brings (R174, R181, R182, R185, R281, R366, R416): a parked FIFO access goes on once its entries, or places, are there; a fetch
that was suspended goes on at its tick; a segment's end releases the splits parked on its objects with STALE; an old L2 line is written back,
and then dropped; a view's dead sectors are free; a site's sample sets its temperature, and stops the site, with its islands, at 115 °C, or lets it go
on at 100 °C.
Log entries 37, 68 and 69 give the model's readings. -/
def Obligations.TimedEvents : Prop :=
  ∀ (s : State),
    (∀ gid sp g p pool need enq b, s.split? gid sp = some (g, p) → p.park = .fifo pool need enq → s.block? g.bid = some b →
      let x := s.pool b.cluster pool
      let can := if enq then x.entries.length + need ≤ x.depth else need ≤ x.entries.length
      (¬ can → exec (.fifoResume gid sp) s = .next s) ∧
      (can → ∃ t g1 p1, exec (.fifoResume gid sp) s = .next t ∧ t.mm = s.mm ∧ t.split? gid sp = some (g1, p1) ∧ p1 = unparkSplit g p ∧
        ∀ j, j ≠ gid → t.group? j = s.group? j)) ∧
    (∀ gid sp g p, s.split? gid sp = some (g, p) →
      ∃ t g1 p1, exec (.gwctReached gid sp) s = .next t ∧ t.mm = s.mm ∧ t.split? gid sp = some (g1, p1) ∧
        p1 = if p.hold ≤ s.clock then { p with hold := 0 } else p) ∧
    (∀ seg, let old := ∃ a ∈ s.mm.allocs, seg ∈ a.segs ∧ a.life * ageMicro ≤ lookupD s.mm.segAge seg
      (¬ old ∨ NoneAtObjects s → exec (.segmentExpiry seg) s = .next s) ∧
      ∀ gid g q la b k, old → s.split? gid q.idx = some (g, q) → q.park = .object la → s.block? g.bid = some b → b.st = .running →
        evicted b g = false → g.mode = false → k < 32 → keyAt s b la = some (segKey seg + 16 * k) →
        (∀ h ∈ s.fe.groups, ∀ r ∈ h.splits, ∀ a, r.park = .object a → h = g ∧ r = q) →
        ∃ t g1 p1, exec (.segmentExpiry seg) s = .next t ∧ t.split? gid q.idx = some (g1, p1) ∧ g1.mode = true ∧
          g1.trapPc = q.pc.setWidth 64 ∧ g1.trapAddr = BitVec.ofNat 64 la ∧ g1.trapCause.toNat % 64 = 7 ∧ p1.pc = g.tvec.setWidth 48 ∧
          p1.st ≠ .bwait) ∧
    (∀ cluster line, ∃ t, exec (.l2LineWriteback cluster line) s = .next t ∧
      (∀ x ∈ t.mm.l2, x.cluster = cluster → x.pa / 8 = line → 48 * ageMicro ≤ x.age → x.dirty = 0) ∧
      ((∀ x ∈ s.mm.l2, x.cluster = cluster → x.pa / 8 = line → 48 * ageMicro ≤ x.age → x.dirty = 0) → t = s)) ∧
    (∀ cluster line, ∃ t, exec (.l2LineDrop cluster line) s = .next t ∧
      t.mm.l2 = s.mm.l2.filter (fun x => !(x.cluster == cluster && x.pa / 8 == line && decide (56 * ageMicro ≤ x.age)))) ∧
    (∀ view, ∃ t, exec (.sectorReclaim view) s = .next t ∧ t.fe = s.fe ∧ t.mm.mem = s.mm.mem ∧ view ∉ t.mm.heldIds ∧
      t.mm.sectors = s.mm.sectors.filter (fun x => !(x.view == view && x.dead))) ∧
    ∀ site rs, s.clock % 1000 = 0 → site < 4 → rs.length = 16 → s.sys.siteT.length = 4 → s.sys.sensors.length = 64 →
      ∃ t T, exec (.temperatureSample site rs) s = .next t ∧ t.fe = s.fe ∧ t.mm = s.mm ∧ t.sys.siteT[site]? = some T ∧
        (∀ x ∈ rs, sensorCounts x ≤ T) ∧ (∃ x ∈ rs, sensorCounts x = T) ∧ (∀ i, i < 16 → t.sys.sensors[16 * site + i]? = rs[i]?) ∧
        (let hot := ∃ r ∈ rs, r ≠ 0xFFFF ∧ 1840 ≤ r.toNat
         let cool := ∀ r ∈ rs, sensorCounts r ≤ 1600
         (hot → site ∈ t.sys.stops) ∧ (¬ hot → cool → site ∉ t.sys.stops) ∧ (¬ hot → ¬ cool → t.sys.stops = s.sys.stops) ∧
           ∀ n, n ≠ site → (n ∈ t.sys.stops ↔ n ∈ s.sys.stops)) ∧
        ∀ k, k < 48 → (s.island (48 * site + k)).on = true →
          let x := s.island (48 * site + k)
          let y := t.island (48 * site + k)
          let hot := ∃ r ∈ rs, r ≠ 0xFFFF ∧ 1840 ≤ r.toNat
          let cool := ∀ r ∈ rs, sensorCounts r ≤ 1600
          (hot → y = { x with stopped := true }) ∧ (cool → y = if x.stopped then { x with stopped := false, ratio := 4 } else x) ∧
          (¬ hot → ¬ cool → y = x)

/-- Errors that hardware finds (R368, R371 to R374): a corrected one leaves a record and nothing else; an uncorrected one of a home makes
reads of its sector fail, or loses it, and then its writers meet MEM_ABORT and no copy of it serves but what its holder has written; one of a copy, of
whichever it strikes, drops it, and a dirty copy is lost; a failed flit is an access that ends in an abort; a register file's ends its block as the
block's mode says. -/
def UnitErrors : Prop :=
  ∀ (s : State) (pa : Nat),
    let sec := pa / 64
    let owes := fun (t : State) (gid sp : Nat) (sc : Scope) => ∀ g q, s.split? gid sp = some (g, q) →
      ∃ g1 q1, t.split? gid sp = some (g1, q1) ∧ (64 * sec, sc) ∈ q1.storeErrs
    let struck := fun (t : State) (v : Nat) =>
      (v = 0 → sec ∈ t.mm.lost) ∧ (v ≠ 0 → ∀ y ∈ t.mm.sectors, y.view = v → y.pa = sec → y.dead = false → y.bad = true)
    let covers := fun (v w : Nat) => v = 0 ∨ v ∈ viewChain s 5 w
    (∀ unit lost, ∃ t, exec (.errorDetected unit pa true lost) s = .next t ∧ t.sys.rseq = s.sys.rseq + 1 ∧ t.fe = s.fe ∧ t.en = s.en ∧
      t.mm = { s.mm with mem := t.mm.mem }) ∧
    (∀ unit lost, unit = 0 ∨ unit = 1 →
      ∃ t v, exec (.errorDetected unit pa false lost) s = .next t ∧ chosen s (homeCopies s unit sec) = some v ∧ v ∈ homeCopies s unit sec ∧
        (lost = false → t.fe = s.fe) ∧
        (v = 0 → lost = false → sec ∈ t.mm.bad ∧ ∀ ten n, 0 < n → pa % 64 + n ≤ 64 → homeRead t ten 0 pa n = none) ∧
        (v ≠ 0 → t.mm.sectors = s.mm.sectors.map (fun y => if y.view == v && y.pa == sec && !y.dead then { y with bad := true } else y)) ∧
        (lost = true → struck t v ∧ (∀ x ∈ s.mm.writers, x.1 = writersKey v sec → owes t x.2.1 x.2.2.1 x.2.2.2) ∧
          (∀ y ∈ t.mm.l1, y.pa = sec → covers v y.view → y.valid = y.dirty) ∧ ∀ y ∈ t.mm.l2, y.pa = sec → covers v y.view → y.valid = y.dirty)) ∧
    (∀ x lost, pa < poolErrors → chosen s (s.mm.l2.filter (fun y => y.pa == sec)) = some x →
       ∃ t, exec (.errorDetected 2 pa false lost) s = .next t ∧
         (x.dirty = 0 → t.mm.l2 = s.mm.l2.filter (fun y => y != x) ∧ t.mm.lost = s.mm.lost ∧ t.mm.sectors = s.mm.sectors) ∧
         (x.dirty ≠ 0 → struck t x.view ∧ (∀ w ∈ x.writers, owes t w.1 w.2 x.scope) ∧
           ∀ y, y.pa ≠ sec → (y ∈ t.mm.l2 ↔ y ∈ s.mm.l2))) ∧
    (∀ x lost, chosen s (s.mm.l1.filter (fun y => y.pa == sec)) = some x →
       ∃ t, exec (.errorDetected 3 pa false lost) s = .next t ∧
         (x.dirty = 0 → t.mm.l1 = s.mm.l1.filter (fun y => y != x) ∧ t.mm.lost = s.mm.lost ∧ t.mm.sectors = s.mm.sectors) ∧
         (x.dirty ≠ 0 → struck t x.view ∧ (∀ w ∈ x.writers, owes t w.1 w.2 x.scope) ∧
           ∀ y, y.pa ≠ sec → (y ∈ t.mm.l1 ↔ y ∈ s.mm.l1))) ∧
    (∀ lost, poolErrors ≤ pa → ∃ t, exec (.errorDetected 2 pa false lost) s = .next t ∧ t.fe = s.fe ∧ sec ∈ t.mm.bad) ∧
    (∀ unit lost, unit = 5 ∨ unit = 6 ∨ unit = 8 →
      let s1 : State := { s with mm := { s.mm with flits := setKey s.mm.flits sec unit } }
      (∀ gid seq l a va, loadOf s sec = some (gid, seq, l, a, va) →
        exec (.errorDetected unit pa false lost) s = .next (failLanes s1 gid seq (1#32 <<< l) a va)) ∧
      (∀ gid i x, loadOf s sec = none → storeOf s sec = some (gid, i, x) → exec (.errorDetected unit pa false lost) s = .next (failStore s1 gid i x)) ∧
      (loadOf s sec = none → storeOf s sec = none → exec (.errorDetected unit pa false lost) s = .next s1 ∧
        ∀ va n P, 0 < n → pa % 64 + n ≤ 64 → homeRead s1 P.tenancy P.view pa n = none ∧ storeFails s1 P (.global pa va 0 4096) n = true)) ∧
    ∀ gid g b, s.group? gid = some g → s.block? g.bid = some b → onCore s g = true →
      let ends := fun (st : BlockState) => ∃ t x, exec (.registerFileError gid false) s = .next t ∧ t.block? b.bid = some x ∧ x.st = st
      (∃ t, exec (.registerFileError gid true) s = .next t ∧ t.fe = s.fe ∧ t.en = s.en ∧ t.sys.rseq = s.sys.rseq + 1) ∧
      (∀ sh, abortAction s (s.partyOf b) = 2 → b.shadow = some sh →
        exec (.registerFileError gid false) s = .next (rollback (blockError s b 4 1 2 0 0) b sh)) ∧
      (abortAction s (s.partyOf b) = 8 → commitRuns s b = false →
        ∃ t x, exec (.registerFileError gid false) s = .next t ∧ t.block? b.bid = some x ∧ x.st = .waiting ∧ x.view = 0) ∧
      (abortAction s (s.partyOf b) = 8 → commitRuns s b = true →
        ∃ t x, exec (.registerFileError gid false) s = .next t ∧ t.mm = s.mm ∧ t.block? b.bid = some x ∧ x = { b with struck := true }) ∧
      (abortAction s (s.partyOf b) ≠ 2 → abortAction s (s.partyOf b) ≠ 8 → mustFinish s b = false → ends .ended) ∧
      (abortAction s (s.partyOf b) ≠ 2 → abortAction s (s.partyOf b) ≠ 8 → mustFinish s b = true → ends .ending)

/-- The link and the echo queue (R186, R371, R375, R376, R387, R388): a failing flit is sent again up to 8 times, and a request older than 2^22
ticks fails; another device's access is performed where the frame is exported to its tenancy, or ends in an abort with its
record where its bytes cannot be reached, and else only leaves a record; the oldest echo
entry of a core that is not stopped loses the lanes that are checked, and is gone with its last, or at a mismatch, which its split will raise. -/
def LinkEcho : Prop :=
  ∀ (s : State),
    (∀ req r, s.en.link.find? (fun x => x.id == req) = some r →
      (r.retries < 8 → ∃ t, exec (.flitRetry req) s = .next t ∧ t.fe = s.fe ∧ t.sys.rseq = s.sys.rseq + 1 ∧
        t.en = { s.en with link := s.en.link.map (fun x => if x.id == req then { x with retries := x.retries + 1 } else x) }) ∧
      (8 ≤ r.retries → exec (.flitRetry req) s = .next (failLink s r)) ∧
      (r.start + 2 ^ 22 ≤ s.clock → exec (.linkAccessTimeout req) s = .next (failLink s r)) ∧
      (s.clock < r.start + 2 ^ 22 → exec (.linkAccessTimeout req) s = .next s) ∧
      (s.split? r.gid r.sp = none → failLink s r = { s with en := { s.en with link := s.en.link.filter (fun x => x.id != r.id) } }) ∧
      ∀ g q, s.split? r.gid r.sp = some (g, q) →
        (r.isStore = false → (∃ x ∈ g.pending, x.seq = r.seq ∧ ∃ y ∈ x.parts, y.lane = r.lane) →
          failLink s r =
            failLanes { s with en := { s.en with link := s.en.link.filter (fun x => x.id != r.id) } } r.gid r.seq (1#32 <<< r.lane) r.pa r.va) ∧
        ∀ x, r.isStore = true → q.buffer.find? (fun x => (storeLink s r.gid r.sp x).map (·.id) == some r.id && x.seq == r.seq && overLink s x.place) = some x →
          failLink s r = failStore s r.gid r.sp x) ∧
    (∀ ten off kind bs, exported s ten off = false →
      ∃ t, exec (.remoteAccess ten off kind bs) s = .next t ∧ t.fe = s.fe ∧ t.en = s.en ∧ t.sys.rseq = s.sys.rseq + 1 ∧
        t.mm = { s.mm with mem := t.mm.mem }) ∧
    (∀ ten off bs,
     let aborts := fun (i : Instr) => ∃ t, exec i s = .next t ∧ t.fe = s.fe ∧ t.en = s.en ∧ t.sys.rseq = s.sys.rseq + 1 ∧
       t.mm = { s.mm with mem := t.mm.mem, flits := s.mm.flits.filter (fun x => x.1 != off / 64) }
     let fails := flitFails s off = true ∨ keyOf s ten = none ∨ (sectorFails s off = true ∧ bs.length < 64)
     exported s ten off = true →
      (homeRead s ten 0 off 1 ≠ none → exec (.remoteAccess ten off 0 bs) s = .next s) ∧
      (homeRead s ten 0 off 1 = none → aborts (.remoteAccess ten off 0 bs)) ∧
      (remoteHeld s off bs.length = true → exec (.remoteAccess ten off 1 bs) s = .next s) ∧
      (remoteHeld s off bs.length = false → fails → aborts (.remoteAccess ten off 1 bs)) ∧
      (remoteHeld s off bs.length = false → ¬ fails → exec (.remoteAccess ten off 1 bs) s = .next (dramWrite s ten off bs)) ∧
      ∀ k, (remoteHeld s off (remoteSize k) = true → exec (.remoteAccess ten off (k + 2) bs) s = .next s) ∧
        (remoteHeld s off (remoteSize k) = false → homeRead s ten 0 off (remoteSize k) = none → aborts (.remoteAccess ten off (k + 2) bs))) ∧
    (∀ ten off bs old, exported s ten off = true → remoteHeld s off 4 = false → homeRead s ten 0 off 4 = some old →
      let o : Word := BitVec.ofNat 32 (leNat old)
      let v : Word := BitVec.ofNat 32 (field bs 0 4)
      let gives := fun (k : Nat) (w : Word) => exec (.remoteAccess ten off (k + 2) bs) s = .next (dramWrite s ten off (leBytes w.toNat 4))
      gives 0 (o + v) ∧ gives 2 (if v.slt o then v else o) ∧ gives 3 (if o.slt v then v else o) ∧ gives 4 (o &&& v) ∧ gives 5 (o ||| v) ∧
        gives 1 (addRne o v).1 ∧ gives 6 v ∧ (8 ≤ bs.length → gives 7 (if old = bs.take 4 then BitVec.ofNat 32 (field bs 4 4) else o)) ∧ gives 8 (o ^^^ v) ∧ gives 9 (if v.ult o then v else o) ∧ gives 10 (if o.ult v then v else o)) ∧
    (∀ ten off bs old, exported s ten off = true → remoteHeld s off 8 = false → homeRead s ten 0 off 8 = some old →
      let o : DWord := BitVec.ofNat 64 (leNat old)
      let v : DWord := BitVec.ofNat 64 (field bs 0 8)
      let gives := fun (k : Nat) (w : DWord) => exec (.remoteAccess ten off (k + 2) bs) s = .next (dramWrite s ten off (leBytes w.toNat 8))
      gives 11 (o + v) ∧ gives 12 v ∧ (16 ≤ bs.length → gives 13 (if old = bs.take 8 then BitVec.ofNat 64 (field bs 8 8) else o)) ∧ gives 14 (if v.slt o then v else o) ∧ gives 15 (if o.slt v then v else o)) ∧
    (∀ sched lanes bad, coreStopped s (sched / 16) = true → exec (.echoReexecute sched lanes bad) s = .next s) ∧
    (∀ sched lanes bad e, oldestEcho s sched = some e → coreStopped s (sched / 16) = false →
      let others := fun (t : State) => t.mm = { s.mm with mem := t.mm.mem } ∧ ∀ x ∈ s.fe.echo, x ≠ e → x ∈ t.fe.echo
      (e.left &&& lanes &&& bad = 0 → e.left &&& ~~~lanes ≠ 0 →
        ∃ t, exec (.echoReexecute sched lanes bad) s = .next t ∧ others t ∧ { e with left := e.left &&& ~~~lanes } ∈ t.fe.echo) ∧
      (e.left &&& lanes &&& bad = 0 → e.left &&& ~~~lanes = 0 →
        ∃ t, exec (.echoReexecute sched lanes bad) s = .next t ∧ others t ∧ e ∉ t.fe.echo) ∧
      (∀ g p, e.left &&& lanes &&& bad ≠ 0 → s.split? e.gid e.sp = some (g, p) → p.echoTrap = none →
        ∃ t g1 p1, exec (.echoReexecute sched lanes bad) s = .next t ∧ others t ∧ e ∉ t.fe.echo ∧
          t.sys.rseq = s.sys.rseq + 1 ∧ t.split? e.gid e.sp = some (g1, p1) ∧
          p1 = { p with echoTrap := some (e.addr, e.left &&& lanes &&& bad) }) ∧
      let due := 256 * 80 ≤ e.age
      (due → ∃ t, exec (.echoEntryTimeout sched) s = .next t ∧ others t ∧ e ∉ t.fe.echo) ∧
      (¬ due → exec (.echoEntryTimeout sched) s = .next s))

/-- The loss of a cluster, or of a site (R308): its copies, translations, allocations, tags and requests are gone, and a site's copies of the log
entries are made again from the other copy; where no view exists, each block of a launch that had a block there waits to run again from its start. -/
def Loss : Prop :=
  ∀ (s : State) (site : Bool) (n : Nat),
    let gone := fun (c : Nat) => if site then 24 * n ≤ c ∧ c < 24 * n + 24 else c = n
    ∃ t, exec (.unitLoss site n) s = .next t ∧ (∀ x ∈ t.mm.l1, ¬ gone x.cluster) ∧ (∀ x ∈ t.mm.l2, ¬ gone x.cluster) ∧
      (∀ x ∈ t.mm.tlb, ¬ gone x.cluster) ∧ (∀ x ∈ t.mm.allocs, ¬ gone x.cluster) ∧ (∀ x ∈ t.en.tags, ¬ gone x.cluster) ∧
      (∀ x ∈ t.en.copies, ¬ gone x.cluster) ∧ (site = true → ∀ x ∈ t.mm.walk, x.site ≠ n) ∧
      (site = true → (∀ e ∈ t.fe.log, e.sites = logSites e.q) ∧
        ∀ e ∈ s.fe.log, ∀ k ∈ e.sites, k ≠ n → ∃ x ∈ t.fe.log, x.q = e.q ∧ x.order = e.order ∧ x.kind = e.kind) ∧
      (s.mm.views = [] → (∀ b ∈ s.fe.blocks, b.view = 0 ∧ b.forkRec = none ∧ b.clone = false ∧ b.rival = 0) →
        (∀ b ∈ s.fe.blocks, ∀ c ∈ s.fe.blocks, b.bid = c.bid ∨ (b.lid = c.lid ∧ b.index = c.index) → b = c) →
        ∀ b ∈ s.fe.blocks, ∀ c ∈ s.fe.blocks, c.lid = b.lid → gone c.cluster → c.st = .running → b.st ≠ .ended → b.committed = false →
          ∃ x, t.block? b.bid = some x ∧ x.st = .waiting)

/-- Errors, the link, the echo queue and the loss of a unit, as the statements above say (R308, R368 to R376, R387, R388).
Log entries 35, 45, 50, 51, 52 and 53 give the model's readings; that an error found while an atomic block's commit runs only marks the block,
which it strikes when the commit has ended, is the model's own (log entry 35). -/
def Obligations.ErrorEvents : Prop := UnitErrors ∧ LinkEcho ∧ Loss

/-! ## Commands of the host -/

/-- The control window (R342, R343, R355 to R360): nothing before boot is complete, or while a command runs, but that the write wakes the WAITs
that watch the register (R186, R410); what finds no target, a target in a save, or none stopped, only
answers so; PREEMPT stops its blocks and stays busy until they are saved; KILL ends its blocks, sends an atomic one back to
wait, and lets one whose commit is under way finish it; STOP asks a saved group to stop when it returns; STOP,
RESUME, STEP and the debugging flag act on the groups, or blocks, that the window names and on no other; a comparator's match stops a
group under debugging, and else raises BREAKPOINT.
Log entry 44 gives the model's readings. -/
def Obligations.ControlWindow : Prop :=
  ∀ (s : State) (fn : Nat) (flag : Bool),
    let w := s.window fn
    let acts := fun (i : Instr) (t : State) => exec i s = .next (wakeBar t fn 0x40010)
    let ends := fun (i : Instr) (st : BitVec 3) =>
      ∃ t, acts i t ∧ t.window fn = { w with busy := false, status := st, waiting := [], stops := [] } ∧ t.fe = s.fe ∧ t.mm = s.mm
    let all := [Instr.preempt fn flag, .kill fn, .stop fn flag, .resume fn, .step fn, .debugon fn flag, .debugoff fn]
    (s.sys.stage ≠ .ready → ∀ i ∈ all, exec i s = .next s) ∧
    (s.sys.stage = .ready → windowBusy s fn = true → ∀ i ∈ all, acts i s) ∧
    (s.sys.stage = .ready → windowBusy s fn = false →
      (targetBlocks s fn = [] → ends (.preempt fn flag) 1 ∧ ends (.debugon fn flag) 1 ∧ ends (.debugoff fn) 1) ∧
      (targetGroups s fn = [] → ends (.stop fn flag) 1 ∧ ends (.resume fn) 1 ∧ ends (.step fn) 1) ∧
      (targetLaunches s fn = [] → ends (.kill fn) 1) ∧
      (inSave s (targetBlocks s fn) = true → ends (.preempt fn flag) 5 ∧ (targetGroups s fn ≠ [] → ends (.stop fn flag) 5)) ∧
      (targetGroups s fn ≠ [] → (∀ g ∈ targetGroups s fn, ∀ q ∈ g.splits, q.st ≠ .stop) → ends (.resume fn) 3 ∧ ends (.step fn) 3) ∧
      (targetBlocks s fn ≠ [] → inSave s (targetBlocks s fn) = false → (∀ b ∈ targetBlocks s fn, b.st = .running ∧ s.block? b.bid = some b) →
        ∃ t, acts (.preempt fn flag) t ∧ t.mm = s.mm ∧ (t.window fn).busy = true ∧
          ∀ b ∈ targetBlocks s fn, b.bid ∈ (t.window fn).waiting ∧
            ∃ x, t.block? b.bid = some x ∧ x = { b with st := .stopping, keep := flag, preempts := x.preempts }) ∧
      (targetBlocks s fn ≠ [] → (∀ b ∈ targetBlocks s fn, s.block? b.bid = some b) →
        (∃ t, acts (.debugon fn flag) t ∧ t.mm = s.mm ∧ (t.window fn).status = 0 ∧
          (∀ b ∈ targetBlocks s fn, t.block? b.bid = some { b with debug := true, stopBlk := flag }) ∧
          ∀ bid, bid ∉ (targetBlocks s fn).map (·.bid) → t.block? bid = s.block? bid) ∧
        ∃ t, acts (.debugoff fn) t ∧ t.mm = s.mm ∧ (t.window fn).status = 0 ∧
          (∀ b ∈ targetBlocks s fn, t.block? b.bid = some { b with debug := false, stopBlk := false }) ∧
          ∀ bid, bid ∉ (targetBlocks s fn).map (·.bid) → t.block? bid = s.block? bid) ∧
      (targetGroups s fn ≠ [] → inSave s (targetBlocks s fn) = false →
        ∃ t, acts (.stop fn flag) t ∧ t.mm = s.mm ∧ (t.window fn).status = 0 ∧
          (∀ g ∈ targetGroups s fn, ∀ i q, isSaved s g = false → s.split? g.gid i = some (g, q) → ∃ h, t.split? g.gid i = some (h,
            { q with stopReq := true, st := if g.mode = false ∧ (q.st = .ready ∨ q.st = .fault) then .stop else q.st })) ∧
          (∀ g ∈ targetGroups s fn, isSaved s g = true → s.group? g.gid = some g → t.group? g.gid = some { g with stopAsked := true }) ∧
          ((t.window fn).busy = true → ∃ x ∈ (t.window fn).stops, groupStopped t x = false) ∧
          ((t.window fn).busy = false → ∀ g ∈ targetGroups s fn, groupStopped t g.gid = true) ∧
          (flag = false → ∀ j, j ∉ (targetGroups s fn).map (·.gid) → t.group? j = s.group? j)) ∧
      (∀ g ∈ targetGroups s fn, ∀ i q, s.split? g.gid i = some (g, q) → q.st = .stop →
        ∃ t h, acts (.resume fn) t ∧ t.mm = s.mm ∧ (t.window fn).status = 0 ∧ t.split? g.gid i = some (h,
          { q with stopReq := false, stepOne := false, stepEnd := false, st := if q.fmask ≠ 0 then .fault else if g.mode = true ∧ q.frozen = false then .super else .ready }) ∧
          ∀ j, j ∉ (targetGroups s fn).map (·.gid) → t.group? j = s.group? j) ∧
      (∀ g r, targetGroups s fn = g :: r → (∃ q ∈ g.splits, q.st = .stop) →
        let i := w.split.toNat
        (∀ q, g.split? i = some q → q.st = .stop → q.frozen = false → s.group? g.gid = some g →
          ∃ t h, acts (.step fn) t ∧ t.mm = s.mm ∧ (t.window fn).status = 0 ∧
            t.split? g.gid i = some (h, { q with stepOne := true, stopReq := true })) ∧
        ((g.split? i = none ∨ ∃ q, g.split? i = some q ∧ (q.st ≠ .stop ∨ q.frozen = true)) → ends (.step fn) 4)) ∧
      (∀ l, targetLaunches s fn = [l] → s.launch? l.lid = some l → l.item = none → allBlocks s fn = true →
        (s.fe.blocks.map (·.bid)).Nodup → (∀ b ∈ s.fe.blocks, b.lid = l.lid → mustFinish s b = false ∧ b.st ≠ .ending) →
        ∃ t x, acts (.kill fn) t ∧ (t.window fn).status = 0 ∧ t.launch? l.lid = some x ∧ x.killed = true ∧ x.done = List.range l.total ∧
          x.nextBlock = l.total ∧ ∀ b ∈ t.fe.blocks, b.lid = l.lid → b.st = .ended) ∧
      (∀ b l, targetBlocks s fn = [b] → s.block? b.bid = some b → s.launch? b.lid = some l → allBlocks s fn = false →
        (mustFinish s b = true →
          ∃ t x, acts (.kill fn) t ∧ (t.window fn).status = 0 ∧ t.block? b.bid = some x ∧ x.st = .ending ∧ x.view = b.view) ∧
        (s.modeOf b ≠ 2 ∨ b.committed = true → mustFinish s b = false →
          ∃ t x y, acts (.kill fn) t ∧ (t.window fn).status = 0 ∧ t.block? b.bid = some x ∧ x.st = .ended ∧ t.launch? b.lid = some y ∧
            b.index.toNat ∈ y.done) ∧
        (s.modeOf b = 2 → b.committed = false →
          ∃ t x, acts (.kill fn) t ∧ (t.window fn).status = 0 ∧ t.block? b.bid = some x ∧ x.st = .waiting ∧ x.view = 0))) ∧
    ∀ gid sp g p n, s.split? gid sp = some (g, p) → comparator s g p = some n →
      (((s.block? g.bid).map (·.debug)).getD false = true →
        ∃ t h, exec (.breakpointMatch gid sp n) s = .next t ∧ t.mm = s.mm ∧
          t.split? gid sp = some (h, { p with stopReq := true, st := .stop, stepOne := false })) ∧
      (((s.block? g.bid).map (·.debug)).getD false = false →
        exec (.breakpointMatch gid sp n) s = .next (raiseAt s gid sp p.pc (.mk' 0x17 p.active (BitVec.ofNat 64 (0xFFFFFFFFFFFF0000 + n))) false))

/-- The command that stands next in the ring is in progress, with a status, done or not. -/
def Took (s t : State) (bs : List Byte) (status : Nat) (ready : Bool) : Prop :=
  (∃ c, t.mm.commands = s.mm.commands ++ [c] ∧ c.op = field bs 0 1 ∧ c.asid = field bs 2 2 ∧ c.va = field bs 8 8 ∧ c.arg = field bs 16 8 ∧
    c.ctag = BitVec.ofNat 64 (field bs 24 8) ∧ c.status = status ∧ c.ready = ready) ∧
  (t.ring 0 0).head = BitVec.ofNat 32 (((s.ring 0 0).head.toNat + 32) % (s.ring 0 0).size.toNat)

/-- The driver's commands (R277, R290 to R292, R296): BIND binds an ASID that is not bound, by its context entry; RETIRE one that nothing
uses, whose translations go; INVAL removes a range's; MIGRATE moves a page of 4 or 64 KiB in the five steps of R277, its bytes with it, or
gives up on a pinned one after 1,000,000 ticks; a malformed command completes as BAD_COMMAND; each that is done writes its completion. -/
def Commands : Prop :=
  ∀ (s : State) (bs : List Byte),
    let a := field bs 2 2
    let takes := fun (i : Instr) (st : Nat) => ∃ t, exec i s = .next t ∧ Took s t bs st true ∧ t.mm.contexts = s.mm.contexts ∧ t.mm.tlb = s.mm.tlb
    (commandOf s 1 = some bs →
      (∀ c, s.mm.contexts.find? (fun c => c.asid == a) = some c → takes .bind (if c.retiring then 2 else 1)) ∧
      (s.mm.contexts.find? (fun c => c.asid == a) = none →
        let entry := (homeRead s deviceTenancy 0 (s.sys.ctxBase.toNat + 32 * a) 32).bind (contextOf a)
        (entry = none → takes .bind 3) ∧
        ∀ c, entry = some c → ∃ t, exec .bind s = .next t ∧ Took s t bs 0 true ∧ t.mm.contexts = s.mm.contexts ++ [c])) ∧
    (commandOf s 2 = some bs →
      (s.context? a = none → takes .retire 5) ∧
      (∀ c, s.context? a = some c → asidInUse s a = true → takes .retire 4) ∧
      (∀ c, s.context? a = some c → asidInUse s a = false →
        ∃ t, exec .retire s = .next t ∧ Took s t bs 0 true ∧ (∀ x ∈ t.mm.tlb, x.asid ≠ a) ∧ (∀ x ∈ t.mm.walk, x.asid ≠ a) ∧
          (∀ x ∈ t.mm.l1, x.asid ≠ a) ∧
          t.mm.contexts = s.mm.contexts.map (fun c => if c.asid = a then { c with retiring := true } else c))) ∧
    (commandOf s 3 = some bs →
      (s.context? a = none → takes .inval 5) ∧
      (∀ c, s.context? a = some c →
        ∃ t, exec .inval s = .next t ∧ Took s t bs 0 true ∧ t.mm.contexts = s.mm.contexts ∧
          t.mm.tlb = s.mm.tlb.filter (fun x => !(x.asid == a && rangeMeets (field bs 8 8) (field bs 16 8) x.va x.size)) ∧
          ∀ x ∈ t.mm.l1, ¬ (x.asid = a ∧ rangeMeets (field bs 8 8) (field bs 16 8) (64 * x.va) 64 = true))) ∧
    (commandOf s 4 = some bs →
      let va := field bs 8 8
      let new := field bs 16 8
      let leaf := (s.context? a).bind (fun c => tableLeaf s c va)
      (leaf = none → takes .migrate 6) ∧
      ∀ l size, leaf = some (l, size) →
        let sized := size ≤ 65536 ∧ va % size = 0
        let framed := isDram new = true ∧ new + size ≤ dramEnd ∧ new % size = 0
        (¬ sized → takes .migrate 7) ∧ (sized → ¬ framed → takes .migrate 8) ∧
        (sized → framed → rangeMigrates s a va size = true → takes .migrate 9) ∧
        (sized → framed → rangeMigrates s a va size = false →
          ∃ t c, exec .migrate s = .next t ∧ Took s t bs 0 false ∧ t.mm.commands = s.mm.commands ++ [c] ∧ c.step = 0 ∧ c.old = l.pa ∧ c.size = size)) ∧
    (nextCommand s = some bs → commandOk bs = false → takes .badCommand 11) ∧
    ∀ n c, s.mm.commands[n]? = some c →
      let moves := fun (i : Instr) (c1 : Command) => ∃ t, exec i s = .next t ∧ t.mm.commands = s.mm.commands.set n c1
      (mayComplete s c = true → ringHasRoom (s.ring 0 1) = true →
        ∃ t, exec (.commandCompletion n) s = .next t ∧ t.mm.commands = s.mm.commands.eraseIdx n ∧
          (t.ring 0 1).tail = BitVec.ofNat 32 (((s.ring 0 1).tail.toNat + ringEntry 1) % (s.ring 0 1).size.toNat) ∧
          sgetMany t.mm.mem (2 ^ 51 + (s.ring 0 1).base.toNat + (s.ring 0 1).tail.toNat) 16 =
            leBytes c.ctag.toNat 8 ++ leBytes (Config.commandStatus c.status).toNat 4 ++ leBytes 0 4 ∧
          (t.mm.contexts = if c.op = 2 ∧ c.status = 0 then s.mm.contexts.filter (fun x => x.asid != c.asid) else s.mm.contexts) ∧
          (c.op = 3 → c.status = 0 → ∀ x ∈ t.mm.tlb, ¬ (x.asid = c.asid ∧ rangeMeets c.va c.arg x.va x.size = true))) ∧
      (mayComplete s c = false ∨ ringHasRoom (s.ring 0 1) = false → exec (.commandCompletion n) s = .next s) ∧
      (c.op = 4 → c.ready = false →
        (c.step = 1 → c.start + 1000000 ≤ s.clock → moves (.migratePinned n) { c with step := 0, status := 10, ready := true }) ∧
        (∀ x, s.mm.contexts.find? (fun x => x.asid == c.asid) = some x →
          (c.step = 0 → frameCommits s c.old c.size = false → moves (.migrateProceed n) { c with step := 1, start := s.clock }) ∧
          (c.step = 0 → frameCommits s c.old c.size = true → exec (.migrateProceed n) s = .next s) ∧
          (c.step = 1 → frameHeld (cleanFrame s c.old c.size) c.old c.size = false → moves (.migrateProceed n) { c with step := 2 }) ∧
          (c.step = 1 → frameHeld (cleanFrame s c.old c.size) c.old c.size = true →
            exec (.migrateProceed n) s = .next (cleanFrame s c.old c.size)) ∧
          (c.step = 2 → ((tableLeaf s x c.va).map (·.1.attr)).getD 0 ≠ 2 → c.old % 64 = 0 → c.arg % 64 = 0 → c.size % 64 = 0 →
            c.old + c.size ≤ c.arg ∨ c.arg + c.size ≤ c.old → (keyOf s x.tenancy).isSome = true →
            (∀ k, k < c.size / 64 → sectorFails s (c.old + 64 * k) = false ∧ flitFails s (c.old + 64 * k) = false ∧ flitFails s (c.arg + 64 * k) = false) →
            ∃ t, exec (.migrateProceed n) s = .next t ∧ t.mm.commands = s.mm.commands.set n { c with step := 3 } ∧
              ∀ k, k < c.size → homeRead t x.tenancy 0 (c.arg + k) 1 = homeRead s x.tenancy 0 (c.old + k) 1) ∧
          (∀ slot, c.step = 3 → frameRead s c.old c.size = false → leafSlot s x c.va = some slot →
            ∃ t, exec (.migrateProceed n) s = .next t ∧ t.mm.commands = s.mm.commands.set n { c with step := 4 } ∧
              ∀ y ∈ t.mm.tlb, ¬ (y.asid = c.asid ∧ rangeMeets c.va c.size y.va y.size = true)) ∧
          (3 < c.step → moves (.migrateProceed n) { c with step := 5, ready := true })))

/-- The answers to replayable faults, and ATS (R294, R383 to R385, R418): RETRY makes a page's fault no longer outstanding; INVALID also fails
what waits on it, a split with TRANSLATION for its lanes on the page and their lowest address; a PRG Response does the same for a function's
request, and a failure fails them all and turns its requests off, until PRI Enable; an ATS invalidation removes the function's translations
once no access uses them. -/
def Answers : Prop :=
  ∀ (s : State) (asid va : Nat),
    let page := va / 4096 * 4096
    let out := fun (pri : Bool) => ∃ f ∈ s.mm.faults, f.asid = asid ∧ f.va = page ∧ f.pri.isSome = pri ∧ f.posted = true
    let clear := fun (s : State) (pri : Bool) =>
      let s0 : State := { s with mm := { s.mm with faults := s.mm.faults.filter (fun f => !(f.asid == asid && f.va == page && f.pri.isSome == pri)) } }
      sendRequests s0.mm.faults.length s0
    let w := wakeBar s 0 0x20108
    (s.sys.stage ≠ .ready → ∀ inv, exec (.faultResponse asid va inv) s = .next s) ∧
    (s.sys.stage = .ready → ¬ out false → ∀ inv, exec (.faultResponse asid va inv) s = .next w) ∧
    (s.sys.stage = .ready → out false → exec (.faultResponse asid va false) s = .next (answerEngines (clear w false) asid page false)) ∧
    (∀ g q b m a, s.sys.stage = .ready → out false → s.en.copies = [] → s.en.tags = [] → s.fe.groups = [g] → g.splits = [q] → q.idx < 4 → g.mode = false →
      s.block? g.bid = some b → b.st = .running → evicted b g = false → (s.party g).asid = asid → faultLanes q page = some (m, a) →
      ∃ t g1 p1, exec (.faultResponse asid va true) s = .next t ∧ t.mm.faults = (clear w false).mm.faults ∧ t.split? g.gid q.idx = some (g1, p1) ∧
        g1.mode = true ∧ g1.trapCause.toNat % 64 = 6 ∧ g1.trapMask = m ∧ g1.trapAddr = BitVec.ofNat 64 a ∧ g1.trapPc = q.pc.setWidth 64 ∧
        p1.pc = g.tvec.setWidth 48) ∧
    (∀ fn, let mine := ∃ f ∈ functionRequests s fn, f.asid = asid ∧ f.va = page
      (mine → out true → exec (.prgResponse fn asid va 0) s = .next (answerEngines (clear s true) asid page false)) ∧
      (¬ mine → exec (.prgResponse fn asid va 0) s = .next s ∧ exec (.prgResponse fn asid va 1) s = .next s) ∧
      (∀ code, 1 < code → ∃ t, exec (.prgResponse fn asid va code) s = .next t ∧ fn ∈ t.sys.priOff) ∧
      (∃ t, exec (.priEnable fn) s = .next t ∧ fn ∉ t.sys.priOff ∧ t.mm = s.mm ∧ t.fe = s.fe ∧ ∀ k, k ≠ fn → (k ∈ t.sys.priOff ↔ k ∈ s.sys.priOff)) ∧
      ∀ addr len, (hostBusy s addr len = true → exec (.atsInvalidation fn addr len) s = .next s) ∧
        (hostBusy s addr len = false → ∃ t, exec (.atsInvalidation fn addr len) s = .next t ∧ t.mm = s.mm ∧ t.fe = s.fe ∧
          ∀ x, x ∈ t.sys.ats ↔ x ∈ s.sys.ats ∧ ¬ (x.1 = fn ∧ addr < 4096 * x.2.2 + 4096 ∧ 4096 * x.2.2 < addr + len)))

/-- Translation as the host drives it, as the two statements above say (R277, R290 to R296, R383 to R385, R418).
Log entries 27, 59 and 60 give the model's readings. -/
def Obligations.TranslationCommands : Prop := Commands ∧ Answers

/-- Quarters, latches and rates (R319, R320, R389, R390, R395 to R397, R407, R414): before boot is complete a write does
nothing; a write of PART pends with a latch change, and only makes a change that is under way be followed by another; a loan on a
powered cluster is made at once; a reclaimed loan pends for its owner's grace; a change that is complete takes its values, powers the
cluster or not, and counts LSEQ up for just those tenancies whose layout it changed; a latch change waits for the core to be empty and
leaves it clean; a source's rate goes down by a sixteenth with a mark and up by 1/64 of the peak without, within FLOOR and CAP.
Log entries 55 and 56 give the model's readings. -/
def Obligations.QuartersRates : Prop :=
  ∀ (s : State) (n : Nat) (v : BitVec 6),
    let q := s.quarter n
    let w := wakeBar s 0 (0x70000 + 8 * n)
    (s.sys.stage ≠ .ready → exec (.quarterPartWrite n v) s = .next s ∧ exec (.quarterLend n v) s = .next s ∧ exec (.quarterReclaim n) s = .next s) ∧
    (s.sys.stage = .ready → q.pend = true →
      exec (.quarterPartWrite n v) s = .next w ∧ (q.lent = 63 → exec (.quarterLend n v) s = .next w) ∧ (q.lent ≠ 63 → exec (.quarterReclaim n) s = .next w)) ∧
    (s.sys.stage = .ready → q.pend = false → n < 384 → v ≠ q.part →
      ∃ t, exec (.quarterPartWrite n v) s = .next t ∧ t.mm = s.mm ∧ t.quarter n = { q with pend := true, newPart := v, newLent := q.lent } ∧
        (t.latch n).lpend = true ∧ (t.latch n).latch = (s.latch n).latch ∧
        ((s.latch n).lpend = true → t.latch n = { s.latch n with again := true })) ∧
    (s.sys.stage = .ready → q.pend = false → n < 384 → q.lent = 63 → v ≠ 63 → v ≠ q.part → clusterOn s (n / 4) = true →
      ∃ t, exec (.quarterLend n v) s = .next t ∧ t.mm = s.mm ∧ t.fe = w.fe ∧
        t.quarter n = { q with lent := v, pend := false, newPart := q.part, newLent := v, graceEnd := none }) ∧
    (q.lent ≠ 63 → exec (.quarterLend n v) s = .next s) ∧ (q.lent = 63 → exec (.quarterReclaim n) s = .next s) ∧
    (s.sys.stage = .ready → q.pend = false → n < 384 → q.lent ≠ 63 →
      ∃ t, exec (.quarterReclaim n) s = .next t ∧ t.mm = s.mm ∧ t.fe = w.fe ∧
        t.quarter n = { q with
          pend := true, newPart := q.part, newLent := 63
          graceEnd := some (s.clock + 1000 * (s.partition q.part.toNat).grace.toNat) }) ∧
    (quarterDone s n = false → exec (.layoutChangeComplete n) s = .next s) ∧
    (quarterDone s n = true →
      ∃ t, exec (.layoutChangeComplete n) s = .next t ∧
        t.quarter n = { q with part := q.newPart, lent := q.newLent, pend := false, graceEnd := none } ∧
        (clusterAssigned t (n / 4) = true → clusterOn t (n / 4) = true) ∧
        (clusterAssigned t (n / 4) = false → (t.island (2 * (n / 4))).on = false ∧ (t.island (2 * (n / 4) + 1)).on = false) ∧
        ∀ ten ∈ layoutTenancies s,
          (t.tenancy ten).lseq = (s.tenancy ten).lseq + (if layoutBytes s ten = layoutBytes t ten then 0 else 1)) ∧
    (let h := s.latch n
     (h.lpend = false ∨ coreOccupied s n = true → exec (.latchChange n) s = .next s) ∧
     (h.lpend = true → coreOccupied s n = false → (∀ c ∈ s.en.copies, ¬ (c.cluster = n / 4 ∧ c.core = n % 4)) → quadrantTags s n = [] →
       let ten := servingTenancy s (servesNext (s.quarter n))
       ∃ t, exec (.latchChange n) s = .next t ∧
         t.latch n = (if h.again = true ∧ h.next.toNat ≠ ten then { h with latch := h.next, next := BitVec.ofNat 8 ten, lpend := true, again := false }
           else { h with latch := h.next, lpend := false, again := false }) ∧
         (∀ x ∈ t.mm.l1, ¬ (x.cluster = n / 4 ∧ x.core = n % 4)) ∧ ∀ e ∈ t.fe.echo, e.sched / 4 ≠ n)) ∧
    ∀ ten source, ten < 255 → source < 100 →
      let x := (s.sys.rates.find? (fun x => x.t == ten && x.source == source)).getD (Rate.atStart ten source)
      let lo := ((s.tenancy ten).floor.toNat + 1) * 2 ^ 16
      let hi := ((s.tenancy ten).cap.toNat + 1) * 2 ^ 16
      (s.clock % 1024 ≠ 0 → exec (.rateControlPeriod ten source) s = .next s) ∧
      (s.clock % 1024 = 0 →
        ∃ t, exec (.rateControlPeriod ten source) s = .next t ∧ t.fe = s.fe ∧ t.mm = s.mm ∧
          t.sys.rates.find? (fun x => x.t == ten && x.source == source) =
            some { x with rate := if x.mark then max lo (x.rate - x.rate / 16) else min hi (x.rate + 2 ^ 18), mark := false })

/-- Reset, boot and images (R98 to R100, R340, R399, R401, R409 to R413, R415): a power-on reset starts boot and keeps what was written and each
tenancy's HSEQ and imported hand-over; the stages follow one another, with the images that each verifies and measures and what it sets up, or end in a
failure code that is theirs, or with 5 after
5 s; every millisecond the ratios move by one; the loader registers an accepted image and refuses any other; unloading removes it once
nothing uses it.
Log entries 3, 21, 40, 57 and 58 give the model's readings. -/
def Obligations.BootImages : Prop :=
  ∀ (s : State),
    (∃ t, exec .powerOnReset s = .next t ∧ t.sys.stage = .rom ∧ t.sys.stageStart = t.clock ∧ t.clock = 0 ∧ t.fe = State.reset.fe ∧
      t.en = State.reset.en ∧ t.mm.mem = s.mm.mem ∧ t.mm.scratch = State.reset.mm.scratch ∧ t.sys.slots = State.reset.sys.slots ∧
      t.sys.meas = State.reset.sys.meas ∧ ∀ n, t.tenancy n = { Tenancy.atReset n with hseq := (s.tenancy n).hseq, imported := (s.tenancy n).imported }) ∧
    (let enters := fun (g : Stage) (t : State) => exec (.bootStageEnd 0) s = .next t ∧ t.sys.stage = g ∧ t.sys.stageStart = s.clock ∧ t.fe = s.fe ∧ t.mm = s.mm
     let fails := fun (code : Nat) => ∃ t, exec (.bootStageEnd 0) s = .next t ∧ t.sys.stage = .failed ∧ t.sys.failCode = BitVec.ofNat 8 code ∧
       t.fe = s.fe ∧ t.mm = s.mm
     let extend := fun (m d : BitVec 512) => shake256 (wideBytes m ++ wideBytes d)
     let old := fun (i : Nat) => s.sys.meas.getD i 0
     (s.sys.stage = .rom → s.sys.meas.length = 4 →
       (∀ code, imageFails Config.firmware = some code → fails code) ∧
       (imageFails Config.firmware = none →
         ∃ t, enters .firmware t ∧ t.sys.meas = s.sys.meas.set 0 (extend (old 0) (shake256 Config.firmware.body)))) ∧
     (s.sys.stage = .firmware → s.sys.meas.length = 4 →
       ((∃ m ∈ Config.subImages, imageFails m ≠ none) → fails 3) ∧
       ((∀ m ∈ Config.subImages, imageFails m = none) →
         ∃ t, enters .training t ∧
           t.sys.meas = (s.sys.meas.set 1 (Config.subImages.foldl (fun x m => extend x (shake256 m.body)) (old 1))).set 3 (extend (old 3) (shake256 Config.fuses)) ∧
           ∀ i ∈ sharedIslands, (t.island i).on = true ∧ (t.island i).ratio = 16)) ∧
     (∀ m, imageFails m = (if shake256 m.pubkey ≠ Config.rootDigest then some 1
       else if Config.falconVerify m.pubkey m.signature (wideBytes (shake256 m.body)) then none else some 2)) ∧
     (s.sys.stage = .training → ∃ t, enters .ready t ∧ (t.slot 0).loaded = true ∧ ∀ n, n ≠ 0 → t.slot n = s.slot n)) ∧
    (∀ code, code ≠ 0 →
      (code ∈ stageFails s.sys.stage →
        ∃ t, exec (.bootStageEnd code) s = .next t ∧ t.sys.stage = .failed ∧ t.sys.failCode = BitVec.ofNat 8 code ∧ t.fe = s.fe ∧ t.mm = s.mm) ∧
      (code ∉ stageFails s.sys.stage → exec (.bootStageEnd code) s = .next s)) ∧
    (s.sys.stage = .rom ∨ s.sys.stage = .firmware ∨ s.sys.stage = .training →
      (s.sys.stageStart + 5000000000 ≤ s.clock →
        ∃ t, exec .bootStageTimeout s = .next t ∧ t.sys.stage = .failed ∧ t.sys.failCode = 5 ∧ t.fe = s.fe ∧ t.mm = s.mm) ∧
      (s.clock < s.sys.stageStart + 5000000000 → exec .bootStageTimeout s = .next s)) ∧
    (∀ pnow : BitVec 16, s.clock % 1000000 = 0 →
      ∃ t, exec (.powerRatioUpdate pnow) s = .next t ∧ t.sys.pnow = pnow ∧ t.fe = s.fe ∧ t.mm = s.mm ∧
        ∀ i, i < 192 → (s.island i).on = true →
          let k := (s.island i).ratio.toNat
          let past := s.sys.plimit.toNat < pnow.toNat
          let T := s.sys.siteT.getD (i / 48) 1760
          let x := t.island i
          (past → T < 1680 → x.ratio = BitVec.ofNat 5 (max 4 (k - 1))) ∧
          (¬ past → 1680 ≤ T → x.ratio = BitVec.ofNat 5 (max 4 (k - 1))) ∧
          (100 * pnow.toNat < 95 * s.sys.plimit.toNat → T < 1600 → x.ratio = BitVec.ofNat 5 (min 16 (k + 1))) ∧
          (¬ past → T < 1680 → 95 * s.sys.plimit.toNat ≤ 100 * pnow.toNat ∨ 1600 ≤ T → x.ratio = (s.island i).ratio)) ∧
    (∀ part image entry save, s.sys.stage = .ready → part < 63 → s.sys.meas.length = 4 →
      ∃ t, exec (.supervisorImageLoad part image entry save) s = .next t ∧ t.fe = s.fe ∧ t.mm = s.mm ∧ (t.partition part).tvec = entry ∧
        (t.partition part).saveBase = save ∧
        t.sys.meas = s.sys.meas.set 2 (shake256 (wideBytes (s.sys.meas.getD 2 0) ++ wideBytes (shake256 image)))) ∧
    (∀ asid base frame image,
      let size := imageSize (sections image)
      (imageError image base ≠ none → exec (.imageLoad asid base frame image) s = .next s) ∧
      (∀ c, s.context? asid = some c → imageError image base = none → base % 2 ^ 21 = 0 → frame % 4096 = 0 → base + size ≤ 2 ^ 48 →
        frame + 2 * size + 2 ^ 16 ≤ dramEnd → (∀ x ∈ s.fe.images, base + size ≤ x.base ∨ x.base + x.size ≤ base) →
        ∃ t, exec (.imageLoad asid base frame image) s = .next t ∧ t.fe.images = s.fe.images ++ [(⟨base, asid, size⟩ : Image)] ∧
          t.fe.kernels = s.fe.kernels ++ (imageKernels (sections image) base c.tenancy).map (·.2) ∧ t.sys = s.sys ∧ t.en = s.en)) ∧
    ∀ base,
      (imageBusy s base = true → exec (.imageUnload base) s = .next s) ∧
      (imageBusy s base = false →
        ∃ t, exec (.imageUnload base) s = .next t ∧ t.mm = s.mm ∧ (∀ x, x ∈ t.fe.images ↔ x ∈ s.fe.images ∧ x.base ≠ base) ∧
          (∀ k, k ∈ t.fe.kernels ↔ k ∈ s.fe.kernels ∧ k.image ≠ base) ∧ ∀ f, f ∈ t.fe.flumes ↔ f ∈ s.fe.flumes ∧ f.image ≠ base)
/-! ## Attestation and keys -/

/-- Of the whole state only function `fn`'s responder is another: it is `r`. -/
def OnlyResponder (s t : State) (fn : Nat) (r : Responder) : Prop :=
  t.responder fn = r ∧ (∀ k, k ≠ fn → t.responder k = s.responder k) ∧ t = { s with sys := { s.sys with responders := t.sys.responders } }

/-- The SPDM requests (R401 to R405): none is answered before boot completes, and one that comes while another is being answered gets Busy; one that the
state does not accept is an unexpected request, which resets the transcript and the state and leaves the open sessions; then the version and the fields
are checked, and a failure changes the answer alone; an accepted request is answered, and both join the transcript. KEY_EXCHANGE begins a session with a
transcript of its own, which FINISH opens. A vendor-defined request that is no key command gets BAD_COMMAND within a session.
The layout of each message is log entry 41's, the order of the checks and what a malformed request is log entry 42's, and SHAKE256 is log entry 85's. -/
def Obligations.AttestationRequests : Prop :=
  ∀ (s : State) (fn : Nat) (v : Byte) (bs : List Byte),
    let r := s.responder fn
    let neg := r.st = .negotiated
    let chain := chainOf s
    let off := field bs 2 2
    let part := (chain.drop off).take (field bs 4 2)
    let op := bs.getD 1 0
    let sign := bs.getD 0 0
    let error := fun (code : Byte) => ([0x14, 0x7F, code, 0] : List Byte)
    let idle : Responder := { r with answer := error 4, st := .idle, transcript := [], opening := none }
    let requests : List (Instr × Prop × Prop) :=
      [(.getVersion fn v bs, True, bs.length = 2), (.getCapabilities fn v bs, r.st = .versioned, bs.length = 18),
       (.negotiateAlgorithms fn v bs, r.st = .caps, offerOk bs = true), (.getDigests fn v bs, neg, bs.length = 2),
       (.getCertificate fn v bs, neg, bs.length = 6 ∧ bs.getD 0 0 = 0 ∧ off ≤ 6208),
       (.challenge fn v bs, neg, bs.length = 34 ∧ bs.getD 0 0 = 0 ∧ bs.getD 1 0 = 0),
       (.getMeasurements fn v bs, neg, sign ≤ 1 ∧ (op ≤ 7 ∨ op = 0xFF) ∧ bs.length = (if sign = 1 then 35 else 2) ∧ bs.getD 34 0 = 0),
       (.keyExchange fn v bs, neg, bs.length = 1572 ∧ bs.getD 0 0 = 0 ∧ bs.getD 1 0 = 0),
       (.finish fn v bs, neg ∧ r.opening ≠ none, ∀ x, r.opening = some x → Config.finishVerify x.transcript bs = true)]
    let gives := fun (i : Instr) (x : Responder) => ∃ t, exec i s = .next t ∧ OnlyResponder s t fn x
    (s.sys.stage ≠ .ready → (∀ z ∈ requests, exec z.1 s = .next s) ∧ ∀ code, exec (.unsupportedRequest fn code v bs) s = .next s) ∧
    (s.sys.stage = .ready → r.busy = true →
      (∀ z ∈ requests, gives z.1 { r with answer := error 3 }) ∧ ∀ code, gives (.unsupportedRequest fn code v bs) { r with answer := error 3 }) ∧
    (s.sys.stage = .ready → r.busy = false →
      (∀ z ∈ requests, ¬ z.2.1 → gives z.1 idle) ∧
      (∀ z ∈ requests, z.2.1 → v ≠ 0x14 → gives z.1 { r with answer := error 0x41 }) ∧
      (∀ z ∈ requests, z.2.1 → v = 0x14 → ¬ z.2.2 → gives z.1 { r with answer := error 1 }) ∧
      (∀ code : Byte, let i := Instr.unsupportedRequest fn code v bs
        let known := code ∈ ([0x84, 0xE1, 0xE3, 0x81, 0x82, 0x83, 0xE0, 0xE4, 0xE5, 0xFE] : List Byte)
        (¬ known → gives i { r with answer := error 7 }) ∧
        (code = 0xFE → r.sessions = [] → gives i idle) ∧
        (known → code ≠ 0xFE ∨ r.sessions ≠ [] → v ≠ 0x14 → gives i { r with answer := error 0x41 }) ∧
        (known → code ≠ 0xFE → v = 0x14 → exec i s = .next s) ∧
        (code = 0xFE → r.sessions ≠ [] → v = 0x14 →
          (vendorFormed bs = false → gives i { r with answer := error 1 }) ∧
          (vendorFormed bs = true → commandFormed bs = false → gives i { r with answer := [0x14, 0x7E, 0, 0] ++ vendorHead ++ [1, 0, 7] }) ∧
          (vendorFormed bs = true → commandFormed bs = true → exec i s = .next s))) ∧
      (v = 0x14 →
        let said := fun (code : Byte) (a : List Byte) => r.transcript ++ (v :: code :: bs) ++ a
        let signs := fun (code : Byte) (body : List Byte) => body ++ signature s (r.transcript ++ (v :: code :: bs) ++ body)
        let drawn := fun (i : Instr) (x : Responder) =>
          ∃ t, exec i s = .next t ∧ t.sys.drawn = s.sys.drawn + 1 ∧ OnlyResponder { s with sys := { s.sys with drawn := s.sys.drawn + 1 } } t fn x
        chain.length = 6208 ∧ (∀ msg, (signature s msg).length = 1280) ∧
        (bs.length = 2 →
          let a := [0x14, 0x04, 0, 0, 0x14]
          gives (.getVersion fn v bs) { r with st := .versioned, opening := none, answer := a, transcript := (v :: 0x84 :: bs) ++ a }) ∧
        (r.st = .versioned → bs.length = 18 →
          let a := [0x14, 0x61, 0, 0] ++ leBytes 0x2D6 4
          gives (.getCapabilities fn v bs) { r with st := .caps, answer := a, transcript := said 0xE1 a }) ∧
        (r.st = .caps → offerOk bs = true →
          let alg := fun (n : Byte) => ([0x07, 0xC5, 0xD7, 0x01, 0x00, n, 0] : List Byte)
          let a := [0x14, 0x63, 0, 0] ++ List.replicate 8 0 ++ alg 1 ++ alg 2 ++ alg 3 ++ [2, 0, 1, 0]
          gives (.negotiateAlgorithms fn v bs) { r with st := .negotiated, answer := a, transcript := said 0xE3 a }) ∧
        (neg →
          (bs.length = 2 →
            let a := [0x14, 0x01, 0, 1] ++ wideBytes (shake256 chain)
            gives (.getDigests fn v bs) { r with answer := a, transcript := said 0x81 a }) ∧
          (bs.length = 6 → bs.getD 0 0 = 0 → off ≤ 6208 →
            let a := [0x14, 0x02, 0, 0] ++ leBytes part.length 2 ++ leBytes (6208 - off - part.length) 2 ++ part
            gives (.getCertificate fn v bs) { r with answer := a, transcript := said 0x82 a }) ∧
          (bs.length = 34 → bs.getD 0 0 = 0 → bs.getD 1 0 = 0 →
            let a := signs 0x83 ([0x14, 0x03, 0, 0] ++ wideBytes (shake256 chain) ++ leBytes (Config.nonce s.sys.drawn).toNat 32)
            drawn (.challenge fn v bs) { r with answer := a, transcript := said 0x83 a }) ∧
          (op ≤ 7 ∨ op = 0xFF →
            let ids := if op = 0 then [] else if op = 0xFF then [1, 2, 3, 4, 5, 6, 7] else [op.toNat]
            let blocks := ids.flatMap (measBlock s fn)
            let body := [0x14, 0x60, if op = 0 then 7 else 0, 0] ++ leBytes ids.length 1 ++ leBytes blocks.length 3 ++ blocks
            (sign = 0 → bs.length = 2 → gives (.getMeasurements fn v bs) { r with answer := body, transcript := said 0xE0 body }) ∧
            (sign = 1 → bs.length = 35 → bs.getD 34 0 = 0 →
              gives (.getMeasurements fn v bs) { r with answer := signs 0xE0 body, transcript := said 0xE0 (signs 0xE0 body) })) ∧
          (bs.length = 1572 → bs.getD 0 0 = 0 → bs.getD 1 0 = 0 →
            let half := r.sessions.length % 65536
            let a := signs 0xE4 ([0x14, 0x64, 0, 0] ++ leBytes half 2 ++ fit 1568 (Config.kemCipher (bs.drop 4) s.sys.drawn))
            drawn (.keyExchange fn v bs)
              { r with opening := some ⟨field bs 2 2 + 65536 * half, (v :: 0xE4 :: bs) ++ a⟩, answer := a, transcript := said 0xE4 a }) ∧
          (∀ x, r.opening = some x → Config.finishVerify x.transcript bs = true →
            let a := [0x14, 0x65, 0, 0]
            gives (.finish fn v bs)
              { r with
                opening := none, sessions := r.sessions ++ [{ x with transcript := x.transcript ++ (v :: 0xE5 :: bs) ++ a }]
                answer := a, transcript := said 0xE5 a })))) ∧
    ∀ i, let w := measValue s fn i
      measBlock s fn i = leBytes i 1 ++ [1] ++ leBytes (3 + w.length) 2 ++ leBytes (measType i) 1 ++ leBytes w.length 2 ++ w ∧
        (i ≤ 4 → w = wideBytes (s.sys.meas.getD (i - 1) 0)) ∧ (i = 5 → w.length = 64) ∧ (i = 6 → w = leBytes (s.tenancy r.tenancy).lseq.toNat 8) ∧
        (i = 7 → w = leBytes (s.tenancy r.tenancy).hseq.toNat 8)

/-- The key commands (R405 to R409): while another request is being answered each gets Busy, and outside a session it is an unexpected request; the checks that R405 to R409 give fail in the order of
their status, and a command that fails changes the answer alone; KEY_PROVISION and KEY_LOAD load the key into the tenancy's slot, or a free
one; KEY_EXPORT seals it; KEY_CLEAR erases it; HANDOVER_EXPORT signs the packet and takes its HSEQ, HANDOVER_COMMIT erases the key,
HANDOVER_IMPORT loads the packet's key once, HANDOVER_CONFIRM records the end.
Log entries 41, 42, 43 and 85 give the model's readings: the layout of each message, the order of the checks, the layout digest, and the algorithms. -/
def Obligations.KeyCommands : Prop :=
  ∀ (s : State) (fn : Nat) (lseq hseq : DWord) (key policy digest : BitVec 512) (bs cs : List Byte),
    let r := s.responder fn
    let T := r.tenancy
    let x := s.tenancy T
    let packet := x.exported.getD []
    let unsealed := openBlob s policy bs
    let unwrapped := kemUnwrap ((bs.drop 73).take 1660)
    let again := x.imported = some bs ∧ x.hseq = packetHseq bs
    let commands : List (Instr × List (Nat × Prop)) :=
      [(.keyProvision fn lseq key policy, [(3, x.lseq ≠ lseq), (4, slotFor s T = none), (7, 255 ≤ T)]),
       (.keyExport fn policy, [(7, workingKey s T = none ∨ 255 ≤ T)]),
       (.keyLoad fn lseq bs policy,
         [(1, unsealed = none), (2, (bs.getD 3 0).toNat ≠ T), (3, x.lseq ≠ lseq), (4, slotFor s T = none),
          (7, bs.length ≠ 180 ∨ bs.take 88 ≠ blobHead T ∨ 255 ≤ T)]),
       (.keyClear fn, [(7, 255 ≤ T)]),
       (.handoverExport fn hseq bs cs digest,
         [(5, hseq.toNat ≤ x.hseq.toNat), (7, bs.length ≠ 1568 ∨ cs.length ≠ 1568 ∨ workingKey s T = none ∨ 255 ≤ T)]),
       (.handoverCommit fn hseq, [(5, x.hseq ≠ hseq), (7, x.exported = none ∨ packetHseq packet ≠ hseq ∨ 255 ≤ T)]),
       (.handoverImport fn lseq bs cs,
         [(1, verified s (wideAt bs (packetBody - 64)) packetBody bs = false ∨
              (cs ≠ [] ∧ verified s (wideAt bs (packetBody - 64)) recordBody cs = false) ∨ wideAt bs 9 ≠ identityDigest s ∨ unwrapped = none),
          (2, packetTenancy bs ≠ T ∨ (cs ≠ [] ∧ packetTenancy cs ≠ T)), (3, x.lseq ≠ lseq), (4, slotFor s T = none),
          (5, ¬ again ∧ (packetHseq bs).toNat ≤ x.hseq.toNat), (6, namesPacket cs bs = false),
          (7, bs.length ≠ packetBody + 1280 ∨ cs.length ≠ recordBody + 1280 ∨ 255 ≤ T)]),
       (.handoverConfirm fn bs,
         [(1, verified s (wideAt packet 9) recordBody bs = false ∨ wideAt bs 9 ≠ shake256 packet), (2, packetTenancy bs ≠ T),
          (5, packetHseq bs ≠ x.hseq), (6, x.committed = false), (7, bs.length ≠ recordBody + 1280 ∨ 255 ≤ T)])]
    let said := fun (n : Nat) (data : List Byte) => [0x14, 0x7E, 0, 0] ++ vendorHead ++ leBytes (1 + data.length) 2 ++ [BitVec.ofNat 8 n] ++ data
    let gives := fun (i : Instr) (y : Responder) => ∃ t, exec i s = .next t ∧ OnlyResponder s t fn y
    (s.sys.stage ≠ .ready → ∀ z ∈ commands, exec z.1 s = .next s) ∧
    (s.sys.stage = .ready → r.busy = true → ∀ z ∈ commands, gives z.1 { r with answer := [0x14, 0x7F, 3, 0] }) ∧
    (s.sys.stage = .ready → r.busy = false → r.sessions = [] → ∀ z ∈ commands,
      gives z.1 { r with answer := [0x14, 0x7F, 4, 0], st := .idle, transcript := [], opening := none }) ∧
    (s.sys.stage = .ready → r.busy = false → r.sessions ≠ [] →
      (∀ z ∈ commands, ∀ pre n post, ∀ p : Prop, z.2 = pre ++ (n, p) :: post → (∀ y ∈ pre, ¬ y.2) → p →
        gives z.1 { r with answer := said n [] }) ∧
      ∀ z ∈ commands, (∀ y ∈ z.2, ¬ y.2) →
        let done := fun (i : Instr) (data : List Byte) (more : State → Prop) =>
          z.1 = i → ∃ t, exec i s = .next t ∧ t.responder fn = { r with answer := said 0 data } ∧ t.mm = s.mm ∧ t.fe = s.fe ∧
            (∀ k, k ≠ T → (t.tenancy k).slot = (s.tenancy k).slot ∧ (t.tenancy k).hseq = (s.tenancy k).hseq) ∧ more t
        let loads := fun (w : BitVec 512) (t : State) => ∃ n, slotFor s T = some n ∧ (t.tenancy T).slot = some n ∧
          t.slot n = { s.slot n with loaded := true, owner := BitVec.ofNat 8 T, key := w } ∧ ∀ k, k ≠ n → t.slot k = s.slot k
        done (.keyProvision fn lseq key policy) [] (loads key) ∧
        (let nonce := leBytes (Config.nonce s.sys.drawn).toNat 12
         done (.keyExport fn policy)
           (blobHead T ++ nonce ++ gcmSeal (sealKey s policy) nonce (blobHead T) (wideBytes ((workingKey s T).getD 0))) (fun t => ∀ k, t.slot k = s.slot k)) ∧
        done (.keyLoad fn lseq bs policy) [] (loads (unsealed.getD 0)) ∧
        done (.keyClear fn) [] (fun t => (t.tenancy T).slot = none ∧
          ∀ n, x.slot = some n → (t.slot n).loaded = false ∧ (t.slot n).key = 0 ∧ ∀ k, k ≠ n → t.slot k = s.slot k) ∧
        (let wrap := fun (ek : List Byte) (n : Nat) => kemWrap ek n (leBytes (Config.nonce n).toNat 12) ((workingKey s T).getD 0)
         let p := signBody s (leBytes T 1 ++ leBytes hseq.toNat 8 ++ wideBytes digest ++ wrap bs s.sys.drawn ++ wrap cs (s.sys.drawn + 1) ++
           wideBytes (identityDigest s))
         done (.handoverExport fn hseq bs cs digest) p (fun t => (t.tenancy T).hseq = hseq ∧ (t.tenancy T).exported = some p ∧
           (t.tenancy T).committed = false ∧ ∀ k, t.slot k = s.slot k)) ∧
        done (.handoverCommit fn hseq) (packetRecord s T hseq packet) (fun t => (t.tenancy T).committed = true ∧
          ∀ n, x.slot = some n → (t.slot n).loaded = false ∧ (t.slot n).key = 0) ∧
        done (.handoverImport fn lseq bs cs) (packetRecord s T (packetHseq bs) bs) (fun t =>
          (again → ∀ k, t.slot k = s.slot k) ∧
          (¬ again → loads (unwrapped.getD 0) t ∧ (t.tenancy T).hseq = packetHseq bs ∧ (t.tenancy T).imported = some bs)) ∧
        done (.handoverConfirm fn bs) [] (fun t => (t.tenancy T).confirmed = true ∧ ∀ k, t.slot k = s.slot k))

/-! ## The invariant of the memories -/

/-- The machine after reset has memories of the canonical form (R410). -/
def Obligations.ResetInv : Prop := State.reset.Inv

/-- Every step keeps the canonical form of memory and of the pools: addresses strictly rising, no byte listed that equals what an unlisted
address reads as. The form is the model's own.
Log entry 2 gives the model's readings. -/
def Obligations.StepKeepsInv : Prop := ∀ (s t : State), s.Inv → step s = .next t → t.Inv
end

