-- ==== Sys2Proof/Laws/Crypto.lean ====
section
/-! SUPPORT. What the algorithms of Machine/Crypto.lean give back: the lengths of their results, and that GCM opens what it sealed. -/

namespace Sys2Proof.Machine

@[simp] theorem length_leBytes (v n : Nat) : (leBytes v n).length = n := by
  induction n generalizing v with
  | zero => rfl
  | succ n ih => simp [leBytes, ih]

theorem leNat_leBytes (v n : Nat) : leNat (leBytes v n) = v % 256 ^ n := by
  induction n generalizing v with
  | zero => simp [leBytes, leNat, Nat.mod_one]
  | succ n ih =>
    rw [leBytes, leNat, ih, BitVec.toNat_ofNat, Nat.pow_succ' (m := 256), Nat.mod_mul (x := v) (a := 256)]

@[simp] theorem length_xorBytes (a b : List Byte) : (xorBytes a b).length = min a.length b.length := by simp [xorBytes]

theorem xorBytes_twice (a b : List Byte) (h : a.length ≤ b.length) : xorBytes (xorBytes a b) b = a := by
  induction a generalizing b with
  | nil => rfl
  | cons x a ih =>
    cases b with
    | nil => simp at h
    | cons y b =>
      have := ih b (by simpa using h)
      simp_all [xorBytes]

theorem length_shiftRows (k : Nat) (b : List Byte) : (shiftRows k b).length = 16 := by simp [shiftRows]
theorem length_mixColumns (m b : List Byte) : (mixColumns m b).length = 16 := by simp [mixColumns]

/-- The key schedule is 60 words long. -/
theorem length_expandKey {key : List Byte} (h : key.length = 32) : (expandKey key).length = 240 := by
  have step (n : Nat) : ((List.range n).foldl (fun ws j =>
      let t := ws.drop (4 * (j + 7))
      let t1 :=
        if j % 8 = 0 then xorBytes ((t.drop 1 ++ t.take 1).map subByte) ((List.range (j / 8)).foldl (fun x _ => gfDouble x) 1 :: [0, 0, 0])
        else if j % 8 = 4 then t.map subByte
        else t
      ws ++ xorBytes ((ws.drop (4 * j)).take 4) t1) key).length = 32 + 4 * n := by
    induction n with
    | zero => simpa using h
    | succ n ih =>
      rw [List.range_succ, List.foldl_append]
      simp only [List.foldl_cons, List.foldl_nil, List.length_append, length_xorBytes, List.length_take, List.length_drop, ih]
      split
      · simp only [length_xorBytes, List.length_map, List.length_append, List.length_drop, List.length_take, ih, List.length_cons, List.length_nil]
        omega
      · split
        · simp only [List.length_map, List.length_drop, ih]
          omega
        · simp only [List.length_drop, ih]
          omega
  exact step 52

theorem length_aesEncrypt {key : List Byte} (h : key.length = 32) (blk : List Byte) : (aesEncrypt key blk).length = 16 := by
  simp [aesEncrypt, length_shiftRows, block16, length_expandKey h]

theorem length_gcmStream {key : List Byte} (h : key.length = 32) (nonce bs : List Byte) : (gcmStream key nonce bs).length = bs.length := by
  simp only [gcmStream, length_xorBytes, List.length_flatMap, length_aesEncrypt h, List.map_const', List.length_range, List.sum_replicate_nat]
  omega

theorem gcmStream_twice {key : List Byte} (h : key.length = 32) (nonce bs : List Byte) : gcmStream key nonce (gcmStream key nonce bs) = bs := by
  have hl := length_gcmStream h nonce bs
  rw [gcmStream, hl]
  refine xorBytes_twice _ _ ?_
  simp only [List.length_flatMap, length_aesEncrypt h, List.map_const', List.length_range, List.sum_replicate_nat]
  omega

theorem length_gcmTag {key : List Byte} (h : key.length = 32) (nonce aad ct : List Byte) : (gcmTag key nonce aad ct).length = 16 := by
  simp [gcmTag, length_aesEncrypt h, beBytes]

/-- GCM opens what it sealed (R406). -/
theorem gcmOpen_gcmSeal {key : List Byte} (h : key.length = 32) (nonce aad plain : List Byte) :
    gcmOpen key nonce aad (gcmSeal key nonce aad plain) = some plain := by
  have ht := length_gcmTag h nonce aad (gcmStream key nonce plain)
  simp [gcmOpen, gcmSeal, ht, gcmStream_twice h]

theorem length_keccakRound (a : List (BitVec 64)) (rc : BitVec 64) : (keccakRound a rc).length = 25 := by simp [keccakRound]

theorem length_shakeAbsorb (a : List (BitVec 64)) (blk : List Byte) : (shakeAbsorb a blk).length = 25 := by
  simp [shakeAbsorb, keccakRounds, length_keccakRound]

/-- SHAKE256 gives as many bytes as are asked for, up to 136. -/
theorem length_shake (bs : List Byte) {n : Nat} (h : n ≤ 136) : (shake bs n).length = n := by
  have step (f : Nat → List Byte) (k : Nat) (a : List (BitVec 64)) (ha : a.length = 25) :
      ((List.range k).foldl (fun a i => shakeAbsorb a (f i)) a).length = 25 := by
    induction k with
    | zero => exact ha
    | succ k _ => simp [List.range_succ, length_shakeAbsorb]
  simp only [shake, List.length_take, List.length_flatMap, length_leBytes, List.map_const', List.sum_replicate_nat]
  rw [step _ _ _ (by simp)]
  omega

end Sys2Proof.Machine
end

