-- ==== Sys2Proof/Laws/State.lean ====
section
/-! SUPPORT. What each named update of the state leaves alone and what it puts in: one lemma a field. -/

namespace Sys2Proof.Machine

/-! ## State.mapGroups -/

@[simp] theorem State.mapGroups_clock (s : State) (f : Group → Group) : (s.mapGroups f).clock = s.clock := rfl
@[simp] theorem State.mapGroups_seq (s : State) (f : Group → Group) : (s.mapGroups f).seq = s.seq := rfl
@[simp] theorem State.mapGroups_nextId (s : State) (f : Group → Group) : (s.mapGroups f).nextId = s.nextId := rfl
@[simp] theorem State.mapGroups_cur (s : State) (f : Group → Group) : (s.mapGroups f).cur = s.cur := rfl
@[simp] theorem State.mapGroups_agenda (s : State) (f : Group → Group) : (s.mapGroups f).agenda = s.agenda := rfl
@[simp] theorem State.mapGroups_fe (s : State) (f : Group → Group) :
    (s.mapGroups f).fe = { s.fe with groups := s.fe.groups.map f } := rfl
@[simp] theorem State.mapGroups_mm (s : State) (f : Group → Group) : (s.mapGroups f).mm = s.mm := rfl
@[simp] theorem State.mapGroups_en (s : State) (f : Group → Group) : (s.mapGroups f).en = s.en := rfl
@[simp] theorem State.mapGroups_sys (s : State) (f : Group → Group) : (s.mapGroups f).sys = s.sys := rfl

/-! ## State.mapGroup -/

@[simp] theorem State.mapGroup_clock (s : State) (gid : Nat) (f : Group → Group) : (s.mapGroup gid f).clock = s.clock := rfl
@[simp] theorem State.mapGroup_seq (s : State) (gid : Nat) (f : Group → Group) : (s.mapGroup gid f).seq = s.seq := rfl
@[simp] theorem State.mapGroup_nextId (s : State) (gid : Nat) (f : Group → Group) : (s.mapGroup gid f).nextId = s.nextId := rfl
@[simp] theorem State.mapGroup_cur (s : State) (gid : Nat) (f : Group → Group) : (s.mapGroup gid f).cur = s.cur := rfl
@[simp] theorem State.mapGroup_agenda (s : State) (gid : Nat) (f : Group → Group) : (s.mapGroup gid f).agenda = s.agenda := rfl
@[simp] theorem State.mapGroup_fe (s : State) (gid : Nat) (f : Group → Group) :
    (s.mapGroup gid f).fe = { s.fe with groups := updWhere (fun g => g.gid == gid) f s.fe.groups } := rfl
@[simp] theorem State.mapGroup_mm (s : State) (gid : Nat) (f : Group → Group) : (s.mapGroup gid f).mm = s.mm := rfl
@[simp] theorem State.mapGroup_en (s : State) (gid : Nat) (f : Group → Group) : (s.mapGroup gid f).en = s.en := rfl
@[simp] theorem State.mapGroup_sys (s : State) (gid : Nat) (f : Group → Group) : (s.mapGroup gid f).sys = s.sys := rfl

/-! ## State.mapSplit -/

@[simp] theorem State.mapSplit_clock (s : State) (gid i : Nat) (f : Split → Split) : (s.mapSplit gid i f).clock = s.clock := rfl
@[simp] theorem State.mapSplit_seq (s : State) (gid i : Nat) (f : Split → Split) : (s.mapSplit gid i f).seq = s.seq := rfl
@[simp] theorem State.mapSplit_nextId (s : State) (gid i : Nat) (f : Split → Split) : (s.mapSplit gid i f).nextId = s.nextId := rfl
@[simp] theorem State.mapSplit_cur (s : State) (gid i : Nat) (f : Split → Split) : (s.mapSplit gid i f).cur = s.cur := rfl
@[simp] theorem State.mapSplit_agenda (s : State) (gid i : Nat) (f : Split → Split) : (s.mapSplit gid i f).agenda = s.agenda := rfl
@[simp] theorem State.mapSplit_fe (s : State) (gid i : Nat) (f : Split → Split) :
    (s.mapSplit gid i f).fe = { s.fe with groups := updWhere (fun g => g.gid == gid) (fun g => g.mapSplit i f) s.fe.groups } := rfl
@[simp] theorem State.mapSplit_mm (s : State) (gid i : Nat) (f : Split → Split) : (s.mapSplit gid i f).mm = s.mm := rfl
@[simp] theorem State.mapSplit_en (s : State) (gid i : Nat) (f : Split → Split) : (s.mapSplit gid i f).en = s.en := rfl
@[simp] theorem State.mapSplit_sys (s : State) (gid i : Nat) (f : Split → Split) : (s.mapSplit gid i f).sys = s.sys := rfl

/-! ## State.put -/

@[simp] theorem State.put_clock (s : State) (g : Group) (p : Split) : (s.put g p).clock = s.clock := rfl
@[simp] theorem State.put_seq (s : State) (g : Group) (p : Split) : (s.put g p).seq = s.seq := rfl
@[simp] theorem State.put_nextId (s : State) (g : Group) (p : Split) : (s.put g p).nextId = s.nextId := rfl
@[simp] theorem State.put_cur (s : State) (g : Group) (p : Split) : (s.put g p).cur = s.cur := rfl
@[simp] theorem State.put_agenda (s : State) (g : Group) (p : Split) : (s.put g p).agenda = s.agenda := rfl
@[simp] theorem State.put_fe (s : State) (g : Group) (p : Split) :
    (s.put g p).fe = { s.fe with groups := updWhere (fun x => x.gid == g.gid) (fun _ => g.put p) s.fe.groups } := rfl
@[simp] theorem State.put_mm (s : State) (g : Group) (p : Split) : (s.put g p).mm = s.mm := rfl
@[simp] theorem State.put_en (s : State) (g : Group) (p : Split) : (s.put g p).en = s.en := rfl
@[simp] theorem State.put_sys (s : State) (g : Group) (p : Split) : (s.put g p).sys = s.sys := rfl

/-! ## State.mapBlock -/

@[simp] theorem State.mapBlock_clock (s : State) (bid : Nat) (f : Block → Block) : (s.mapBlock bid f).clock = s.clock := rfl
@[simp] theorem State.mapBlock_seq (s : State) (bid : Nat) (f : Block → Block) : (s.mapBlock bid f).seq = s.seq := rfl
@[simp] theorem State.mapBlock_nextId (s : State) (bid : Nat) (f : Block → Block) : (s.mapBlock bid f).nextId = s.nextId := rfl
@[simp] theorem State.mapBlock_cur (s : State) (bid : Nat) (f : Block → Block) : (s.mapBlock bid f).cur = s.cur := rfl
@[simp] theorem State.mapBlock_agenda (s : State) (bid : Nat) (f : Block → Block) : (s.mapBlock bid f).agenda = s.agenda := rfl
@[simp] theorem State.mapBlock_fe (s : State) (bid : Nat) (f : Block → Block) :
    (s.mapBlock bid f).fe = { s.fe with blocks := updWhere (fun b => b.bid == bid) f s.fe.blocks } := rfl
@[simp] theorem State.mapBlock_mm (s : State) (bid : Nat) (f : Block → Block) : (s.mapBlock bid f).mm = s.mm := rfl
@[simp] theorem State.mapBlock_en (s : State) (bid : Nat) (f : Block → Block) : (s.mapBlock bid f).en = s.en := rfl
@[simp] theorem State.mapBlock_sys (s : State) (bid : Nat) (f : Block → Block) : (s.mapBlock bid f).sys = s.sys := rfl

/-! ## State.mapLaunch -/

@[simp] theorem State.mapLaunch_clock (s : State) (lid : Nat) (f : Launch → Launch) : (s.mapLaunch lid f).clock = s.clock := rfl
@[simp] theorem State.mapLaunch_seq (s : State) (lid : Nat) (f : Launch → Launch) : (s.mapLaunch lid f).seq = s.seq := rfl
@[simp] theorem State.mapLaunch_nextId (s : State) (lid : Nat) (f : Launch → Launch) : (s.mapLaunch lid f).nextId = s.nextId := rfl
@[simp] theorem State.mapLaunch_cur (s : State) (lid : Nat) (f : Launch → Launch) : (s.mapLaunch lid f).cur = s.cur := rfl
@[simp] theorem State.mapLaunch_agenda (s : State) (lid : Nat) (f : Launch → Launch) : (s.mapLaunch lid f).agenda = s.agenda := rfl
@[simp] theorem State.mapLaunch_fe (s : State) (lid : Nat) (f : Launch → Launch) :
    (s.mapLaunch lid f).fe = { s.fe with launches := updWhere (fun l => l.lid == lid) f s.fe.launches } := rfl
@[simp] theorem State.mapLaunch_mm (s : State) (lid : Nat) (f : Launch → Launch) : (s.mapLaunch lid f).mm = s.mm := rfl
@[simp] theorem State.mapLaunch_en (s : State) (lid : Nat) (f : Launch → Launch) : (s.mapLaunch lid f).en = s.en := rfl
@[simp] theorem State.mapLaunch_sys (s : State) (lid : Nat) (f : Launch → Launch) : (s.mapLaunch lid f).sys = s.sys := rfl

/-! ## State.mapItem -/

@[simp] theorem State.mapItem_clock (s : State) (id : Nat) (f : Item → Item) : (s.mapItem id f).clock = s.clock := rfl
@[simp] theorem State.mapItem_seq (s : State) (id : Nat) (f : Item → Item) : (s.mapItem id f).seq = s.seq := rfl
@[simp] theorem State.mapItem_nextId (s : State) (id : Nat) (f : Item → Item) : (s.mapItem id f).nextId = s.nextId := rfl
@[simp] theorem State.mapItem_cur (s : State) (id : Nat) (f : Item → Item) : (s.mapItem id f).cur = s.cur := rfl
@[simp] theorem State.mapItem_agenda (s : State) (id : Nat) (f : Item → Item) : (s.mapItem id f).agenda = s.agenda := rfl
@[simp] theorem State.mapItem_fe (s : State) (id : Nat) (f : Item → Item) :
    (s.mapItem id f).fe = { s.fe with items := updWhere (fun x => x.id == id) f s.fe.items } := rfl
@[simp] theorem State.mapItem_mm (s : State) (id : Nat) (f : Item → Item) : (s.mapItem id f).mm = s.mm := rfl
@[simp] theorem State.mapItem_en (s : State) (id : Nat) (f : Item → Item) : (s.mapItem id f).en = s.en := rfl
@[simp] theorem State.mapItem_sys (s : State) (id : Nat) (f : Item → Item) : (s.mapItem id f).sys = s.sys := rfl

/-! ## State.mapQueue -/

@[simp] theorem State.mapQueue_clock (s : State) (q : Nat) (f : Queue → Queue) : (s.mapQueue q f).clock = s.clock := rfl
@[simp] theorem State.mapQueue_seq (s : State) (q : Nat) (f : Queue → Queue) : (s.mapQueue q f).seq = s.seq := rfl
@[simp] theorem State.mapQueue_nextId (s : State) (q : Nat) (f : Queue → Queue) : (s.mapQueue q f).nextId = s.nextId := rfl
@[simp] theorem State.mapQueue_cur (s : State) (q : Nat) (f : Queue → Queue) : (s.mapQueue q f).cur = s.cur := rfl
@[simp] theorem State.mapQueue_agenda (s : State) (q : Nat) (f : Queue → Queue) : (s.mapQueue q f).agenda = s.agenda := rfl
@[simp] theorem State.mapQueue_fe (s : State) (q : Nat) (f : Queue → Queue) :
    (s.mapQueue q f).fe = { s.fe with queues := updOrAdd (fun x => x.q == q) (Queue.atReset q) f s.fe.queues } := rfl
@[simp] theorem State.mapQueue_mm (s : State) (q : Nat) (f : Queue → Queue) : (s.mapQueue q f).mm = s.mm := rfl
@[simp] theorem State.mapQueue_en (s : State) (q : Nat) (f : Queue → Queue) : (s.mapQueue q f).en = s.en := rfl
@[simp] theorem State.mapQueue_sys (s : State) (q : Nat) (f : Queue → Queue) : (s.mapQueue q f).sys = s.sys := rfl

/-! ## State.mapWindow -/

@[simp] theorem State.mapWindow_clock (s : State) (fn : Nat) (f : Window → Window) : (s.mapWindow fn f).clock = s.clock := rfl
@[simp] theorem State.mapWindow_seq (s : State) (fn : Nat) (f : Window → Window) : (s.mapWindow fn f).seq = s.seq := rfl
@[simp] theorem State.mapWindow_nextId (s : State) (fn : Nat) (f : Window → Window) : (s.mapWindow fn f).nextId = s.nextId := rfl
@[simp] theorem State.mapWindow_cur (s : State) (fn : Nat) (f : Window → Window) : (s.mapWindow fn f).cur = s.cur := rfl
@[simp] theorem State.mapWindow_agenda (s : State) (fn : Nat) (f : Window → Window) : (s.mapWindow fn f).agenda = s.agenda := rfl
@[simp] theorem State.mapWindow_fe (s : State) (fn : Nat) (f : Window → Window) : (s.mapWindow fn f).fe = s.fe := rfl
@[simp] theorem State.mapWindow_mm (s : State) (fn : Nat) (f : Window → Window) : (s.mapWindow fn f).mm = s.mm := rfl
@[simp] theorem State.mapWindow_en (s : State) (fn : Nat) (f : Window → Window) : (s.mapWindow fn f).en = s.en := rfl
@[simp] theorem State.mapWindow_sys (s : State) (fn : Nat) (f : Window → Window) :
    (s.mapWindow fn f).sys = { s.sys with windows := updOrAdd (fun x => x.fn == fn) (Window.atReset fn) f s.sys.windows } := rfl

/-! ## State.mapRing -/

@[simp] theorem State.mapRing_clock (s : State) (fn r : Nat) (f : Ring → Ring) : (s.mapRing fn r f).clock = s.clock := rfl
@[simp] theorem State.mapRing_seq (s : State) (fn r : Nat) (f : Ring → Ring) : (s.mapRing fn r f).seq = s.seq := rfl
@[simp] theorem State.mapRing_nextId (s : State) (fn r : Nat) (f : Ring → Ring) : (s.mapRing fn r f).nextId = s.nextId := rfl
@[simp] theorem State.mapRing_cur (s : State) (fn r : Nat) (f : Ring → Ring) : (s.mapRing fn r f).cur = s.cur := rfl
@[simp] theorem State.mapRing_agenda (s : State) (fn r : Nat) (f : Ring → Ring) : (s.mapRing fn r f).agenda = s.agenda := rfl
@[simp] theorem State.mapRing_fe (s : State) (fn r : Nat) (f : Ring → Ring) : (s.mapRing fn r f).fe = s.fe := rfl
@[simp] theorem State.mapRing_mm (s : State) (fn r : Nat) (f : Ring → Ring) : (s.mapRing fn r f).mm = s.mm := rfl
@[simp] theorem State.mapRing_en (s : State) (fn r : Nat) (f : Ring → Ring) : (s.mapRing fn r f).en = s.en := rfl
@[simp] theorem State.mapRing_sys (s : State) (fn r : Nat) (f : Ring → Ring) :
    (s.mapRing fn r f).sys = { s.sys with rings := updOrAdd (fun x => x.fn == fn && x.r == r) (Ring.atReset fn r) f s.sys.rings } := rfl

/-! ## State.mapQuarter -/

@[simp] theorem State.mapQuarter_clock (s : State) (q : Nat) (f : Quarter → Quarter) : (s.mapQuarter q f).clock = s.clock := rfl
@[simp] theorem State.mapQuarter_seq (s : State) (q : Nat) (f : Quarter → Quarter) : (s.mapQuarter q f).seq = s.seq := rfl
@[simp] theorem State.mapQuarter_nextId (s : State) (q : Nat) (f : Quarter → Quarter) : (s.mapQuarter q f).nextId = s.nextId := rfl
@[simp] theorem State.mapQuarter_cur (s : State) (q : Nat) (f : Quarter → Quarter) : (s.mapQuarter q f).cur = s.cur := rfl
@[simp] theorem State.mapQuarter_agenda (s : State) (q : Nat) (f : Quarter → Quarter) : (s.mapQuarter q f).agenda = s.agenda := rfl
@[simp] theorem State.mapQuarter_fe (s : State) (q : Nat) (f : Quarter → Quarter) : (s.mapQuarter q f).fe = s.fe := rfl
@[simp] theorem State.mapQuarter_mm (s : State) (q : Nat) (f : Quarter → Quarter) : (s.mapQuarter q f).mm = s.mm := rfl
@[simp] theorem State.mapQuarter_en (s : State) (q : Nat) (f : Quarter → Quarter) : (s.mapQuarter q f).en = s.en := rfl
@[simp] theorem State.mapQuarter_sys (s : State) (q : Nat) (f : Quarter → Quarter) :
    (s.mapQuarter q f).sys = { s.sys with quarters := updOrAdd (fun x => x.q == q) (Quarter.atReset q) f s.sys.quarters } := rfl

/-! ## State.mapPartition -/

@[simp] theorem State.mapPartition_clock (s : State) (p : Nat) (f : Partition → Partition) : (s.mapPartition p f).clock = s.clock := rfl
@[simp] theorem State.mapPartition_seq (s : State) (p : Nat) (f : Partition → Partition) : (s.mapPartition p f).seq = s.seq := rfl
@[simp] theorem State.mapPartition_nextId (s : State) (p : Nat) (f : Partition → Partition) : (s.mapPartition p f).nextId = s.nextId := rfl
@[simp] theorem State.mapPartition_cur (s : State) (p : Nat) (f : Partition → Partition) : (s.mapPartition p f).cur = s.cur := rfl
@[simp] theorem State.mapPartition_agenda (s : State) (p : Nat) (f : Partition → Partition) : (s.mapPartition p f).agenda = s.agenda := rfl
@[simp] theorem State.mapPartition_fe (s : State) (p : Nat) (f : Partition → Partition) : (s.mapPartition p f).fe = s.fe := rfl
@[simp] theorem State.mapPartition_mm (s : State) (p : Nat) (f : Partition → Partition) : (s.mapPartition p f).mm = s.mm := rfl
@[simp] theorem State.mapPartition_en (s : State) (p : Nat) (f : Partition → Partition) : (s.mapPartition p f).en = s.en := rfl
@[simp] theorem State.mapPartition_sys (s : State) (p : Nat) (f : Partition → Partition) :
    (s.mapPartition p f).sys = { s.sys with parts := updOrAdd (fun x => x.p == p) (Partition.atReset p) f s.sys.parts } := rfl

/-! ## State.mapCounter -/

@[simp] theorem State.mapCounter_clock (s : State) (fn i : Nat) (f : Counter → Counter) : (s.mapCounter fn i f).clock = s.clock := rfl
@[simp] theorem State.mapCounter_seq (s : State) (fn i : Nat) (f : Counter → Counter) : (s.mapCounter fn i f).seq = s.seq := rfl
@[simp] theorem State.mapCounter_nextId (s : State) (fn i : Nat) (f : Counter → Counter) : (s.mapCounter fn i f).nextId = s.nextId := rfl
@[simp] theorem State.mapCounter_cur (s : State) (fn i : Nat) (f : Counter → Counter) : (s.mapCounter fn i f).cur = s.cur := rfl
@[simp] theorem State.mapCounter_agenda (s : State) (fn i : Nat) (f : Counter → Counter) : (s.mapCounter fn i f).agenda = s.agenda := rfl
@[simp] theorem State.mapCounter_fe (s : State) (fn i : Nat) (f : Counter → Counter) : (s.mapCounter fn i f).fe = s.fe := rfl
@[simp] theorem State.mapCounter_mm (s : State) (fn i : Nat) (f : Counter → Counter) : (s.mapCounter fn i f).mm = s.mm := rfl
@[simp] theorem State.mapCounter_en (s : State) (fn i : Nat) (f : Counter → Counter) : (s.mapCounter fn i f).en = s.en := rfl
@[simp] theorem State.mapCounter_sys (s : State) (fn i : Nat) (f : Counter → Counter) :
    (s.mapCounter fn i f).sys = { s.sys with counters := updOrAdd (fun x => x.fn == fn && x.i == i) (Counter.atReset fn i) f s.sys.counters } := rfl

/-! ## State.mapTenancy -/

@[simp] theorem State.mapTenancy_clock (s : State) (t : Nat) (f : Tenancy → Tenancy) : (s.mapTenancy t f).clock = s.clock := rfl
@[simp] theorem State.mapTenancy_seq (s : State) (t : Nat) (f : Tenancy → Tenancy) : (s.mapTenancy t f).seq = s.seq := rfl
@[simp] theorem State.mapTenancy_nextId (s : State) (t : Nat) (f : Tenancy → Tenancy) : (s.mapTenancy t f).nextId = s.nextId := rfl
@[simp] theorem State.mapTenancy_cur (s : State) (t : Nat) (f : Tenancy → Tenancy) : (s.mapTenancy t f).cur = s.cur := rfl
@[simp] theorem State.mapTenancy_agenda (s : State) (t : Nat) (f : Tenancy → Tenancy) : (s.mapTenancy t f).agenda = s.agenda := rfl
@[simp] theorem State.mapTenancy_fe (s : State) (t : Nat) (f : Tenancy → Tenancy) : (s.mapTenancy t f).fe = s.fe := rfl
@[simp] theorem State.mapTenancy_mm (s : State) (t : Nat) (f : Tenancy → Tenancy) : (s.mapTenancy t f).mm = s.mm := rfl
@[simp] theorem State.mapTenancy_en (s : State) (t : Nat) (f : Tenancy → Tenancy) : (s.mapTenancy t f).en = s.en := rfl
@[simp] theorem State.mapTenancy_sys (s : State) (t : Nat) (f : Tenancy → Tenancy) :
    (s.mapTenancy t f).sys = { s.sys with tenancies := updOrAdd (fun x => x.t == t) (Tenancy.atReset t) f s.sys.tenancies } := rfl

/-! ## State.mapLatch -/

@[simp] theorem State.mapLatch_clock (s : State) (c : Nat) (f : Latch → Latch) : (s.mapLatch c f).clock = s.clock := rfl
@[simp] theorem State.mapLatch_seq (s : State) (c : Nat) (f : Latch → Latch) : (s.mapLatch c f).seq = s.seq := rfl
@[simp] theorem State.mapLatch_nextId (s : State) (c : Nat) (f : Latch → Latch) : (s.mapLatch c f).nextId = s.nextId := rfl
@[simp] theorem State.mapLatch_cur (s : State) (c : Nat) (f : Latch → Latch) : (s.mapLatch c f).cur = s.cur := rfl
@[simp] theorem State.mapLatch_agenda (s : State) (c : Nat) (f : Latch → Latch) : (s.mapLatch c f).agenda = s.agenda := rfl
@[simp] theorem State.mapLatch_fe (s : State) (c : Nat) (f : Latch → Latch) : (s.mapLatch c f).fe = s.fe := rfl
@[simp] theorem State.mapLatch_mm (s : State) (c : Nat) (f : Latch → Latch) : (s.mapLatch c f).mm = s.mm := rfl
@[simp] theorem State.mapLatch_en (s : State) (c : Nat) (f : Latch → Latch) : (s.mapLatch c f).en = s.en := rfl
@[simp] theorem State.mapLatch_sys (s : State) (c : Nat) (f : Latch → Latch) :
    (s.mapLatch c f).sys = { s.sys with latches := updOrAdd (fun x => x.core == c) (Latch.atReset c) f s.sys.latches } := rfl

/-! ## State.mapSlot -/

@[simp] theorem State.mapSlot_clock (s : State) (n : Nat) (f : KeySlot → KeySlot) : (s.mapSlot n f).clock = s.clock := rfl
@[simp] theorem State.mapSlot_seq (s : State) (n : Nat) (f : KeySlot → KeySlot) : (s.mapSlot n f).seq = s.seq := rfl
@[simp] theorem State.mapSlot_nextId (s : State) (n : Nat) (f : KeySlot → KeySlot) : (s.mapSlot n f).nextId = s.nextId := rfl
@[simp] theorem State.mapSlot_cur (s : State) (n : Nat) (f : KeySlot → KeySlot) : (s.mapSlot n f).cur = s.cur := rfl
@[simp] theorem State.mapSlot_agenda (s : State) (n : Nat) (f : KeySlot → KeySlot) : (s.mapSlot n f).agenda = s.agenda := rfl
@[simp] theorem State.mapSlot_fe (s : State) (n : Nat) (f : KeySlot → KeySlot) : (s.mapSlot n f).fe = s.fe := rfl
@[simp] theorem State.mapSlot_mm (s : State) (n : Nat) (f : KeySlot → KeySlot) : (s.mapSlot n f).mm = s.mm := rfl
@[simp] theorem State.mapSlot_en (s : State) (n : Nat) (f : KeySlot → KeySlot) : (s.mapSlot n f).en = s.en := rfl
@[simp] theorem State.mapSlot_sys (s : State) (n : Nat) (f : KeySlot → KeySlot) :
    (s.mapSlot n f).sys = { s.sys with slots := updOrAdd (fun x => x.slot == n) (KeySlot.atReset n) f s.sys.slots } := rfl

/-! ## State.mapResponder -/

@[simp] theorem State.mapResponder_clock (s : State) (fn : Nat) (f : Responder → Responder) : (s.mapResponder fn f).clock = s.clock := rfl
@[simp] theorem State.mapResponder_seq (s : State) (fn : Nat) (f : Responder → Responder) : (s.mapResponder fn f).seq = s.seq := rfl
@[simp] theorem State.mapResponder_nextId (s : State) (fn : Nat) (f : Responder → Responder) : (s.mapResponder fn f).nextId = s.nextId := rfl
@[simp] theorem State.mapResponder_cur (s : State) (fn : Nat) (f : Responder → Responder) : (s.mapResponder fn f).cur = s.cur := rfl
@[simp] theorem State.mapResponder_agenda (s : State) (fn : Nat) (f : Responder → Responder) : (s.mapResponder fn f).agenda = s.agenda := rfl
@[simp] theorem State.mapResponder_fe (s : State) (fn : Nat) (f : Responder → Responder) : (s.mapResponder fn f).fe = s.fe := rfl
@[simp] theorem State.mapResponder_mm (s : State) (fn : Nat) (f : Responder → Responder) : (s.mapResponder fn f).mm = s.mm := rfl
@[simp] theorem State.mapResponder_en (s : State) (fn : Nat) (f : Responder → Responder) : (s.mapResponder fn f).en = s.en := rfl
@[simp] theorem State.mapResponder_sys (s : State) (fn : Nat) (f : Responder → Responder) :
    (s.mapResponder fn f).sys = { s.sys with responders := updOrAdd (fun x => x.fn == fn) (Responder.atReset fn) f s.sys.responders } := rfl

/-! ## State.mapIsland -/

@[simp] theorem State.mapIsland_clock (s : State) (i : Nat) (f : Island → Island) : (s.mapIsland i f).clock = s.clock := rfl
@[simp] theorem State.mapIsland_seq (s : State) (i : Nat) (f : Island → Island) : (s.mapIsland i f).seq = s.seq := rfl
@[simp] theorem State.mapIsland_nextId (s : State) (i : Nat) (f : Island → Island) : (s.mapIsland i f).nextId = s.nextId := rfl
@[simp] theorem State.mapIsland_cur (s : State) (i : Nat) (f : Island → Island) : (s.mapIsland i f).cur = s.cur := rfl
@[simp] theorem State.mapIsland_agenda (s : State) (i : Nat) (f : Island → Island) : (s.mapIsland i f).agenda = s.agenda := rfl
@[simp] theorem State.mapIsland_fe (s : State) (i : Nat) (f : Island → Island) : (s.mapIsland i f).fe = s.fe := rfl
@[simp] theorem State.mapIsland_mm (s : State) (i : Nat) (f : Island → Island) : (s.mapIsland i f).mm = s.mm := rfl
@[simp] theorem State.mapIsland_en (s : State) (i : Nat) (f : Island → Island) : (s.mapIsland i f).en = s.en := rfl
@[simp] theorem State.mapIsland_sys (s : State) (i : Nat) (f : Island → Island) :
    (s.mapIsland i f).sys = { s.sys with islands := updOrAdd (fun x => x.i == i) (Island.atReset i) f s.sys.islands } := rfl

/-! ## State.mapTag -/

@[simp] theorem State.mapTag_clock (s : State) (cluster p : Nat) (f : Tag → Tag) : (s.mapTag cluster p f).clock = s.clock := rfl
@[simp] theorem State.mapTag_seq (s : State) (cluster p : Nat) (f : Tag → Tag) : (s.mapTag cluster p f).seq = s.seq := rfl
@[simp] theorem State.mapTag_nextId (s : State) (cluster p : Nat) (f : Tag → Tag) : (s.mapTag cluster p f).nextId = s.nextId := rfl
@[simp] theorem State.mapTag_cur (s : State) (cluster p : Nat) (f : Tag → Tag) : (s.mapTag cluster p f).cur = s.cur := rfl
@[simp] theorem State.mapTag_agenda (s : State) (cluster p : Nat) (f : Tag → Tag) : (s.mapTag cluster p f).agenda = s.agenda := rfl
@[simp] theorem State.mapTag_fe (s : State) (cluster p : Nat) (f : Tag → Tag) : (s.mapTag cluster p f).fe = s.fe := rfl
@[simp] theorem State.mapTag_mm (s : State) (cluster p : Nat) (f : Tag → Tag) : (s.mapTag cluster p f).mm = s.mm := rfl
@[simp] theorem State.mapTag_en (s : State) (cluster p : Nat) (f : Tag → Tag) :
    (s.mapTag cluster p f).en = { s.en with tags := updOrAdd (fun x => x.cluster == cluster && x.p == p) (Tag.atReset cluster p) f s.en.tags } := rfl
@[simp] theorem State.mapTag_sys (s : State) (cluster p : Nat) (f : Tag → Tag) : (s.mapTag cluster p f).sys = s.sys := rfl

/-! ## State.mapPool -/

@[simp] theorem State.mapPool_clock (s : State) (cluster p : Nat) (f : Pool → Pool) : (s.mapPool cluster p f).clock = s.clock := rfl
@[simp] theorem State.mapPool_seq (s : State) (cluster p : Nat) (f : Pool → Pool) : (s.mapPool cluster p f).seq = s.seq := rfl
@[simp] theorem State.mapPool_nextId (s : State) (cluster p : Nat) (f : Pool → Pool) : (s.mapPool cluster p f).nextId = s.nextId := rfl
@[simp] theorem State.mapPool_cur (s : State) (cluster p : Nat) (f : Pool → Pool) : (s.mapPool cluster p f).cur = s.cur := rfl
@[simp] theorem State.mapPool_agenda (s : State) (cluster p : Nat) (f : Pool → Pool) : (s.mapPool cluster p f).agenda = s.agenda := rfl
@[simp] theorem State.mapPool_fe (s : State) (cluster p : Nat) (f : Pool → Pool) : (s.mapPool cluster p f).fe = s.fe := rfl
@[simp] theorem State.mapPool_mm (s : State) (cluster p : Nat) (f : Pool → Pool) :
    (s.mapPool cluster p f).mm = { s.mm with pools := updOrAdd (fun x => x.cluster == cluster && x.pool == p) (Pool.atReset cluster p) f s.mm.pools } := rfl
@[simp] theorem State.mapPool_en (s : State) (cluster p : Nat) (f : Pool → Pool) : (s.mapPool cluster p f).en = s.en := rfl
@[simp] theorem State.mapPool_sys (s : State) (cluster p : Nat) (f : Pool → Pool) : (s.mapPool cluster p f).sys = s.sys := rfl

/-! ## State.mapView -/

@[simp] theorem State.mapView_clock (s : State) (v : Nat) (f : View → View) : (s.mapView v f).clock = s.clock := rfl
@[simp] theorem State.mapView_seq (s : State) (v : Nat) (f : View → View) : (s.mapView v f).seq = s.seq := rfl
@[simp] theorem State.mapView_nextId (s : State) (v : Nat) (f : View → View) : (s.mapView v f).nextId = s.nextId := rfl
@[simp] theorem State.mapView_cur (s : State) (v : Nat) (f : View → View) : (s.mapView v f).cur = s.cur := rfl
@[simp] theorem State.mapView_agenda (s : State) (v : Nat) (f : View → View) : (s.mapView v f).agenda = s.agenda := rfl
@[simp] theorem State.mapView_fe (s : State) (v : Nat) (f : View → View) : (s.mapView v f).fe = s.fe := rfl
@[simp] theorem State.mapView_mm (s : State) (v : Nat) (f : View → View) :
    (s.mapView v f).mm = { s.mm with views := updWhere (fun x => x.id == v) f s.mm.views } := rfl
@[simp] theorem State.mapView_en (s : State) (v : Nat) (f : View → View) : (s.mapView v f).en = s.en := rfl
@[simp] theorem State.mapView_sys (s : State) (v : Nat) (f : View → View) : (s.mapView v f).sys = s.sys := rfl

/-! ## State.setMem -/

@[simp] theorem State.setMem_clock (s : State) (m : List Host.Cell) : (s.setMem m).clock = s.clock := rfl
@[simp] theorem State.setMem_seq (s : State) (m : List Host.Cell) : (s.setMem m).seq = s.seq := rfl
@[simp] theorem State.setMem_nextId (s : State) (m : List Host.Cell) : (s.setMem m).nextId = s.nextId := rfl
@[simp] theorem State.setMem_cur (s : State) (m : List Host.Cell) : (s.setMem m).cur = s.cur := rfl
@[simp] theorem State.setMem_agenda (s : State) (m : List Host.Cell) : (s.setMem m).agenda = s.agenda := rfl
@[simp] theorem State.setMem_fe (s : State) (m : List Host.Cell) : (s.setMem m).fe = s.fe := rfl
@[simp] theorem State.setMem_mm (s : State) (m : List Host.Cell) :
    (s.setMem m).mm = { s.mm with mem := m } := rfl
@[simp] theorem State.setMem_en (s : State) (m : List Host.Cell) : (s.setMem m).en = s.en := rfl
@[simp] theorem State.setMem_sys (s : State) (m : List Host.Cell) : (s.setMem m).sys = s.sys := rfl

/-! ## State.setL1 -/

@[simp] theorem State.setL1_clock (s : State) (l : List L1Sector) : (s.setL1 l).clock = s.clock := rfl
@[simp] theorem State.setL1_seq (s : State) (l : List L1Sector) : (s.setL1 l).seq = s.seq := rfl
@[simp] theorem State.setL1_nextId (s : State) (l : List L1Sector) : (s.setL1 l).nextId = s.nextId := rfl
@[simp] theorem State.setL1_cur (s : State) (l : List L1Sector) : (s.setL1 l).cur = s.cur := rfl
@[simp] theorem State.setL1_agenda (s : State) (l : List L1Sector) : (s.setL1 l).agenda = s.agenda := rfl
@[simp] theorem State.setL1_fe (s : State) (l : List L1Sector) : (s.setL1 l).fe = s.fe := rfl
@[simp] theorem State.setL1_mm (s : State) (l : List L1Sector) :
    (s.setL1 l).mm = { s.mm with l1 := l } := rfl
@[simp] theorem State.setL1_en (s : State) (l : List L1Sector) : (s.setL1 l).en = s.en := rfl
@[simp] theorem State.setL1_sys (s : State) (l : List L1Sector) : (s.setL1 l).sys = s.sys := rfl

/-! ## State.setL2 -/

@[simp] theorem State.setL2_clock (s : State) (l : List L2Sector) : (s.setL2 l).clock = s.clock := rfl
@[simp] theorem State.setL2_seq (s : State) (l : List L2Sector) : (s.setL2 l).seq = s.seq := rfl
@[simp] theorem State.setL2_nextId (s : State) (l : List L2Sector) : (s.setL2 l).nextId = s.nextId := rfl
@[simp] theorem State.setL2_cur (s : State) (l : List L2Sector) : (s.setL2 l).cur = s.cur := rfl
@[simp] theorem State.setL2_agenda (s : State) (l : List L2Sector) : (s.setL2 l).agenda = s.agenda := rfl
@[simp] theorem State.setL2_fe (s : State) (l : List L2Sector) : (s.setL2 l).fe = s.fe := rfl
@[simp] theorem State.setL2_mm (s : State) (l : List L2Sector) :
    (s.setL2 l).mm = { s.mm with l2 := l } := rfl
@[simp] theorem State.setL2_en (s : State) (l : List L2Sector) : (s.setL2 l).en = s.en := rfl
@[simp] theorem State.setL2_sys (s : State) (l : List L2Sector) : (s.setL2 l).sys = s.sys := rfl

/-! ## State.setCommand -/

@[simp] theorem State.setCommand_clock (s : State) (i : Nat) (c : Command) : (s.setCommand i c).clock = s.clock := rfl
@[simp] theorem State.setCommand_seq (s : State) (i : Nat) (c : Command) : (s.setCommand i c).seq = s.seq := rfl
@[simp] theorem State.setCommand_nextId (s : State) (i : Nat) (c : Command) : (s.setCommand i c).nextId = s.nextId := rfl
@[simp] theorem State.setCommand_cur (s : State) (i : Nat) (c : Command) : (s.setCommand i c).cur = s.cur := rfl
@[simp] theorem State.setCommand_agenda (s : State) (i : Nat) (c : Command) : (s.setCommand i c).agenda = s.agenda := rfl
@[simp] theorem State.setCommand_fe (s : State) (i : Nat) (c : Command) : (s.setCommand i c).fe = s.fe := rfl
@[simp] theorem State.setCommand_mm (s : State) (i : Nat) (c : Command) :
    (s.setCommand i c).mm = { s.mm with commands := s.mm.commands.set i c } := rfl
@[simp] theorem State.setCommand_en (s : State) (i : Nat) (c : Command) : (s.setCommand i c).en = s.en := rfl
@[simp] theorem State.setCommand_sys (s : State) (i : Nat) (c : Command) : (s.setCommand i c).sys = s.sys := rfl

/-! ## State.count -/

@[simp] theorem State.count_clock (s : State) (code : Byte) (tenancy n : Nat) : (s.count code tenancy n).clock = s.clock := rfl
@[simp] theorem State.count_seq (s : State) (code : Byte) (tenancy n : Nat) : (s.count code tenancy n).seq = s.seq := rfl
@[simp] theorem State.count_nextId (s : State) (code : Byte) (tenancy n : Nat) : (s.count code tenancy n).nextId = s.nextId := rfl
@[simp] theorem State.count_cur (s : State) (code : Byte) (tenancy n : Nat) : (s.count code tenancy n).cur = s.cur := rfl
@[simp] theorem State.count_agenda (s : State) (code : Byte) (tenancy n : Nat) : (s.count code tenancy n).agenda = s.agenda := rfl
@[simp] theorem State.count_fe (s : State) (code : Byte) (tenancy n : Nat) : (s.count code tenancy n).fe = s.fe := rfl
@[simp] theorem State.count_mm (s : State) (code : Byte) (tenancy n : Nat) : (s.count code tenancy n).mm = s.mm := rfl
@[simp] theorem State.count_en (s : State) (code : Byte) (tenancy n : Nat) : (s.count code tenancy n).en = s.en := rfl
@[simp] theorem State.count_sys (s : State) (code : Byte) (tenancy n : Nat) :
    (s.count code tenancy n).sys = { s.sys with counters := s.sys.counters.map (fun c => if c.en && c.event == code && (if c.fn == 0 then c.all || c.tensel.toNat == tenancy else (s.responder c.fn).tenancy == tenancy) then { c with value := c.value + BitVec.ofNat 64 n } else c) } := rfl

/-! ## Group.mapSplits -/

@[simp] theorem Group.mapSplits_gid (g : Group) (f : Split → Split) : (g.mapSplits f).gid = g.gid := rfl
@[simp] theorem Group.mapSplits_bid (g : Group) (f : Split → Split) : (g.mapSplits f).bid = g.bid := rfl
@[simp] theorem Group.mapSplits_index (g : Group) (f : Split → Split) : (g.mapSplits f).index = g.index := rfl
@[simp] theorem Group.mapSplits_v (g : Group) (f : Split → Split) : (g.mapSplits f).v = g.v := rfl
@[simp] theorem Group.mapSplits_s (g : Group) (f : Split → Split) : (g.mapSplits f).s = g.s := rfl
@[simp] theorem Group.mapSplits_k (g : Group) (f : Split → Split) : (g.mapSplits f).k = g.k := rfl
@[simp] theorem Group.mapSplits_p (g : Group) (f : Split → Split) : (g.mapSplits f).p = g.p := rfl
@[simp] theorem Group.mapSplits_fflags (g : Group) (f : Split → Split) : (g.mapSplits f).fflags = g.fflags := rfl
@[simp] theorem Group.mapSplits_count (g : Group) (f : Split → Split) : (g.mapSplits f).count = g.count := rfl
@[simp] theorem Group.mapSplits_req (g : Group) (f : Split → Split) : (g.mapSplits f).req = g.req := rfl
theorem Group.mapSplits_splits (g : Group) (f : Split → Split) : (g.mapSplits f).splits = g.splits.map f := rfl
@[simp] theorem Group.mapSplits_exited (g : Group) (f : Split → Split) : (g.mapSplits f).exited = g.exited := rfl
@[simp] theorem Group.mapSplits_nextId (g : Group) (f : Split → Split) : (g.mapSplits f).nextId = g.nextId := rfl
@[simp] theorem Group.mapSplits_fcsr (g : Group) (f : Split → Split) : (g.mapSplits f).fcsr = g.fcsr := rfl
@[simp] theorem Group.mapSplits_gang (g : Group) (f : Split → Split) : (g.mapSplits f).gang = g.gang := rfl
@[simp] theorem Group.mapSplits_replays (g : Group) (f : Split → Split) : (g.mapSplits f).replays = g.replays := rfl
@[simp] theorem Group.mapSplits_trapCause (g : Group) (f : Split → Split) : (g.mapSplits f).trapCause = g.trapCause := rfl
@[simp] theorem Group.mapSplits_trapPc (g : Group) (f : Split → Split) : (g.mapSplits f).trapPc = g.trapPc := rfl
@[simp] theorem Group.mapSplits_trapMask (g : Group) (f : Split → Split) : (g.mapSplits f).trapMask = g.trapMask := rfl
@[simp] theorem Group.mapSplits_trapAddr (g : Group) (f : Split → Split) : (g.mapSplits f).trapAddr = g.trapAddr := rfl
@[simp] theorem Group.mapSplits_saveBase (g : Group) (f : Split → Split) : (g.mapSplits f).saveBase = g.saveBase := rfl
@[simp] theorem Group.mapSplits_tvec (g : Group) (f : Split → Split) : (g.mapSplits f).tvec = g.tvec := rfl
@[simp] theorem Group.mapSplits_mode (g : Group) (f : Split → Split) : (g.mapSplits f).mode = g.mode := rfl
@[simp] theorem Group.mapSplits_pmode (g : Group) (f : Split → Split) : (g.mapSplits f).pmode = g.pmode := rfl
@[simp] theorem Group.mapSplits_step (g : Group) (f : Split → Split) : (g.mapSplits f).step = g.step := rfl
@[simp] theorem Group.mapSplits_sched (g : Group) (f : Split → Split) : (g.mapSplits f).sched = g.sched := rfl
@[simp] theorem Group.mapSplits_pending (g : Group) (f : Split → Split) : (g.mapSplits f).pending = g.pending := rfl
@[simp] theorem Group.mapSplits_nextSeq (g : Group) (f : Split → Split) : (g.mapSplits f).nextSeq = g.nextSeq := rfl
@[simp] theorem Group.mapSplits_ended (g : Group) (f : Split → Split) : (g.mapSplits f).ended = g.ended := rfl
@[simp] theorem Group.mapSplits_routineDone (g : Group) (f : Split → Split) : (g.mapSplits f).routineDone = g.routineDone := rfl

/-! ## Group.mapSplit -/

@[simp] theorem Group.mapSplit_gid (g : Group) (i : Nat) (f : Split → Split) : (g.mapSplit i f).gid = g.gid := rfl
@[simp] theorem Group.mapSplit_bid (g : Group) (i : Nat) (f : Split → Split) : (g.mapSplit i f).bid = g.bid := rfl
@[simp] theorem Group.mapSplit_index (g : Group) (i : Nat) (f : Split → Split) : (g.mapSplit i f).index = g.index := rfl
@[simp] theorem Group.mapSplit_v (g : Group) (i : Nat) (f : Split → Split) : (g.mapSplit i f).v = g.v := rfl
@[simp] theorem Group.mapSplit_s (g : Group) (i : Nat) (f : Split → Split) : (g.mapSplit i f).s = g.s := rfl
@[simp] theorem Group.mapSplit_k (g : Group) (i : Nat) (f : Split → Split) : (g.mapSplit i f).k = g.k := rfl
@[simp] theorem Group.mapSplit_p (g : Group) (i : Nat) (f : Split → Split) : (g.mapSplit i f).p = g.p := rfl
@[simp] theorem Group.mapSplit_fflags (g : Group) (i : Nat) (f : Split → Split) : (g.mapSplit i f).fflags = g.fflags := rfl
@[simp] theorem Group.mapSplit_count (g : Group) (i : Nat) (f : Split → Split) : (g.mapSplit i f).count = g.count := rfl
@[simp] theorem Group.mapSplit_req (g : Group) (i : Nat) (f : Split → Split) : (g.mapSplit i f).req = g.req := rfl
theorem Group.mapSplit_splits (g : Group) (i : Nat) (f : Split → Split) : (g.mapSplit i f).splits = updWhere (fun p => p.idx == i) f g.splits := rfl
@[simp] theorem Group.mapSplit_exited (g : Group) (i : Nat) (f : Split → Split) : (g.mapSplit i f).exited = g.exited := rfl
@[simp] theorem Group.mapSplit_nextId (g : Group) (i : Nat) (f : Split → Split) : (g.mapSplit i f).nextId = g.nextId := rfl
@[simp] theorem Group.mapSplit_fcsr (g : Group) (i : Nat) (f : Split → Split) : (g.mapSplit i f).fcsr = g.fcsr := rfl
@[simp] theorem Group.mapSplit_gang (g : Group) (i : Nat) (f : Split → Split) : (g.mapSplit i f).gang = g.gang := rfl
@[simp] theorem Group.mapSplit_replays (g : Group) (i : Nat) (f : Split → Split) : (g.mapSplit i f).replays = g.replays := rfl
@[simp] theorem Group.mapSplit_trapCause (g : Group) (i : Nat) (f : Split → Split) : (g.mapSplit i f).trapCause = g.trapCause := rfl
@[simp] theorem Group.mapSplit_trapPc (g : Group) (i : Nat) (f : Split → Split) : (g.mapSplit i f).trapPc = g.trapPc := rfl
@[simp] theorem Group.mapSplit_trapMask (g : Group) (i : Nat) (f : Split → Split) : (g.mapSplit i f).trapMask = g.trapMask := rfl
@[simp] theorem Group.mapSplit_trapAddr (g : Group) (i : Nat) (f : Split → Split) : (g.mapSplit i f).trapAddr = g.trapAddr := rfl
@[simp] theorem Group.mapSplit_saveBase (g : Group) (i : Nat) (f : Split → Split) : (g.mapSplit i f).saveBase = g.saveBase := rfl
@[simp] theorem Group.mapSplit_tvec (g : Group) (i : Nat) (f : Split → Split) : (g.mapSplit i f).tvec = g.tvec := rfl
@[simp] theorem Group.mapSplit_mode (g : Group) (i : Nat) (f : Split → Split) : (g.mapSplit i f).mode = g.mode := rfl
@[simp] theorem Group.mapSplit_pmode (g : Group) (i : Nat) (f : Split → Split) : (g.mapSplit i f).pmode = g.pmode := rfl
@[simp] theorem Group.mapSplit_step (g : Group) (i : Nat) (f : Split → Split) : (g.mapSplit i f).step = g.step := rfl
@[simp] theorem Group.mapSplit_sched (g : Group) (i : Nat) (f : Split → Split) : (g.mapSplit i f).sched = g.sched := rfl
@[simp] theorem Group.mapSplit_pending (g : Group) (i : Nat) (f : Split → Split) : (g.mapSplit i f).pending = g.pending := rfl
@[simp] theorem Group.mapSplit_nextSeq (g : Group) (i : Nat) (f : Split → Split) : (g.mapSplit i f).nextSeq = g.nextSeq := rfl
@[simp] theorem Group.mapSplit_ended (g : Group) (i : Nat) (f : Split → Split) : (g.mapSplit i f).ended = g.ended := rfl
@[simp] theorem Group.mapSplit_routineDone (g : Group) (i : Nat) (f : Split → Split) : (g.mapSplit i f).routineDone = g.routineDone := rfl

/-! ## Group.put -/

@[simp] theorem Group.put_gid (g : Group) (p : Split) : (g.put p).gid = g.gid := rfl
@[simp] theorem Group.put_bid (g : Group) (p : Split) : (g.put p).bid = g.bid := rfl
@[simp] theorem Group.put_index (g : Group) (p : Split) : (g.put p).index = g.index := rfl
@[simp] theorem Group.put_v (g : Group) (p : Split) : (g.put p).v = g.v := rfl
@[simp] theorem Group.put_s (g : Group) (p : Split) : (g.put p).s = g.s := rfl
@[simp] theorem Group.put_k (g : Group) (p : Split) : (g.put p).k = g.k := rfl
@[simp] theorem Group.put_p (g : Group) (p : Split) : (g.put p).p = g.p := rfl
@[simp] theorem Group.put_fflags (g : Group) (p : Split) : (g.put p).fflags = g.fflags := rfl
@[simp] theorem Group.put_count (g : Group) (p : Split) : (g.put p).count = g.count := rfl
@[simp] theorem Group.put_req (g : Group) (p : Split) : (g.put p).req = g.req := rfl
theorem Group.put_splits (g : Group) (p : Split) : (g.put p).splits = updWhere (fun x => x.idx == p.idx) (fun _ => p) g.splits := rfl
@[simp] theorem Group.put_exited (g : Group) (p : Split) : (g.put p).exited = g.exited := rfl
@[simp] theorem Group.put_nextId (g : Group) (p : Split) : (g.put p).nextId = g.nextId := rfl
@[simp] theorem Group.put_fcsr (g : Group) (p : Split) : (g.put p).fcsr = g.fcsr := rfl
@[simp] theorem Group.put_gang (g : Group) (p : Split) : (g.put p).gang = g.gang := rfl
@[simp] theorem Group.put_replays (g : Group) (p : Split) : (g.put p).replays = g.replays := rfl
@[simp] theorem Group.put_trapCause (g : Group) (p : Split) : (g.put p).trapCause = g.trapCause := rfl
@[simp] theorem Group.put_trapPc (g : Group) (p : Split) : (g.put p).trapPc = g.trapPc := rfl
@[simp] theorem Group.put_trapMask (g : Group) (p : Split) : (g.put p).trapMask = g.trapMask := rfl
@[simp] theorem Group.put_trapAddr (g : Group) (p : Split) : (g.put p).trapAddr = g.trapAddr := rfl
@[simp] theorem Group.put_saveBase (g : Group) (p : Split) : (g.put p).saveBase = g.saveBase := rfl
@[simp] theorem Group.put_tvec (g : Group) (p : Split) : (g.put p).tvec = g.tvec := rfl
@[simp] theorem Group.put_mode (g : Group) (p : Split) : (g.put p).mode = g.mode := rfl
@[simp] theorem Group.put_pmode (g : Group) (p : Split) : (g.put p).pmode = g.pmode := rfl
@[simp] theorem Group.put_step (g : Group) (p : Split) : (g.put p).step = g.step := rfl
@[simp] theorem Group.put_sched (g : Group) (p : Split) : (g.put p).sched = g.sched := rfl
@[simp] theorem Group.put_pending (g : Group) (p : Split) : (g.put p).pending = g.pending := rfl
@[simp] theorem Group.put_nextSeq (g : Group) (p : Split) : (g.put p).nextSeq = g.nextSeq := rfl
@[simp] theorem Group.put_ended (g : Group) (p : Split) : (g.put p).ended = g.ended := rfl
@[simp] theorem Group.put_routineDone (g : Group) (p : Split) : (g.put p).routineDone = g.routineDone := rfl

end Sys2Proof.Machine
end

