-- ==== Sys2Proof/Laws/Store.lean ====
section
/-! SUPPORT. Sparse tables: what is read after a write, and that every operation keeps the canonical form. -/

namespace Sys2Proof

variable {n : Nat}

theorem sget_sdel (m : Store n) (k j : Nat) : sget (sdel m k) j = if j = k then 0 else sget m j := by
  induction m with
  | nil => simp [sdel, sget]
  | cons c r ih =>
    obtain ⟨a, v⟩ := c
    unfold sdel at ih ⊢
    by_cases h : a = k <;> by_cases h2 : a = j <;> simp_all [sget]

theorem sget_sput (m : Store n) (k j : Nat) (v : BitVec n) (h : sget m k = 0) (hk : ∀ c ∈ m, c.1 ≠ k) :
    sget (sput m k v) j = if j = k then v else sget m j := by
  induction m with
  | nil => simp [sput, sget, eq_comm]
  | cons c r ih =>
    obtain ⟨a, w⟩ := c
    have hak : a ≠ k := hk _ (List.mem_cons_self ..)
    have hr : sget r k = 0 := by simpa [sget, hak] using h
    have ih := ih hr (fun c hc => hk c (List.mem_cons_of_mem _ hc))
    by_cases hlt : k < a
    · simp [sput, sget, hlt, eq_comm (a := k)]
    · simp only [sput, hlt, if_false, sget, ih]
      by_cases e : a = j
      · subst e; simp [hak]
      · simp [e]

theorem sdel_no (m : Store n) (k : Nat) : ∀ c ∈ sdel m k, c.1 ≠ k := by
  intro c hc
  simpa [sdel] using (List.mem_filter.1 hc).2

/-- A read after a write: the value at its key, and every other key as before. -/
@[simp] theorem sget_sset (m : Store n) (k j : Nat) (v : BitVec n) : sget (sset m k v) j = if j = k then v else sget m j := by
  unfold sset
  split
  · rename_i h
    rw [sget_sdel, h]
  · rw [sget_sput _ _ _ _ (by rw [sget_sdel]; simp) (sdel_no m k), sget_sdel]
    by_cases e : j = k <;> simp [e]

theorem sget_ssetMany (m : Store n) (a j : Nat) (vs : List (BitVec n)) :
    sget (ssetMany m a vs) j = if a ≤ j then vs.getD (j - a) (sget m j) else sget m j := by
  induction vs generalizing m a with
  | nil => simp [ssetMany]
  | cons v r ih =>
    simp only [ssetMany, ih, sget_sset]
    by_cases h : j = a
    · subst h; simp [show ¬ (j + 1 ≤ j) by omega]
    · by_cases h2 : a ≤ j
      · obtain ⟨d, rfl⟩ : ∃ d, j = a + 1 + d := ⟨j - (a + 1), by omega⟩
        simp [show a + 1 + d - a = d + 1 by omega, show a ≤ a + 1 + d by omega, show ¬ (a + 1 + d = a) by omega]
      · simp [h, h2, show ¬ (a + 1 ≤ j) by omega]

/-! ## The canonical form -/

theorem swf_cons (a : Nat) (v : BitVec n) (r : Store n) :
    swf ((a, v) :: r) = true ↔ v ≠ 0 ∧ (∀ c ∈ r, a < c.1) ∧ swf r = true := by
  simp [swf, and_assoc]

theorem swf_filter (m : Store n) (q : Nat × BitVec n → Bool) (h : swf m = true) : swf (m.filter q) = true := by
  induction m with
  | nil => rfl
  | cons c r ih =>
    obtain ⟨a, v⟩ := c
    rw [swf_cons] at h
    by_cases hq : q (a, v) = true
    · rw [List.filter_cons_of_pos hq, swf_cons]
      exact ⟨h.1, fun c hc => h.2.1 c (List.mem_filter.1 hc).1, ih h.2.2⟩
    · rw [List.filter_cons_of_neg hq]
      exact ih h.2.2

theorem mem_sput (m : Store n) (k : Nat) (v : BitVec n) (c : Nat × BitVec n) (h : c ∈ sput m k v) : c = (k, v) ∨ c ∈ m := by
  induction m with
  | nil => left; simpa [sput] using h
  | cons d r ih =>
    obtain ⟨a, w⟩ := d
    simp only [sput] at h
    split at h
    · rcases List.mem_cons.1 h with h | h
      · exact Or.inl h
      · exact Or.inr h
    · rcases List.mem_cons.1 h with h | h
      · exact Or.inr (List.mem_cons.2 (Or.inl h))
      · rcases ih h with h | h
        · exact Or.inl h
        · exact Or.inr (List.mem_cons_of_mem _ h)

theorem swf_sput (m : Store n) (k : Nat) (v : BitVec n) (hv : v ≠ 0) (hk : ∀ c ∈ m, c.1 ≠ k) (h : swf m = true) :
    swf (sput m k v) = true := by
  induction m with
  | nil => simpa [sput, swf] using hv
  | cons d r ih =>
    obtain ⟨a, w⟩ := d
    have hak : a ≠ k := hk _ (List.mem_cons_self ..)
    have h0 := h
    rw [swf_cons] at h
    simp only [sput]
    split
    · rename_i hlt
      rw [swf_cons]
      refine ⟨hv, fun c hc => ?_, h0⟩
      rcases List.mem_cons.1 hc with rfl | hc
      · exact hlt
      · exact Nat.lt_trans hlt (h.2.1 c hc)
    · rename_i hlt
      rw [swf_cons]
      refine ⟨h.1, fun c hc => ?_, ih (fun c hc => hk c (List.mem_cons_of_mem _ hc)) h.2.2⟩
      rcases mem_sput _ _ _ _ hc with rfl | hc
      · exact Nat.lt_of_le_of_ne (Nat.not_lt.1 hlt) hak
      · exact h.2.1 c hc

/-- A write keeps the canonical form. -/
theorem swf_sset (m : Store n) (k : Nat) (v : BitVec n) (h : swf m = true) : swf (sset m k v) = true := by
  unfold sset
  split
  · exact swf_filter _ _ h
  · rename_i hv
    exact swf_sput _ _ _ hv (sdel_no m k) (swf_filter _ _ h)

/-- A write of consecutive keys keeps the canonical form. -/
theorem swf_ssetMany (m : Store n) (a : Nat) (vs : List (BitVec n)) (h : swf m = true) : swf (ssetMany m a vs) = true := by
  induction vs generalizing m a with
  | nil => exact h
  | cons v r ih => exact ih _ _ (swf_sset _ _ _ h)

/-- Clearing a range keeps the canonical form. -/
theorem swf_sclear (m : Store n) (lo len : Nat) (h : swf m = true) : swf (sclear m lo len) = true := swf_filter _ _ h

/-- Removing a key keeps the canonical form. -/
theorem swf_sdel (m : Store n) (k : Nat) (h : swf m = true) : swf (sdel m k) = true := swf_filter _ _ h

/-- Equal reads of canonical tables are equal tables. -/
theorem sget_eq_zero_of_lt (r : Store n) (j : Nat) (h : ∀ c ∈ r, j < c.1) : sget r j = 0 := by
  induction r with
  | nil => rfl
  | cons c r ih =>
    obtain ⟨a, v⟩ := c
    have : ¬ a = j := by have := h _ (List.mem_cons_self ..); simp only at this; omega
    simp [sget, this, ih (fun c hc => h c (List.mem_cons_of_mem _ hc))]

end Sys2Proof
end

