-- ==== Sys2Proof/Laws/Regs.lean ====
section
/-! SUPPORT. Registers, lanes and records: what is read after a write, and who is found after an update. -/

namespace Sys2Proof.Machine

/-! ## Lists of records -/

theorem find_updWhere_same {α : Type} (q : α → Bool) (f : α → α) (l : List α) (x : α) (h : l.find? q = some x)
    (hf : q (f x) = true) : (updWhere q f l).find? q = some (f x) := by
  induction l with
  | nil => simp at h
  | cons a r ih =>
    by_cases ha : q a = true
    · have : a = x := by simpa [List.find?_cons, ha] using h
      subst this
      simp [updWhere, ha, hf]
    · have hr : r.find? q = some x := by simpa [List.find?_cons, ha] using h
      have := ih hr
      simp only [updWhere] at this
      simp [updWhere, ha, this]

theorem find_updWhere_other {α : Type} (q q' : α → Bool) (f : α → α) (l : List α)
    (h : ∀ x ∈ l, q x = true → q' x = false ∧ q' (f x) = false) : (updWhere q f l).find? q' = l.find? q' := by
  induction l with
  | nil => rfl
  | cons a r ih =>
    have hr := ih (fun x hx => h x (List.mem_cons_of_mem _ hx))
    simp only [updWhere] at hr
    by_cases ha : q a = true
    · have := h a (List.mem_cons_self ..) ha
      simp [updWhere, ha, this.1, this.2, hr]
    · simp [updWhere, ha, List.find?_cons, hr]

/-- The record that `updOrAdd` changes is found changed. -/
theorem findD_updOrAdd_same {α : Type} (q : α → Bool) (d : α) (f : α → α) (l : List α) (hd : q d = true)
    (hf : ∀ x, q x = true → q (f x) = true) : findD q d (updOrAdd q d f l) = f (findD q d l) := by
  unfold findD updOrAdd
  cases h : l.find? q with
  | some x =>
    have hx : q x = true := List.find?_some h
    have hany : l.any q = true := List.any_eq_true.2 ⟨x, List.mem_of_find?_eq_some h, hx⟩
    simp [hany, find_updWhere_same q f l x h (hf x hx)]
  | none =>
    have hall : ∀ x ∈ l, ¬ q x = true := List.find?_eq_none.1 h
    have hany : l.any q = false := by
      simpa [List.any_eq_false] using hall
    simp [hany, List.find?_append, h, hf d hd]

/-- The records that `updOrAdd` does not change are found as before. -/
theorem findD_updOrAdd_other {α : Type} (q q' : α → Bool) (d d' : α) (f : α → α) (l : List α)
    (h : ∀ x, q x = true → q' x = false ∧ q' (f x) = false) (hd : q d = true) :
    findD q' d' (updOrAdd q d f l) = findD q' d' l := by
  unfold findD updOrAdd
  split
  · rw [find_updWhere_other q q' f l (fun x _ hx => h x hx)]
  · simp [List.find?_append, (h d hd).2]

/-! ## Groups and splits -/

theorem group?_gid {s : State} {gid : Nat} {g : Group} (h : s.group? gid = some g) : g.gid = gid := by
  have := List.find?_some h
  simpa using this

theorem split?_idx {g : Group} {i : Nat} {p : Split} (h : g.split? i = some p) : p.idx = i := by
  have := List.find?_some h
  simpa using this

/-- What it is for a split of a resident group to be found. -/
theorem state_split?_iff {s : State} {gid i : Nat} {g : Group} {p : Split} :
    s.split? gid i = some (g, p) ↔ s.group? gid = some g ∧ g.split? i = some p := by
  unfold State.split?
  cases h : s.group? gid with
  | none => simp
  | some x =>
    cases h2 : x.split? i with
    | none => simp only [h2, Option.map_none]; constructor
              · intro h; cases h
              · rintro ⟨h, h3⟩; cases h; rw [h2] at h3; cases h3
    | some y => simp only [h2, Option.map_some, Option.some.injEq, Prod.mk.injEq]
                constructor
                · rintro ⟨rfl, rfl⟩; exact ⟨rfl, h2⟩
                · rintro ⟨rfl, h3⟩; rw [h2] at h3; cases h3; exact ⟨rfl, rfl⟩

/-- The issuing split is a split of a resident group. -/
theorem issuer_some {s : State} {g : Group} {p : Split} (h : issuer s = some (g, p)) :
    s.cur = some (g.gid, p.idx) ∧ s.group? g.gid = some g ∧ g.split? p.idx = some p := by
  unfold issuer at h
  cases hc : s.cur with
  | none => simp [hc] at h
  | some c =>
    obtain ⟨gid, i⟩ := c
    simp only [hc] at h
    obtain ⟨h1, h2⟩ := state_split?_iff.1 h
    have e1 := group?_gid h1
    have e2 := split?_idx h2
    subst e1; subst e2
    exact ⟨rfl, h1, h2⟩

theorem group?_mapGroup_same {s : State} {gid : Nat} {g : Group} (f : Group → Group) (h : s.group? gid = some g)
    (hf : (f g).gid = gid) : (s.mapGroup gid f).group? gid = some (f g) :=
  find_updWhere_same _ f _ g h (by simpa using hf)

theorem group?_mapGroup_other {s : State} {gid j : Nat} (f : Group → Group) (hf : ∀ g, g.gid = gid → (f g).gid = gid) (h : j ≠ gid) :
    (s.mapGroup gid f).group? j = s.group? j := by
  unfold State.group? State.mapGroup
  refine find_updWhere_other _ _ f _ (fun x _ hx => ?_)
  have hx : x.gid = gid := by simpa using hx
  constructor
  · simpa [hx] using fun e => h e.symm
  · simpa [hf x hx] using fun e => h e.symm

/-- A split that is put back is found. -/
theorem group_put_split? {g : Group} {p q : Split} (h : g.split? p.idx = some q) : (g.put p).split? p.idx = some p := by
  unfold Group.split? at h
  unfold Group.put Group.mapSplit Group.split?
  exact find_updWhere_same (fun x => x.idx == p.idx) (fun _ => p) g.splits q h (by simp)

/-- Putting a split back leaves its siblings. -/
theorem group_put_split?_other {g : Group} {p : Split} {j : Nat} (h : j ≠ p.idx) : (g.put p).split? j = g.split? j := by
  unfold Group.put Group.mapSplit Group.split?
  refine find_updWhere_other _ _ _ _ (fun x _ hx => ?_)
  have hx : x.idx = p.idx := by simpa using hx
  constructor
  · simpa [hx] using fun e => h e.symm
  · simpa using fun e => h e.symm

/-- A group and split that are put back are found. -/
theorem split?_put {s : State} {g0 g : Group} {p0 p : Split} (hg : s.group? g.gid = some g0) (hs : g.split? p.idx = some p0) :
    (s.put g p).split? g.gid p.idx = some (g.put p, p) := by
  rw [state_split?_iff]
  exact ⟨group?_mapGroup_same (fun _ => g.put p) hg rfl, group_put_split? hs⟩

theorem group?_put_other {s : State} {g : Group} {p : Split} {j : Nat} (h : j ≠ g.gid) : (s.put g p).group? j = s.group? j :=
  group?_mapGroup_other _ (fun _ _ => rfl) h

@[simp] theorem group?_seq (s : State) (n : Nat) (gid : Nat) : ({ s with seq := n } : State).group? gid = s.group? gid := rfl
@[simp] theorem split?_seq (s : State) (n : Nat) (gid i : Nat) : ({ s with seq := n } : State).split? gid i = s.split? gid i := rfl
@[simp] theorem group?_count (s : State) (c : Byte) (t n gid : Nat) : (s.count c t n).group? gid = s.group? gid := rfl
@[simp] theorem block?_count (s : State) (c : Byte) (t n bid : Nat) : (s.count c t n).block? bid = s.block? bid := rfl

/-! ## Lanes -/

theorem mem_lanesOf (m : LaneMask) (l : Nat) : l ∈ lanesOf m ↔ laneIn m l = true := by
  unfold lanesOf
  simp only [List.mem_filter, List.mem_range, and_iff_right_iff_imp, laneIn]
  intro h
  by_contra hl
  simp [BitVec.getLsbD_of_ge m l (by omega)] at h

theorem nodup_lanesOf (m : LaneMask) : (lanesOf m).Nodup := List.Nodup.filter _ List.nodup_range

theorem laneIn_or (a b : LaneMask) (l : Nat) : laneIn (a ||| b) l = (laneIn a l || laneIn b l) := by simp [laneIn]

theorem laneIn_maskOf (ls : List Nat) (l : Nat) (h : l < 32) : laneIn (maskOf ls) l = decide (l ∈ ls) := by
  unfold maskOf
  have key : ∀ (ls : List Nat) (m : LaneMask),
      laneIn (ls.foldl (fun m i => m ||| (1#32 <<< i)) m) l = (laneIn m l || decide (l ∈ ls)) := by
    intro ls
    induction ls with
    | nil => intro m; simp
    | cons i r ih =>
      intro m
      rw [List.foldl_cons, ih, laneIn_or]
      have : laneIn (1#32 <<< i) l = decide (l = i) := by
        simp only [laneIn, BitVec.getLsbD_shiftLeft, BitVec.getLsbD_one]
        by_cases e : l = i
        · subst e; simp [h]
        · by_cases e2 : l < i
          · simp [e2, e]
          · simp [h, e, show ¬ l - i = 0 by omega]
      rw [this]
      simp [Bool.or_assoc]
  rw [key]
  simp [laneIn]

theorem laneIn_testMask (f : Nat → Bool) (l : Nat) (h : l < 32) : laneIn (maskOf ((List.range 32).filter f)) l = f l := by
  rw [laneIn_maskOf _ _ h]
  simp [h]

/-! ## Registers -/

@[simp] theorem writeReg_v (g : Group) (n l : Nat) (w : Word) :
    (writeReg g n l w).v = if n < 96 then sset g.v (32 * n + l) w else g.v := by
  unfold writeReg; split <;> [rfl; (split <;> [(split <;> rfl); rfl])]

theorem writeReg_keeps (g : Group) (n l : Nat) (w : Word) :
    writeReg g n l w = { g with v := (writeReg g n l w).v, s := (writeReg g n l w).s, k := (writeReg g n l w).k } := by
  unfold writeReg; split <;> [rfl; (split <;> [(split <;> rfl); rfl])]

/-- A lane written in a vector register, and every other register and lane as before. -/
theorem readReg_writeReg_vec (g : Group) (d l : Nat) (w : Word) (hd : d < 96) (hl : l < 32) (r m : Nat) (hm : m < 32) :
    readReg (writeReg g d l w) r m = if r = d ∧ m = l then w else readReg g r m := by
  unfold writeReg
  rw [if_pos hd]
  by_cases hr : r < 96
  · simp only [readReg, hr, if_true, sget_sset]
    by_cases h : r = d ∧ m = l
    · rw [if_pos (by omega), if_pos h]
    · rw [if_neg (by omega), if_neg h]
  · rw [if_neg (by omega)]
    simp [readReg, hr]

/-- A write of a register of the uniform file, in the bank that the mode selects (R25). -/
theorem readReg_writeReg_uni (g : Group) (d l : Nat) (w : Word) (hd : 96 ≤ d) (hd2 : d < 126) (r m : Nat) :
    readReg (writeReg g d l w) r m = if r = d then w else readReg g r m := by
  unfold writeReg
  rw [if_neg (by omega), if_pos hd2]
  by_cases hk : (g.mode && decide (118 ≤ d)) = true
  · have hk' := hk
    simp only [Bool.and_eq_true, decide_eq_true_eq] at hk'
    rw [if_pos hk]
    by_cases hr : r < 96
    · simp [readReg, hr, show ¬ r = d by omega]
    · by_cases hr2 : r < 126
      · by_cases hr3 : 118 ≤ r
        · simp only [readReg, hr, hr2, if_false, if_true, hk'.1, hr3, Bool.true_and, decide_true, sget_sset]
          by_cases e : r = d <;> simp [e]
          omega
        · simp [readReg, hr, hr2, hr3, show ¬ r = d by omega]
      · simp [readReg, hr, hr2, show ¬ r = d by omega]
  · rw [if_neg hk]
    by_cases hr : r < 96
    · simp [readReg, hr, show ¬ r = d by omega]
    · by_cases hr2 : r < 126
      · by_cases e : r = d
        · subst e
          simp only [readReg, hr, hr2, if_false, if_true]
          rw [if_neg hk]; simp
        · simp only [readReg, hr, hr2, if_false, if_true, e]
          split
          · rfl
          · simp [show ¬ r - 96 = d - 96 by omega]
      · simp [readReg, hr, hr2, show ¬ r = d by omega]

theorem readReg_zero (g : Group) (l : Nat) : readReg g 126 l = 0 := by simp [readReg]

/-- The fold of lane writes keeps everything but the register files. -/
theorem writeLanes_keeps (g : Group) (n : Nat) (m : LaneMask) (f : Nat → Word) :
    writeLanes g n m f = { g with v := (writeLanes g n m f).v, s := (writeLanes g n m f).s, k := (writeLanes g n m f).k } := by
  unfold writeLanes
  generalize lanesOf m = ls
  induction ls generalizing g with
  | nil => rfl
  | cons l r ih =>
    rw [List.foldl_cons]
    have h1 := ih (writeReg g n l (f l))
    have h2 := writeReg_keeps g n l (f l)
    rw [h1]
    rw [h2]

theorem writeLanes_vec_keeps (g : Group) (n : Nat) (m : LaneMask) (f : Nat → Word) (h : n < 96) :
    writeLanes g n m f = { g with v := (writeLanes g n m f).v } := by
  unfold writeLanes
  generalize lanesOf m = ls
  induction ls generalizing g with
  | nil => rfl
  | cons l r ih =>
    rw [List.foldl_cons]
    have h1 := ih (writeReg g n l (f l))
    have h2 : writeReg g n l (f l) = { g with v := (writeReg g n l (f l)).v } := by simp [writeReg, h]
    rw [h1]
    rw [h2]

/-- A write of each active lane of a vector register, and every other register and lane as before. -/
theorem readReg_writeLanes (g : Group) (d : Nat) (m : LaneMask) (f : Nat → Word) (hd : d < 96) (r l : Nat) (hl : l < 32) :
    readReg (writeLanes g d m f) r l = if r = d ∧ laneIn m l = true then f l else readReg g r l := by
  unfold writeLanes
  simp only [← mem_lanesOf]
  have hb : ∀ x ∈ lanesOf m, x < 32 := by
    intro x hx
    simp only [lanesOf, List.mem_filter, List.mem_range] at hx
    exact hx.1
  have hn := nodup_lanesOf m
  generalize lanesOf m = ls at hb hn
  induction ls generalizing g with
  | nil => simp
  | cons x t ih =>
    rw [List.foldl_cons, ih _ (fun y hy => hb y (List.mem_cons_of_mem _ hy)) (List.nodup_cons.1 hn).2,
      readReg_writeReg_vec _ _ _ _ hd (hb x (List.mem_cons_self ..)) _ _ hl]
    have hx : x ∉ t := (List.nodup_cons.1 hn).1
    by_cases e : r = d
    · by_cases e2 : l = x
      · subst e2; simp [e, hx]
      · simp [e, e2]
    · simp [e]

/-- A write to `zero` writes nothing. -/
theorem writeLanes_zero (g : Group) (m : LaneMask) (f : Nat → Word) : writeLanes g 126 m f = g := by
  unfold writeLanes
  generalize lanesOf m = ls
  induction ls with
  | nil => rfl
  | cons x t ih => simp [writeReg]

/-- The lanes of a predicate after a write (R22). -/
theorem readPred_writePred (g : Group) (i j : Nat) (m v : LaneMask) (l : Nat) (hl : l < 32) :
    laneIn (readPred (writePred g i m v) j) l =
      if j = i ∧ i < 7 ∧ laneIn m l = true then laneIn v l else laneIn (readPred g j) l := by
  unfold writePred readPred
  by_cases hi : i < 7
  · rw [if_pos hi]
    by_cases hj : j < 7
    · simp only [hj, if_true, sget_sset]
      by_cases e : j = i
      · subst e
        have hm : ∀ x : Bool, (x && (decide (l < 32) && !m.getLsbD l) || v.getLsbD l && m.getLsbD l) =
            if m.getLsbD l = true then v.getLsbD l else x := by
          intro x; cases m.getLsbD l <;> simp [hl]
        unfold laneIn
        rw [if_pos rfl, BitVec.getLsbD_or, BitVec.getLsbD_and, BitVec.getLsbD_and, BitVec.getLsbD_not, hm]
        simp [hi]
      · simp [e]
    · simp [hj, show ¬ j = i by omega]
  · simp [hi]

theorem writePred_keeps (g : Group) (i : Nat) (m v : LaneMask) : writePred g i m v = { g with p := (writePred g i m v).p } := by
  unfold writePred; split <;> rfl

end Sys2Proof.Machine
end

