-- ==== Sys2Proof/Laws/Ops.lean ====
section
/-! SUPPORT. Retiring an instruction: the one lemma by which a meaning that retires is known to answer, and what it leaves. -/

namespace Sys2Proof.Machine

theorem withIssuer_some {s : State} {g : Group} {p : Split} (h : issuer s = some (g, p)) (k : Group → Split → Result) :
    withIssuer s k = k g p := by simp [withIssuer, h]

@[simp] theorem issued_group? (s : State) (g : Group) (j : Nat) : (issued s g).group? j = s.group? j := rfl
@[simp] theorem issued_mm (s : State) (g : Group) : (issued s g).mm = s.mm := rfl
@[simp] theorem issued_seq (s : State) (g : Group) : (issued s g).seq = s.seq := rfl

/-- The state that retiring leaves. -/
def retiredState (e : Bool) (pc' : Pc) (sg : Word) (s : State) (g : Group) (p : Split) : State :=
  { (issued s g).put g (retiredSplit e pc' sg s g p) with seq := s.seq + 1 }

/-- What retiring leaves: the group and the split as given, every other group and split as before. -/
theorem retiredState_split? {e : Bool} {pc' : Pc} {sg : Word} {s : State} {g g0 : Group} {p p0 : Split} (hg : s.group? g.gid = some g0)
    (hs : g.split? p.idx = some p0) :
    (retiredState e pc' sg s g p).split? g.gid p.idx =
      some (g.put (retiredSplit e pc' sg s g p), retiredSplit e pc' sg s g p) := by
  unfold retiredState
  rw [split?_seq]
  have hg' : (issued s g).group? g.gid = some g0 := hg
  exact split?_put (p := retiredSplit e pc' sg s g p) hg' hs

/-- Retiring answers a next state: no trap follows where nothing is owed. -/
theorem retireSig_next {e : Bool} {pc' : Pc} {sg : Word} {s : State} {g g0 : Group} {p p0 : Split} (hg : s.group? g.gid = some g0)
    (hs : g.split? p.idx = some p0) (ha : p.abort = none) (ht : p.trapStep = false) :
    retireSig e pc' sg s g p = .next (retiredState e pc' sg s g p) := by
  change Host.Outcome.next (afterRetire (retiredState e pc' sg s g p) g.gid p.idx e p.trapStep) = _
  congr 1
  unfold afterRetire
  rw [retiredState_split? hg hs]
  simp [retiredSplit, ha, ht]

theorem retiredState_group? {e : Bool} {pc' : Pc} {sg : Word} {s : State} {g : Group} {p : Split} {j : Nat} (h : j ≠ g.gid) :
    (retiredState e pc' sg s g p).group? j = s.group? j := by
  unfold retiredState
  rw [group?_seq]
  exact group?_put_other h

/-- Retiring changes the groups, the counters and the model's order, nothing else. -/
theorem retiredState_groupsOnly {e : Bool} {pc' : Pc} {sg : Word} {s : State} {g : Group} {p : Split} :
    GroupsOnly s (retiredState e pc' sg s g p) := rfl

theorem pushEcho_groupsOnly (s : State) (g : Group) (p : Split) (i : Instr) (a b : List Word) (c : List (BitVec 5)) :
    GroupsOnly s (pushEcho s g p i a b c) := rfl

theorem GroupsOnly.trans {s t u : State} (h : GroupsOnly s t) (k : GroupsOnly t u) : GroupsOnly s u := by
  unfold GroupsOnly at *
  rw [k, h]

/-- A meaning that retires its issuing split, with the group `g1` that it leaves: the shape of every completion. -/
theorem retires_of {i : Instr} {e : Bool} {pc' : Pc} {sg : Word} {s s1 : State} {g g1 : Group} {p p1 : Split} {rest : State → Prop}
    (h : Ready s g p) (hx : exec i s = retireSig e pc' sg s1 g1 p1) (hs1 : s1.fe.groups = s.fe.groups) (hgid : g1.gid = g.gid)
    (hsp : g1.splits = g.splits) (hidx : p1.idx = p.idx) (ha : p1.abort = none) (ht : p1.trapStep = false)
    (hr : rest (retiredState e pc' sg s1 g1 p1)) :
    Retires i s g g1 p (retiredSplit e pc' sg s1 g1 p1) rest := by
  obtain ⟨_, hg, hs⟩ := issuer_some h.issues
  have hg1 : s1.group? g1.gid = some g := by unfold State.group? at *; rw [hs1, hgid]; exact hg
  have hs' : g1.split? p1.idx = some p := by unfold Group.split? at *; rw [hsp, hidx]; exact hs
  refine ⟨_, updWhere (fun x => x.idx == p1.idx) (fun _ => retiredSplit e pc' sg s1 g1 p1) g1.splits,
    hx.trans (retireSig_next hg1 hs' ha ht), ?_, ?_, ?_, hr⟩
  · have := retiredState_split? (e := e) (pc' := pc') (sg := sg) hg1 hs'
    rw [hgid, hidx] at this
    rw [this]
    rfl
  · intro j hj
    have : (g1.put (retiredSplit e pc' sg s1 g1 p1)).split? j = g1.split? j :=
      group_put_split?_other (by simpa [retiredSplit, hidx] using hj)
    have h2 : g1.split? j = g.split? j := by unfold Group.split?; rw [hsp]
    exact this.trans h2
  · intro j hj
    rw [retiredState_group? (by rw [hgid]; exact hj)]
    unfold State.group?
    rw [hs1]

end Sys2Proof.Machine
end

