-- ==== Sys2Proof/Laws/Operands.lean ====
section
/-! SUPPORT. The operand forms of lane instructions: what each shared form does when it retires. -/

namespace Sys2Proof.Machine

theorem laneDstOk_cases {g : Group} {d : RegNum} (h : laneDstOk g d = true) : d.toNat < 96 ∨ d.toNat = 126 := by
  simp only [laneDstOk, Bool.or_eq_true, Bool.and_eq_true, decide_eq_true_eq, beq_iff_eq] at h
  rcases h with h | h
  · exact Or.inl h.1
  · exact Or.inr h

/-- A lane write keeps everything but the vector registers where the destination is legal. -/
theorem writeLanes_legal {g : Group} {d : RegNum} (h : d.toNat < 96 ∨ d.toNat = 126) (m : LaneMask) (f : Nat → Word) :
    writeLanes g d.toNat m f = { g with v := (writeLanes g d.toNat m f).v } := by
  rcases h with h | h
  · exact writeLanes_vec_keeps g _ m f h
  · rw [h, writeLanes_zero]

theorem readReg_writeLanes_legal {g : Group} {d : RegNum} (h : d.toNat < 96 ∨ d.toNat = 126) (m : LaneMask) (f : Nat → Word)
    (r l : Nat) (hl : l < 32) :
    readReg (writeLanes g d.toNat m f) r l =
      if r = d.toNat ∧ d.toNat < 96 ∧ laneIn m l = true then f l else readReg g r l := by
  rcases h with h | h
  · rw [readReg_writeLanes g d.toNat m f h r l hl]
    simp [h]
  · rw [h, writeLanes_zero]
    simp

/-- The form every lane instruction that retires has. -/
theorem retires_lane {i : Instr} {e : Bool} {s s1 : State} {g g1 : Group} {p : Split} (h : Ready s g p)
    (hx : exec i s = retire i e s1 g1 p) (hs1 : s1.fe.groups = s.fe.groups) (hseq : s1.seq = s.seq) (hg1 : GroupsOnly s s1)
    (hgid : g1.gid = g.gid) (hsp : g1.splits = g.splits) (hm : g1.mode = g.mode) :
    Retires i s g g1 p (nextSplit i e s g p) (GroupsOnly s) := by
  have key := retires_of (e := e) (pc' := pcAfter i p) (sg := sigAfter i g1 p) (rest := GroupsOnly s) h hx hs1 hgid hsp rfl h.calm h.noStep
    (hg1.trans retiredState_groupsOnly)
  have e1 : retiredSplit e (pcAfter i p) (sigAfter i g1 p) s1 g1 p = nextSplit i e s g p := by
    simp [nextSplit, retiredSplit, sigAfter, stateAfter, runState, inHandler, hm, hseq]
  rwa [e1] at key

/-- `laneWord` on legal operands. -/
theorem laneWord_writes {i : Instr} {e echo : Bool} {d : RegNum} {srcs : List Src} {preds : List PredNum}
    {f : Group → Split → Nat → Word} {s : State} {g : Group} {p : Split} (h : Ready s g p)
    (hx : exec i s = laneWord i e echo d srcs preds f s) (hd : laneDstOk g d = true) (hs : srcs.all (srcOk g) = true) :
    WritesLanes i e d (f g p) s g p := by
  have hc := laneDstOk_cases hd
  have hk := writeLanes_legal (g := g) hc p.active (f g p)
  refine ⟨writeLanes g d.toNat p.active (f g p), ?_, hk, fun r l hl => readReg_writeLanes_legal hc p.active (f g p) r l hl⟩
  unfold laneWord ifLegal at hx
  rw [withIssuer_some h.issues, hd, hs] at hx
  simp only [Bool.and_self, if_true] at hx
  refine retires_lane h hx ?_ ?_ ?_ ?_ ?_ ?_
  · cases echo <;> rfl
  · cases echo <;> rfl
  · cases echo <;> rfl
  all_goals rw [hk]

/-- `lanePred` on legal operands. -/
theorem lanePred_writes {i : Instr} {e echo : Bool} {d : PredNum} {srcs : List Src} {preds : List PredNum}
    {f : Group → Split → Nat → Bool} {s : State} {g : Group} {p : Split} (h : Ready s g p)
    (hx : exec i s = lanePred i e echo d srcs preds f s) (hs : srcs.all (srcOk g) = true) :
    WritesPred i e d (f g p) s g p := by
  have hk := writePred_keeps g d.toNat p.active (testMask (f g p))
  refine ⟨writePred g d.toNat p.active (testMask (f g p)), ?_, hk, fun r l hl => ?_⟩
  · unfold lanePred ifLegal at hx
    rw [withIssuer_some h.issues, hs] at hx
    simp only [if_true] at hx
    refine retires_lane h hx ?_ ?_ ?_ ?_ ?_ ?_
    · cases echo <;> rfl
    · cases echo <;> rfl
    · cases echo <;> rfl
    all_goals rw [hk]
  · rw [readPred_writePred _ _ _ _ _ _ hl]
    simp only [testMask, laneIn_testMask _ _ hl]

/-! ## Flags -/

theorem orFlags_keeps (g : Group) (l : Nat) (f : Flags) : orFlags g l f = { g with fflags := (orFlags g l f).fflags } := rfl

theorem orLanes_keeps (g : Group) (m : LaneMask) (f : Nat → Flags) : orLanes g m f = { g with fflags := (orLanes g m f).fflags } := by
  unfold orLanes
  generalize lanesOf m = ls
  induction ls generalizing g with
  | nil => rfl
  | cons l r ih =>
    rw [List.foldl_cons]
    have h1 := ih (orFlags g l (f l))
    rw [h1]
    rfl

theorem fflags_orLanes (g : Group) (m : LaneMask) (f : Nat → Flags) (l : Nat) :
    sget (orLanes g m f).fflags l = if laneIn m l = true then sget g.fflags l ||| f l else sget g.fflags l := by
  unfold orLanes
  simp only [← mem_lanesOf]
  have hn := nodup_lanesOf m
  generalize lanesOf m = ls at hn
  induction ls generalizing g with
  | nil => simp
  | cons x t ih =>
    rw [List.foldl_cons, ih _ (List.nodup_cons.1 hn).2]
    have hx : x ∉ t := (List.nodup_cons.1 hn).1
    simp only [orFlags, sget_sset]
    by_cases e2 : l = x
    · subst e2; simp [hx]
    · simp [e2]

/-- `laneFloat` on legal operands, where no raised flag is enabled (R149). -/
theorem laneFloat_writes {i : Instr} {e echo : Bool} {d : RegNum} {srcs : List Src} {f : Group → Split → Nat → Word × Flags}
    {s : State} {g : Group} {p : Split} (h : Ready s g p) (hx : exec i s = laneFloat i e echo d srcs f s)
    (hd : laneDstOk g d = true) (hs : srcs.all (srcOk g) = true) (hf : enabledUnion g p.active (fun l => (f g p l).2) = 0) :
    WritesFloat i e d (f g p) s g p := by
  have hc := laneDstOk_cases hd
  have hk := writeLanes_legal (g := g) hc p.active (fun l => (f g p l).1)
  have ho := orLanes_keeps (writeLanes g d.toNat p.active (fun l => (f g p l).1)) p.active (fun l => (f g p l).2)
  refine ⟨orLanes (writeLanes g d.toNat p.active (fun l => (f g p l).1)) p.active (fun l => (f g p l).2), ?_, ?_, fun r l hl => ?_,
    fun l hl => ?_⟩
  · unfold laneFloat ifLegal unlessFp at hx
    rw [withIssuer_some h.issues, hd, hs] at hx
    simp only [Bool.and_self, if_true, hf] at hx
    refine retires_lane h hx ?_ ?_ ?_ ?_ ?_ ?_
    · cases echo <;> rfl
    · cases echo <;> rfl
    · cases echo <;> rfl
    all_goals (rw [ho]; simp only []; rw [hk])
  · rw [ho]; simp only []; rw [hk]
  · rw [ho]
    exact readReg_writeLanes_legal hc p.active _ r l hl
  · rw [fflags_orLanes, hk]
    rfl

/-- `laneOutstanding` on legal operands. -/
theorem laneOutstanding_leaves {i : Instr} {e : Bool} {d : RegNum} {srcs : List Src} {f : Group → Split → Nat → Word × Flags}
    {s : State} {g : Group} {p : Split} (h : Ready s g p) (hx : exec i s = laneOutstanding i e d srcs f s)
    (hd : laneDstOk g d = true) (hs : srcs.all (srcOk g) = true) :
    LeavesOutstanding i e 0 (regRange d.toNat 1) (laneParts d p (f g p)) s g p := by
  unfold laneOutstanding ifLegal at hx
  rw [withIssuer_some h.issues, hd, hs] at hx
  simp only [Bool.and_self, if_true] at hx
  exact retires_of (rest := GroupsOnly s) h hx rfl rfl rfl rfl h.calm h.noStep retiredState_groupsOnly

/-! ## Uniform instructions -/

/-- A uniform write keeps everything but the register files. -/
theorem writeUni_keeps (g : Group) (p : Split) (d : RegNum) (w : Word) :
    writeUni g p d w = { g with v := (writeUni g p d w).v, s := (writeUni g p d w).s, k := (writeUni g p d w).k } := by
  unfold writeUni
  split
  · exact writeLanes_keeps _ _ _ _
  · exact writeReg_keeps _ _ _ _

/-- What a uniform write leaves in each register and lane (R24). -/
theorem readReg_writeUni (g : Group) (p : Split) (d : RegNum) (w : Word) (r l : Nat) (hl : l < 32) :
    readReg (writeUni g p d w) r l =
      if r = d.toNat ∧ d.toNat < 126 ∧ (d.toNat < 96 → laneIn p.active l = true) then w else readReg g r l := by
  unfold writeUni
  split
  · rename_i h
    rw [readReg_writeLanes _ _ _ _ h _ _ hl]
    simp [h, show d.toNat < 126 by omega]
  · rename_i h
    by_cases h2 : d.toNat < 126
    · rw [readReg_writeReg_uni _ _ _ _ (by omega) h2]
      simp [h, h2]
    · have : writeReg g d.toNat 0 w = g := by simp [writeReg, h, h2]
      rw [this]
      simp [h2]

/-- `uniWord` on legal operands. -/
theorem uniWord_writes {i : Instr} {e echo : Bool} {d : RegNum} {srcs : List Src} {f : Group → Split → Word} {s : State} {g : Group}
    {p : Split} (h : Ready s g p) (hx : exec i s = uniWord i e echo d srcs f s) (hd : uniDstOk g d = true)
    (hs : srcs.all (srcOk g) = true) : WritesUni i e d (f g p) s g p := by
  have hk := writeUni_keeps g p d (f g p)
  refine ⟨writeUni g p d (f g p), ?_, hk, fun r l hl => readReg_writeUni g p d (f g p) r l hl⟩
  unfold uniWord ifLegal at hx
  rw [withIssuer_some h.issues, hd, hs] at hx
  simp only [Bool.and_self, if_true] at hx
  refine retires_lane h hx ?_ ?_ ?_ ?_ ?_ ?_
  · cases echo <;> rfl
  · cases echo <;> rfl
  · cases echo <;> rfl
  all_goals rw [hk]

end Sys2Proof.Machine
end

