-- ==== Sys2Proof/Tests/Slice0.lean ====
section
/-! SUPPORT. The model's own tests: words decode to the instructions they stand for, ill-formed terms are refused, and for each
statement with hypotheses a state and operands that meet them, at the ends of their ranges where a statement has cases. -/

namespace Sys2Proof.Machine

set_option Elab.async false

theorem test_reset_inv : State.reset.Inv := by decide

/-! ## Ill-formed terms -/

/-- A register source is not 127; two literals of one word are the same (R21, R62); what no word encodes is no well-formed word. -/
theorem test_wf_refuses :
    (Instr.iadd false .wrap 1 (.reg 127) (.reg 2)).wf = false ∧ (Instr.iadd false .wrap 1 (.reg 2) (.reg 127)).wf = false ∧
    (Instr.iadd false .wrap 1 (.lit 1) (.lit 2)).wf = false ∧ (Instr.iadd false .wrap 1 (.lit 2) (.lit 2)).wf = true ∧
    (Instr.popc false 1 (.reg 127)).wf = false ∧ (Instr.sst false false (.reg 127) (.reg 96) (.reg 97)).wf = false ∧
    (Instr.sst false false (.lit 1) (.reg 96) (.lit 2)).wf = false ∧ (Instr.wait false false (.lit 1) (.reg 96) (.lit 3)).wf = false ∧
    (Instr.retire).wf = false ∧ (Instr.illegalOp 0).wf = false ∧ (Instr.powerOnReset).wf = false := by decide

/-! ## A state to start from -/

/-- A loaded machine (log entry 1) whose group is `f` of the loaded one. -/
def wMap (f : Group → Group) : State := (loadState State.reset []).mapGroup 1 f

/-- Registers of the witness: v4 holds 16·l, v6 holds 0x300000 + 16·l, in lane l. -/
def wV : Store 32 :=
  (List.range 32).map (fun l => (128 + l, BitVec.ofNat 32 (16 * l))) ++ (List.range 32).map (fun l => (192 + l, BitVec.ofNat 32 (0x300000 + 16 * l)))

def wTlb (va attr : Nat) (w : Bool) : TlbEntry := { cluster := 0, asid := 1, va, size := 0x1000, pa := va + 0x1000000, attr, w, x := false }

/-- The witness: 16 registers, three writable pages of attributes 0, 1 and 2, one that is read-only, a block segment at 0x400, a FIFO. -/
def wBase (act : LaneMask) : State :=
  let s := wMap (fun g => { g with v := wV, s := [(0, 0x300000), (2, 0x400), (4, 0x301000), (6, 0x302000), (8, 0x18), (10, 0x80000), (12, 0x303004)],
                                   p := [(0, 0x13579BDF)], count := 16, splits := g.splits.map (fun p => { p with active := act }) })
  { s with mm :=
    { s.mm with
      tlb := s.mm.tlb ++ [wTlb 0x300000 0 true, wTlb 0x301000 1 true, wTlb 0x302000 2 true, wTlb 0x303000 0 false]
      allocs := [{ cohortOwned := false, owner := 1, cluster := 0, base := 0x400, size := 0x400, life := 4096, segs := [5, 6] }]
      pools := [{ cluster := 0, pool := 1, mode := .fifo, width := 4, depth := 8, life := 100, holder := some 1, entries := [(7, 0), (9, 5)] }] } }

/-- The group of a witness, and its first split. -/
def wG (s : State) : Group := (s.group? 1).getD (freshGroup 0 0 0 0 0 0 0 0 0 0 0)
def wP (s : State) : Split := (wG s).splits.headD (freshSplit 0 0 0)

/-- Four lanes are active. -/
def w4 : State := wBase 0xF0
/-- Every lane is active. -/
def w32 : State := wBase (BitVec.allOnes 32)

theorem ready_w4 : Ready w4 (wG w4) (wP w4) := ⟨by decide, by decide, by decide⟩
theorem ready_w32 : Ready w32 (wG w32) (wP w32) := ⟨by decide, by decide, by decide⟩

/-! ## Witnesses: decoding, stepping, lane integers -/

theorem witness_DecodeEncode : (Instr.sst true false (.lit 5) (.reg 96) (.reg 98)).wf = true ∧ (Instr.tagkill false 31).wf = true := by decide

/-- A machine about to fetch one word and its literal. -/
def wWord (w lit : Word) : State := { loadState State.reset (loadBytes2 64 (w.toNat + 2 ^ 32 * lit.toNat)) with agenda := [] }

/-- A fetch finds a word. -/
def wHasWord {ε : Type} (r : State × Except ε Word) (w : Word) : Bool := match r.2 with | .ok x => x == w | .error _ => false

theorem finds_word {ε : Type} {r : State × Except ε Word} {w : Word} (h : wHasWord r w = true) : r = (r.1, .ok w) := by
  obtain ⟨s1, _ | y⟩ := r
  · cases h
  · simp_all [wHasWord]

/-- The group and split that fetch. -/
def wFg (w lit : Word) : Group := wG (wWord w lit)
def wFp (w lit : Word) : Split := wP (wWord w lit)
def wWord1 (w lit : Word) := fetchWord (wWord w lit) ((wWord w lit).party (wFg w lit)) (wFp w lit).pc
def wWord2 (w lit : Word) := fetchWord (wWord1 w lit).1 ((wWord w lit).party (wFg w lit)) ((wFp w lit).pc + 4)

/-- What stands where a machine about to fetch finds those words. -/
theorem fetches_of (w lit : Word) (h : wHasWord (wWord1 w lit) w = true)
    (h1 : if wordHasLiteral w then wHasWord (wWord2 w lit) lit = true else lit = 0)
    (h2 : (wWord w lit).split? 1 0 = some (wFg w lit, wFp w lit) ∧ canIssue (wWord w lit) (wFg w lit) (wFp w lit) = true ∧ (wFp w lit).st ≠ .ebb ∧
      (wFp w lit).echoTrap = none ∧ maskOk (wFg w lit) (wFp w lit) = true ∧ ((((wFp w lit).stopReq && !(wFg w lit).mode) || (wFp w lit).stepEnd) && !(wFp w lit).stepOne) = false ∧
      (aheadOf (wWord w lit) 1 0).all (stalls exec (wWord w lit)) = true ∧
      comparator (wWord w lit) (wFg w lit) (wFp w lit) = none ∧
      (fetchFaulted (wFp w lit) && (wFp w lit).faddr.any (fun x => faultPending (wWord w lit) ((wWord w lit).party (wFg w lit)).asid x.2)) = false) :
    ∃ s1, FetchesWord (wWord w lit) 1 0 (wFg w lit) (wFp w lit) w lit s1 := by
  obtain ⟨a, b, c, d, e, f, t, g, k⟩ := h2
  refine ⟨if wordHasLiteral w then (wWord2 w lit).1 else (wWord1 w lit).1, a, b, c, d, e, f, t, .inr g, k, (wWord1 w lit).1, finds_word h, ?_⟩
  by_cases hl : wordHasLiteral w = true
  · rw [if_pos hl, if_pos hl]
    rw [if_pos hl] at h1
    exact finds_word h1
  · rw [if_neg hl, if_neg hl]
    rw [if_neg hl] at h1
    exact ⟨rfl, h1⟩

/-- Words of each of the three kinds stand where a split is about to fetch: an instruction with its literal, an unassigned slot, a reserved
field; and an event stands next in an agenda. -/
theorem witness_StepRuns :
    ((∃ s1, FetchesWord (wWord 0x4120417F 5) 1 0 (wFg 0x4120417F 5) (wFp 0x4120417F 5) 0x4120417F 5 s1) ∧
      decodeWord 0x4120417F 5 = .ok (.iadd true .sat 1 (.reg 2) (.lit 5))) ∧
    ((∃ s1, FetchesWord (wWord 0x05204103 0) 1 0 (wFg 0x05204103 0) (wFp 0x05204103 0) 0x05204103 0 s1) ∧
      decodeWord 0x05204103 0 = .error .illegalOp) ∧
    ((∃ s1, FetchesWord (wWord 0x10004101 0) 1 0 (wFg 0x10004101 0) (wFp 0x10004101 0) 0x10004101 0 s1) ∧
      decodeWord 0x10004101 0 = .error (.illegalOperand false)) ∧
    ({ State.reset with agenda := [.event .powerOnReset] } : State).agenda = .event .powerOnReset :: [] :=
  ⟨⟨fetches_of _ _ (by decide +kernel) (by decide +kernel) (by decide +kernel), by decide⟩, ⟨fetches_of _ _ (by decide +kernel) (by decide +kernel) (by decide +kernel), by decide⟩,
   ⟨fetches_of _ _ (by decide +kernel) (by decide +kernel) (by decide +kernel), by decide⟩, rfl⟩

/-- The first split of a witness, changed. -/
def wSplit (s : State) (f : Split → Split) : State := s.mapGroup 1 (fun g => { g with splits := g.splits.map f })

/-- The operands of the lane statements: a destination that is the last register, the first, or `zero`; sources of every kind. -/
theorem witness_lane : Ready w4 (wG w4) (wP w4) ∧ (∀ d ∈ ([0, 15, 126] : List RegNum), laneDstOk (wG w4) d = true) ∧
    ∀ a ∈ [Src.reg 0, .reg 15, .reg 96, .reg 125, .reg 126, .lit 0xFFFFFFFF], srcOk (wG w4) a = true := ⟨ready_w4, by decide⟩

theorem witness_LaneIntegerArithmetic : Ready w4 (wG w4) (wP w4) ∧ laneDstOk (wG w4) 126 = true ∧ srcOk (wG w4) (.reg 4) = true ∧
    srcOk (wG w4) (.lit 7) = true ∧ (2 < (3 : BitVec 3).toNat ∧ 0 < (1 : BitVec 3).toNat ∧ 3 < (4 : BitVec 3).toNat ∧ (1 : BitVec 7) ≠ 0) :=
  ⟨ready_w4, by decide⟩

theorem witness_LaneLogicShifts : Ready w4 (wG w4) (wP w4) ∧ laneDstOk (wG w4) 15 = true ∧ srcOk (wG w4) (.reg 4) = true ∧
    srcOk (wG w4) (.lit 32) = true ∧ (1 < (2 : BitVec 3).toNat ∧ (32 : Nat) ≤ 32) := ⟨ready_w4, by decide⟩

theorem witness_LaneFieldsBytes : Ready w32 (wG w32) (wP w32) ∧ laneDstOk (wG w32) 15 = true ∧ srcOk (wG w32) (.reg 4) = true ∧
    srcOk (wG w32) (.lit 0x3F1F) = true := ⟨ready_w32, by decide⟩

theorem witness_CarryAndPairs : Ready w4 (wG w4) (wP w4) ∧ laneDstOk (wG w4) 0 = true ∧ srcOk (wG w4) (.reg 4) = true ∧
    (∀ d ∈ ([14, 126] : List RegNum), laneDst64Ok (wG w4) d = true) ∧ ∀ a ∈ [Src.reg 14, .reg 124, .reg 126, .lit 1], src64Ok (wG w4) a = true :=
  ⟨ready_w4, by decide⟩

theorem witness_PredicatesSelects : Ready w4 (wG w4) (wP w4) ∧ laneDstOk (wG w4) 5 = true ∧ srcOk (wG w4) (.reg 4) = true ∧
    srcOk (wG w4) (.lit 64) = true ∧ 8 ≤ (8 : RegNum).toNat := ⟨ready_w4, by decide⟩

theorem witness_ScaledSumSelect : Ready w4 (wG w4) (wP w4) ∧ laneDstOk (wG w4) 5 = true ∧ srcOk (wG w4) (.reg 4) = true ∧
    srcOk (wG w4) (.reg 6) = true := ⟨ready_w4, by decide⟩

theorem witness_LaneExchange : Ready w4 (wG w4) (wP w4) ∧ laneDstOk (wG w4) 5 = true ∧ srcOk (wG w4) (.reg 4) = true ∧
    srcOk (wG w4) (.lit 31) = true ∧ 8 ≤ (8 : RegNum).toNat := ⟨ready_w4, by decide⟩

/-! ## Witnesses: floating point -/

/-- Trap enables for every flag; in v1, -1.0 in every lane; FMT with NARROW = 5. -/
def wTrapF : State := (wSplit w4 (fun p => { p with fmt := 0x50 })).mapGroup 1 (fun g =>
  { g with fcsr := 0x1F, v := (List.range 32).map (fun l => (32 + l, 0xBF800000)) ++ (List.range 32).map (fun l => (64 + l, 0x7FA00000)) })

theorem ready_wTrapF : Ready wTrapF (wG wTrapF) (wP wTrapF) := ⟨by decide, by decide, by decide⟩

/-- No lane raises an enabled flag; and with every trap enabled, -1.0 plus a signalling NaN does. -/
theorem witness_FloatArithmetic :
    (Ready w4 (wG w4) (wP w4) ∧ laneDstOk (wG w4) 5 = true ∧ srcOk (wG w4) (.reg 4) = true ∧ srcOk (wG w4) (.lit 0x3F800000) = true ∧
      enabledUnion (wG w4) (wP w4).active (fun l => (roundLanes32 .rne (wP w4).active (fun l => sumExt .rne [srcF (wG w4) (.reg 4) l, srcF (wG w4) (.lit 0x3F800000) l]) l).2) = 0) ∧
    Ready wTrapF (wG wTrapF) (wP wTrapF) ∧ laneDstOk (wG wTrapF) 5 = true ∧
      enabledUnion (wG wTrapF) (wP wTrapF).active (fun l => (roundLanes32 .rne (wP wTrapF).active (fun l => sumExt .rne [srcF (wG wTrapF) (.reg 1) l, srcF (wG wTrapF) (.reg 2) l]) l).2) ≠ 0 :=
  ⟨⟨ready_w4, by decide +kernel⟩, ready_wTrapF, by decide +kernel⟩

theorem witness_FloatCompare :
    Ready w4 (wG w4) (wP w4) ∧ laneDstOk (wG w4) 5 = true ∧ srcOk (wG w4) (.reg 4) = true ∧ srcOk (wG w4) (.lit 0x3F800000) = true ∧
      enabledUnion (wG w4) (wP w4).active (fun l => (fcmpTest .lt (fp32 (srcVal (wG w4) (.reg 4) l)) (fp32 (srcVal (wG w4) (.lit 0x3F800000) l))).2) = 0 :=
  ⟨ready_w4, by decide +kernel⟩

theorem witness_FloatPacked :
    Ready w4 (wG w4) (wP w4) ∧ laneDstOk (wG w4) 5 = true ∧ srcOk (wG w4) (.reg 4) = true ∧ srcOk (wG w4) (.lit 0x3C003C00) = true ∧
      (6 : PredNum).toNat % 2 = 0 ∧ (7 : PredNum).toNat % 2 = 1 ∧
      enabledUnion (wG w4) (wP w4).active (fun l => (fcmpTest .lt (half (srcVal (wG w4) (.reg 4) l) 0) (half (srcVal (wG w4) (.lit 0x3C003C00) l) 0)).2 |||
        (fcmpTest .lt (half (srcVal (wG w4) (.reg 4) l) 1) (half (srcVal (wG w4) (.lit 0x3C003C00) l) 1)).2) = 0 :=
  ⟨ready_w4, by decide +kernel⟩

/-- No trap is enabled; and every trap is, where 1/0 is asked for. -/
theorem witness_FloatFunctions :
    (Ready w4 (wG w4) (wP w4) ∧ laneDstOk (wG w4) 5 = true ∧ srcOk (wG w4) (.reg 4) = true ∧
      (wG w4).fcsr &&& (fIX ||| fUF ||| fOF ||| fDZ ||| fIV) = 0) ∧
    (Ready wTrapF (wG wTrapF) (wP wTrapF) ∧ laneDstOk (wG wTrapF) 5 = true ∧ (wG wTrapF).fcsr &&& (fIX ||| fIV) ≠ 0) :=
  ⟨⟨ready_w4, by decide⟩, ready_wTrapF, by decide⟩

/-- Each conversion's own codes at their ends and one beside them; FMT.OUTCAP = 0; FMT.NARROW a DX format, and none. -/
theorem witness_FloatConversions :
    (Ready w4 (wG w4) (wP w4) ∧ laneDstOk (wG w4) 5 = true ∧ srcOk (wG w4) (.reg 4) = true ∧ fmtOutcap (wP w4) = false ∧
      fmtNarrow (wP w4) ∉ [5, 6, 7]) ∧
    (Ready wTrapF (wG wTrapF) (wP wTrapF) ∧ fmtNarrow (wP wTrapF) ∈ [5, 6, 7]) ∧
    (1 : BitVec 4).toNat ∈ [1, 2, 3, 4, 8, 9] ∧ (9 : BitVec 4).toNat ∈ [1, 2, 3, 4, 8, 9] ∧ (0 : BitVec 4).toNat ∉ [1, 2, 3, 4, 8, 9] ∧
    (0 : BitVec 4).toNat ∈ [0, 1, 2, 3, 4, 8, 9] ∧ (10 : BitVec 4).toNat ∉ [0, 1, 2, 3, 4, 8, 9] ∧
    (5 : BitVec 4).toNat ∈ [5, 6, 7] ∧ (7 : BitVec 4).toNat ∈ [5, 6, 7] ∧ (8 : BitVec 4).toNat ∉ [5, 6, 7] ∧
    (1 : BitVec 4).toNat ∈ [1, 2, 3, 4] ∧ (5 : BitVec 4).toNat ∉ [1, 2, 3, 4] := ⟨⟨ready_w4, by decide⟩, ⟨ready_wTrapF, by decide⟩, by decide⟩

/-! ## Witnesses: traps and uniform instructions -/

/-- The group is in supervisor mode. -/
def wSup (s : State) : State := s.mapGroup 1 (fun g => { g with mode := true })

theorem witness_TrapEntry :
    (issuer w4 = some (wG w4, wP w4) ∧ (wG w4).mode = false ∧ (wG w4).pending = []) ∧
    (issuer (wSup w4) = some (wG (wSup w4), wP (wSup w4)) ∧ (wG (wSup w4)).mode = true) ∧
    (Cause.mk' 0x17 0xF0 0).code ≠ 0x11 ∧ (Cause.mk' 0x17 0xF0 0).code ≠ 0x12 ∧ (Cause.mk' 0x17 0xF0 0).code ≠ 0x13 := by decide

theorem witness_UniformArithmetic : Ready w4 (wG w4) (wP w4) ∧ srcOk (wG w4) (.reg 96) = true ∧ srcOk (wG w4) (.lit 32) = true ∧
    (∀ d ∈ ([0, 15, 96, 125, 126] : List RegNum), uniDstOk (wG w4) d = true) ∧ (30 : BitVec 5).toNat ≠ 31 ∧
    (∀ d ∈ ([14, 96, 124, 126] : List RegNum), uniDst64Ok (wG w4) d = true) ∧ ∀ a ∈ [Src.reg 14, .reg 124, .reg 126, .lit 1], src64Ok (wG w4) a = true :=
  ⟨ready_w4, by decide⟩

/-- Destinations and sources just outside: v16, s0 and lit as lane destinations, lit as a uniform one, v16 as a source, an odd pair. -/
theorem witness_IllegalOperands : Ready w4 (wG w4) (wP w4) ∧
    (∀ d ∈ ([16, 95, 96, 127] : List RegNum), laneDstOk (wG w4) d = false) ∧ srcOk (wG w4) (.reg 16) = false ∧
    (∀ d ∈ ([15, 16, 96, 127] : List RegNum), laneDst64Ok (wG w4) d = false) ∧ (∀ d ∈ ([16, 127] : List RegNum), uniDstOk (wG w4) d = false) ∧
    (∀ d ∈ ([15, 16, 97, 127] : List RegNum), uniDst64Ok (wG w4) d = false) ∧ (∀ a ∈ [Src.reg 15, .reg 16, .reg 97], src64Ok (wG w4) a = false) ∧
    srcPred (.reg 8) = none ∧ srcPred (.lit 0) = none ∧ predOf 8 = none :=
  ⟨ready_w4, by decide⟩

/-! ## Witnesses: control flow -/

/-- p0 is true in the active lanes, in none of them, in one. -/
def wPred (m : LaneMask) : State := w4.mapGroup 1 (fun g => { g with p := [(0, m)] })

theorem witness_Branches :
    (Ready (wPred 0xF0) (wG (wPred 0xF0)) (wP (wPred 0xF0)) ∧ (wP (wPred 0xF0)).active &&& readPred (wG (wPred 0xF0)) 0 = (wP (wPred 0xF0)).active) ∧
    (Ready (wPred 0x0F) (wG (wPred 0x0F)) (wP (wPred 0x0F)) ∧ (wP (wPred 0x0F)).active ≠ 0 ∧
      (wP (wPred 0x0F)).active &&& readPred (wG (wPred 0x0F)) 0 = 0) ∧
    (src64Ok (wG w4) (.lit 0) = true ∧ (srcVal64 (wG w4) (.lit 0) 4).toNat < 2 ^ 48 ∧ (srcVal64 (wG w4) (.lit 0) 4).toNat % 4 = 0) ∧
    (src64Ok (wG w4) (.lit 0x80000000) = true ∧ 2 ^ 48 ≤ (srcVal64 (wG w4) (.lit 0x80000000) 4).toNat) ∧
    ((srcVal64 (wG w4) (.lit 0x7FFFFFFF) 4).toNat < 2 ^ 48 ∧ (srcVal64 (wG w4) (.lit 0x7FFFFFFF) 4).toNat % 4 ≠ 0) ∧
    src64Ok (wG w4) (.reg 97) = false :=
  ⟨⟨⟨by decide, by decide, by decide⟩, by decide⟩, ⟨⟨by decide, by decide, by decide⟩, by decide⟩, by decide⟩

/-- `n` more splits. -/
def wMore (s : State) (n : Nat) : State := s.mapGroup 1 (fun g =>
  { g with splits := g.splits ++ (List.range n).map (fun k => { freshSplit 0x100040 0 0 with idx := k + 1, active := BitVec.ofNat 32 (2 ^ (8 + k)) }) })

theorem ready_wMore : Ready (wMore (wPred 0x20) 3) (wG (wMore (wPred 0x20) 3)) (wP (wMore (wPred 0x20) 3)) := ⟨by decide, by decide, by decide⟩

/-- An entry of a divergence, as the top of the issuing split's stack, and of another split's that waits on it. -/
def wEntry (x : StackEntry) (s : State) : State := s.mapGroup 1 (fun g => { g with splits := g.splits.map (fun p =>
  { p with depth := 1, stack := x :: List.replicate 15 StackEntry.zero, st := if p.idx = 0 then p.st else .join }) })

def wFirstArm : State := wEntry { StackEntry.zero with id := 7, mask := 0xFF0, ppc := 0x100080, pmask := 0xF00 } w4
def wMeets : State := wEntry { StackEntry.zero with id := 7, mask := 0x1F0 } (wMore w4 1)
def wWaits : State := (wEntry { StackEntry.zero with id := 7, mask := 0xFF0 } (wMore w4 2)).mapSplit 1 2 (fun q => { q with st := .ready })
def wFull : State := wSplit (wPred 0x20) (fun p => { p with depth := 16 })

/-- BRA: one lane of four takes it, with a free index, with a full stack, and with four splits; RCV at depth 15 and 16; JOIN with no entry,
as a first arm, as the last to arrive, and before that. -/
theorem witness_DivergenceReconvergence :
    (Ready (wPred 0x20) (wG (wPred 0x20)) (wP (wPred 0x20)) ∧ (wP (wPred 0x20)).stack.length = 16 ∧ (wP (wPred 0x20)).depth < 16 ∧
      (wG (wPred 0x20)).splits.length < 4 ∧ (wP (wPred 0x20)).active &&& readPred (wG (wPred 0x20)) 0 ≠ (wP (wPred 0x20)).active ∧
      (wP (wPred 0x20)).active &&& readPred (wG (wPred 0x20)) 0 ≠ 0) ∧
    (Ready wFull (wG wFull) (wP wFull) ∧ (wP wFull).stack.length = 16 ∧ 16 ≤ (wP wFull).depth ∧
      (wP wFull).active &&& readPred (wG wFull) 0 ≠ (wP wFull).active ∧ (wP wFull).active &&& readPred (wG wFull) 0 ≠ 0) ∧
    (Ready (wMore (wPred 0x20) 3) (wG (wMore (wPred 0x20) 3)) (wP (wMore (wPred 0x20) 3)) ∧ (wP (wMore (wPred 0x20) 3)).stack.length = 16 ∧
      4 ≤ (wG (wMore (wPred 0x20) 3)).splits.length ∧ (wP (wMore (wPred 0x20) 3)).active &&& readPred (wG (wMore (wPred 0x20) 3)) 0 ≠ 0) ∧
    (Ready w4 (wG w4) (wP w4) ∧ (wP w4).stack.length = 16 ∧ (wP w4).depth = 0) ∧
    (Ready wFirstArm (wG wFirstArm) (wP wFirstArm) ∧ (wP wFirstArm).stack.length = 16 ∧ 0 < (wP wFirstArm).depth ∧
      ((wP wFirstArm).stack.getD 0 StackEntry.zero).ppc ≠ 0) ∧
    (Ready wMeets (wG wMeets) (wP wMeets) ∧ (wP wMeets).stack.length = 16 ∧ (wP wMeets).depth = 1 ∧
      (let x := (wP wMeets).stack.getD 0 StackEntry.zero
       let ws := (wG wMeets).splits.filter (fun q => q.st == .join && decide (0 < q.depth) && q.top.id == x.id)
       x.ppc = 0 ∧ entryMet (wG wMeets) x (wP wMeets :: ws) = true ∧ ws ≠ [] ∧ ∀ q ∈ ws, q.abort = none ∧ q.trapStep = false)) ∧
    (Ready wWaits (wG wWaits) (wP wWaits) ∧ (wP wWaits).stack.length = 16 ∧ (wP wWaits).depth = 1 ∧
      (let x := (wP wWaits).stack.getD 0 StackEntry.zero
       let ws := (wG wWaits).splits.filter (fun q => q.st == .join && decide (0 < q.depth) && q.top.id == x.id)
       x.ppc = 0 ∧ entryMet (wG wWaits) x (wP wWaits :: ws) = false)) :=
  ⟨⟨⟨by decide, by decide, by decide⟩, by decide⟩, ⟨⟨by decide, by decide, by decide⟩, by decide⟩, ⟨ready_wMore, by decide⟩, ⟨ready_w4, by decide⟩,
   ⟨⟨by decide, by decide, by decide⟩, by decide⟩, ⟨⟨by decide, by decide, by decide⟩, by decide⟩, ⟨⟨by decide, by decide, by decide⟩, by decide⟩⟩

/-- What is at home, shown on the bytes' sectors alone. -/
theorem atHome_of {s : State} {P : Party} {pa n key : Nat} (hv : P.view = 0) (hk : keyOf s P.tenancy = some key)
    (hg : ∀ j < n, sectorFails s (pa + j) = false ∧ flitFails s (pa + j) = false) (h1 : s.mm.l1 = []) (h2 : s.mm.l2 = []) : AtHome s P pa n key where
  view := hv
  key := hk
  good k a b := by have h := hg (k - pa) (by omega); rwa [Nat.add_sub_cancel' a] at h
  l1 _ _ _ _ hx := by rw [h1] at hx; cases hx
  l2 _ _ _ _ hx := by rw [h2] at hx; cases hx

/-- A list at 0x300000 of some capacity and count; lanes 4 and 5 hold what CVTF to the narrow formats captures, every other lane 1.0; FMT.OUTCAP is 1. -/
def wList (act : LaneMask) (cap cnt : Nat) : State :=
  let s := (wBase act).mapGroup 1 (fun g =>
    { g with s := g.s ++ [(28, 0x300000), (29, 0), (27, 1000)], splits := g.splits.map (fun p => { p with fmt := 0x40000 }),
             v := (List.range 32).map (fun l => (32 + l, if l = 4 ∨ l = 5 then (0x7F000000 : Word) else 0x3F800000)) })
  dramWrite s 1 0x1300000 (leBytes cap 4 ++ leBytes cnt 4)

def wList1 (s : State) (n va : Nat) : State := (checkOne s (s.party (wG s)) .store true true n va).1

/-- The leaf of a list's bytes. -/
def wLeaf (va : Nat) : Leaf := { pa := va + 0x1000000, attr := 0, w := true, x := false, size := 0x1000 }

theorem checks_of {s : State} {P : Party} {n va : Nat} {h : Leaf} (hk : (checkOne s P .store true true n va).2 = .ok h) :
    checkOne s P .store true true n va = ((checkOne s P .store true true n va).1, .ok h) := Prod.ext rfl hk

/-- A list with room for one more element, one that is full, and the place of an entry. -/
theorem witness_AppendsElement :
    (∀ cnt ∈ [1, 2], let s := wList 0xF0 2 cnt
      (wList1 s 16 0x300000).split? 1 0 = some (wG s, wP s) ∧ NothingOlder (wG s) ∧
      checkOne s (s.party (wG s)) .store true true 16 0x300000 = (wList1 s 16 0x300000, .ok (wLeaf 0x300000)) ∧
      AtHome (wList1 s 16 0x300000) (s.party (wG s)) 0x1300000 16 1 ∧ NothingHolds (wList1 s 16 0x300000) (s.party (wG s)) 0x1300000 16 ∧
      leNat ((List.range 4).map (fun j => dramByte (wList1 s 16 0x300000) 1 (0x1300000 + 0 + j))) = 2 ∧
      leNat ((List.range 4).map (fun j => dramByte (wList1 s 16 0x300000) 1 (0x1300000 + 4 + j))) = cnt) ∧
    (let s := wList 0xF0 2 1
     checkOne s (s.party (wG s)) .store true true 8 (0x300000 + 16 + 8 * 1) = (wList1 s 8 0x300018, .ok (wLeaf 0x300018)) ∧
      AtHome (wList1 s 8 0x300018) (s.party (wG s)) 0x1300018 8 1 ∧ NothingHolds (wList1 s 8 0x300018) (s.party (wG s)) 0x1300018 8) := by
  constructor
  · intro cnt hc
    have hc : cnt = 1 ∨ cnt = 2 := by simpa using hc
    rcases hc with rfl | rfl <;>
      exact ⟨by decide +kernel, ⟨by decide +kernel, by decide +kernel⟩, checks_of (by decide +kernel),
        atHome_of (by decide +kernel) (by decide +kernel) (by decide +kernel) (by decide +kernel) (by decide +kernel), by unfold NothingHolds; decide +kernel,
        by decide +kernel, by decide +kernel⟩
  · exact ⟨checks_of (by decide +kernel), atHome_of (by decide +kernel) (by decide +kernel) (by decide +kernel) (by decide +kernel) (by decide +kernel),
      by unfold NothingHolds; decide +kernel⟩

def wCap : State := wList 0xF0 2 1
abbrev wCapX (l : Nat) : Word := srcVal (wG wCap) (.reg 1) l
abbrev wCapHead (s : State) := appendHeader (wCap.party (wG wCap)) 1 0 0x300000 s
abbrev wCapEntry : State × AppendEnd := appendEntry (wCap.party (wG wCap)) 1 0 0x300000 1 (leBytes 1004 4 ++ leBytes 0x7F000000 4) (wCapHead wCap).1
abbrev wCapEnd : State := (wCapHead wCapEntry.1).1

theorem pair_of {α β : Type} {r : α × β} {y : β} (h : r.2 = y) : r = (r.1, y) := Prod.ext rfl h

/-- Lanes 4 and 5 overflow E4M3: one is appended, and the other finds the list full. -/
theorem captures_wCap : Captures (wCap.party (wG wCap)) 1 0 0x300000 (fun l => readReg (wG wCap) 123 0 + BitVec.ofNat 32 l) wCapX [4, 5] wCap [5] wCapEnd :=
  .inl ⟨(wCapHead wCap).1, wCapEntry.1, 1, pair_of (by decide +kernel), pair_of (by decide +kernel),
    .inr ⟨wCapEnd, [], pair_of (by decide +kernel), rfl, rfl, rfl⟩⟩

/-- With every trap enabled, lane 6 is inexact. -/
def wCapTrap : State := wCap.mapGroup 1 (fun g => { g with fcsr := 0x1F, v := sset g.v (32 + 6) 0x3F800001 })

def wCapFlags (g : Group) (p : Split) (l : Nat) : Flags :=
  let res := cvtfWord 3 (fmtRm p) false p.active (fun l => srcVal g (.reg 1) l)
  if cvtfCaptured 3 (srcVal g (.reg 1) l) (res l) then 0 else (res l).2

theorem witness_CapturedConversions :
    (Ready wCap (wG wCap) (wP wCap) ∧ laneDstOk (wG wCap) 5 = true ∧ srcOk (wG wCap) (.reg 1) = true ∧ fmtOutcap (wP wCap) = true ∧ fmtSat (wP wCap) = false ∧
      (wP wCap).st ≠ .fault ∧ (wP wCap).appends = none ∧ (readReg (wG wCap) 125 0 ++ readReg (wG wCap) 124 0).toNat = 0x300000 ∧
      enabledUnion (wG wCap) (wP wCap).active (wCapFlags (wG wCap) (wP wCap)) = 0) ∧
    (let out := testMask (fun l => laneIn (wP wCap).active l && cvtfCaptured 3 (wCapX l) (cvtfWord 3 (fmtRm (wP wCap)) false (wP wCap).active wCapX l))
     lanesOf (out &&& (wP wCap).active) = [4, 5]) ∧
    Ready wCapEnd (wG wCapEnd) (wP wCapEnd) ∧ (wG wCapEnd).gid = (wG wCap).gid ∧ (wP wCapEnd).idx = (wP wCap).idx ∧
    (Ready wCapTrap (wG wCapTrap) (wP wCapTrap) ∧ enabledUnion (wG wCapTrap) (wP wCapTrap).active (wCapFlags (wG wCapTrap) (wP wCapTrap)) ≠ 0) ∧
    (3 : BitVec 4).toNat ∈ [0, 1, 2, 3, 4, 8, 9] ∧ (5 : BitVec 4).toNat ∈ [5, 6, 7] :=
  ⟨⟨⟨by decide +kernel, by decide +kernel, by decide +kernel⟩, by decide +kernel⟩, by decide +kernel, ⟨by decide +kernel, by decide +kernel, by decide +kernel⟩,
   by decide +kernel, by decide +kernel, ⟨⟨by decide +kernel, by decide +kernel, by decide +kernel⟩, by decide +kernel⟩, by decide⟩

/-! ## Witnesses: memory -/

/-- What is found, shown on the found values alone. -/
theorem finds_of {s : State} {p : Split} {P : Party} {k : AccessKind} {noExt writes : Bool} {n : Nat} {lanes : List (Nat × Nat)}
    {oks : List (Nat × Nat × Leaf)} (h : p.st ≠ .fault)
    (hk : (checkAll s { P with markClu := p.scClu, markDev := p.scDev } k noExt writes n lanes).2 = oks.map (fun x => (x.1, x.2.1, Finding.ok x.2.2)))
    (hg : (checkAll s { P with markClu := p.scClu, markDev := p.scDev } k noExt writes n lanes).1.fe = s.fe) :
    FindsAll s p P k noExt writes n lanes (checkAll s { P with markClu := p.scClu, markDev := p.scDev } k noExt writes n lanes).1 oks :=
  ⟨h, Prod.ext rfl hk, by rw [hg], by rw [hg], by rw [hg], by rw [hg]⟩

/-- A loaded key; and the sectors of a write across a sector's end, with no error. -/
theorem witness_MemoryReadAfterWrite : keyOf w4 1 = some 1 ∧ ([1, 2] : List Byte) ≠ [] ∧
    ∀ x ∈ sectorsOf 0x1300FFF 2, w4.mm.bad.contains x = false ∧ w4.mm.lost.contains x = false ∧ flitFails w4 (64 * x) = false := by decide +kernel

/-- The lanes' addresses of v4 from s0 : s1, and their leaves. -/
def wLanes : List (Nat × Nat) := [(4, 0x300040), (5, 0x300050), (6, 0x300060), (7, 0x300070)]
def wOks (xs : List (Nat × Nat)) : List (Nat × Nat × Leaf) := xs.map (fun x => (x.1, x.2, { pa := x.2 + 0x1000000, attr := 0, w := true, x := false, size := 0x1000 }))

theorem witness_GlobalLoads :
    (Ready w4 (wG w4) (wP w4) ∧ wOks wLanes ≠ [] ∧ (∀ x ∈ wOks wLanes, x.2.2.attr = 0) ∧ globalOk (wG w4) 0 (.reg 4) = true ∧
      loadDstOk (wG w4) 8 (loadBytes .b32) = true ∧ NothingOlder (wG w4) ∧
      ∃ s1, (∀ x ∈ wOks wLanes, NothingHolds s1 (w4.party (wG w4)) x.2.2.pa (loadBytes .b32)) ∧ FindsAll w4 (wP w4) (w4.party (wG w4)) .load true false (loadBytes .b32)
        ((lanesOf (wP w4).active).map (fun l => (l, runAddr (wG w4) 0 (.reg 4) (loadBytes .b32) l))) s1 (wOks wLanes)) ∧
    (uniDst64Ok (wG w4) 98 = true ∧ uniDstOk (wG w4) 125 = true ∧ baseOk (wG w4) (.reg 96) = true ∧ srcOk (wG w4) (.reg 104) = true ∧
      ∃ s1, FindsAll w4 (wP w4) (w4.party (wG w4)) .load true false 8
        [(lowest (wP w4).active, (srcVal64 (wG w4) (.reg 96) 4).toNat + (srcVal (wG w4) (.reg 104) 4).toNat)] s1 (wOks [(4, 0x300018)])) :=
  ⟨⟨ready_w4, by decide, by decide, by decide, by decide, ⟨by decide, by decide⟩, (checkAll w4 { w4.party (wG w4) with markClu := (wP w4).scClu, markDev := (wP w4).scDev } .load true false (loadBytes .b32) ((lanesOf (wP w4).active).map (fun l => (l, runAddr (wG w4) 0 (.reg 4) (loadBytes .b32) l)))).1,
    by unfold NothingHolds; decide +kernel, finds_of (by decide) (by decide +kernel) (by decide +kernel)⟩,
   by decide, by decide, by decide, by decide, _, finds_of (by decide) (by decide +kernel) (by decide +kernel)⟩

theorem witness_GlobalStores :
    (Ready w4 (wG w4) (wP w4) ∧ (∀ x ∈ wOks wLanes, x.2.2.attr = 0) ∧ globalOk (wG w4) 0 (.reg 4) = true ∧
      storeSrcOk (wG w4) (.reg 4) (storeSize .b128) = true ∧
      ∃ s1, FindsAll w4 (wP w4) (w4.party (wG w4)) .store false true (storeSize .b128)
        ((lanesOf (wP w4).active).map (fun l => (l, runAddr (wG w4) 0 (.reg 4) (storeSize .b128) l))) s1 (wOks wLanes)) ∧
    (src64Ok (wG w4) (.reg 98) = true ∧ srcOk (wG w4) (.reg 98) = true ∧ baseOk (wG w4) (.reg 96) = true ∧ srcOk (wG w4) (.reg 104) = true ∧
      ∃ s1, FindsAll w4 (wP w4) (w4.party (wG w4)) .store false true 8
        [(lowest (wP w4).active, (srcVal64 (wG w4) (.reg 96) 4).toNat + (srcVal (wG w4) (.reg 104) 4).toNat)] s1 (wOks [(4, 0x300018)])) :=
  ⟨⟨ready_w4, by decide, by decide, by decide, _, finds_of (by decide) (by decide +kernel) (by decide +kernel)⟩,
   by decide, by decide, by decide, by decide, _, finds_of (by decide) (by decide +kernel) (by decide +kernel)⟩

/-- One lane is active. -/
def w1 : State := wBase 0x10
theorem ready_w1 : Ready w1 (wG w1) (wP w1) := ⟨by decide, by decide, by decide⟩

/-- Two lanes are active, and both name one address. -/
def w2 : State := (wBase 0x30).mapGroup 1 (fun g => { g with v := sset (sset g.v (128 + 4) 64) (128 + 5) 64 })
theorem ready_w2 : Ready w2 (wG w2) (wP w2) := ⟨by decide, by decide, by decide⟩

def w2Lanes : List (Nat × Nat) := [(4, 0x300040), (5, 0x300040)]
def w2Found (n : Nat) : State :=
  (checkAll w2 { w2.party (wG w2) with markClu := (wP w2).scClu, markDev := (wP w2).scDev } .store true true n w2Lanes).1
abbrev w2Op : Nat → List Byte → List Byte := atomBBytes .umax (wG w2) 8
abbrev w2Lane (s : State) (l : Nat) := performAtomic s { w2.party (wG w2) with writer := some (1, 0) } 0x300040 0x1300040 0 4 .dev (w2Op l)
abbrev w2Next : State := noteGwct (w2Lane (w2Found 4) 4).1 1 0 0 0
abbrev w2End : State := noteGwct (w2Lane w2Next 5).1 1 0 0 0

/-- An atomic's parts, shown on what it reads and counts. -/
theorem performs_of {s : State} {P : Party} {va pa attr n : Nat} {sc : Scope} {op : List Byte → List Byte} {old : List Byte} {gw : Nat}
    (h : (performAtomic s P va pa attr n sc op).2 = (some old, gw)) :
    performAtomic s P va pa attr n sc op = ((performAtomic s P va pa attr n sc op).1, some old, gw) := Prod.ext rfl h

/-- Two lanes at one address, found, at home, and performed one after the other, in both sets. -/
theorem witness_GlobalAtomics : (Ready w2 (wG w2) (wP w2) ∧ NothingOlder (wG w2) ∧ globalOk (wG w2) 0 (.reg 4) = true ∧
      atomDstOk (wG w2) 8 4 true = true ∧ atomDstOk (wG w2) 8 8 true = true ∧ atomDstOk (wG w2) 126 8 false = true ∧ wOks w2Lanes ≠ []) ∧
    (∀ n ∈ [4, 8], FindsAll w2 (wP w2) (w2.party (wG w2)) .store true true n ((lanesOf (wP w2).active).map (fun l => (l, globalAddr (wG w2) 0 (.reg 4) l)))
        (w2Found n) (wOks w2Lanes) ∧
      ∀ x ∈ wOks w2Lanes, NothingHolds (w2Found n) (w2.party (wG w2)) x.2.2.pa n ∧ AtHome (w2Found n) (w2.party (wG w2)) x.2.2.pa n 1 ∧ x.2.2.attr = 0) ∧
    LanesPerformed (w2.party (wG w2)) 1 0 4 .dev w2Op (wOks w2Lanes) (w2Found 4) [(4, List.replicate 4 0), (5, List.replicate 4 0)] w2End ∧
    w2End.split? 1 0 = some (wG w2End, wP w2End) ∧ (wP w2End).pc = (wP w2).pc ∧ (wP w2End).abort = none ∧ (wP w2End).trapStep = false := by
  refine ⟨⟨ready_w2, ⟨by decide, by decide⟩, by decide⟩, ?_, ?_, by decide +kernel⟩
  · intro n hn
    have hn : n = 4 ∨ n = 8 := by simpa using hn
    have h2 (x) (hx : x ∈ wOks w2Lanes) : x.2.2.pa = 0x1300040 ∧ x.2.2.attr = 0 := (by decide : ∀ x ∈ wOks w2Lanes, x.2.2.pa = 0x1300040 ∧ x.2.2.attr = 0) x hx
    rcases hn with rfl | rfl <;> refine ⟨finds_of (by decide) (by decide +kernel) (by decide +kernel), fun x hx => ?_⟩ <;> rw [(h2 x hx).1] <;>
      exact ⟨by unfold NothingHolds; decide +kernel,
        atHome_of (by decide +kernel) (by decide +kernel) (by decide +kernel) (by decide +kernel) (by decide +kernel), (h2 x hx).2⟩
  · exact ⟨(w2Lane (w2Found 4) 4).1, List.replicate 4 0, 0, [(5, List.replicate 4 0)], performs_of (by decide +kernel), rfl,
      (w2Lane w2Next 5).1, List.replicate 4 0, 0, [], performs_of (by decide +kernel), rfl, rfl, rfl⟩

theorem witness_LocalAccesses :
    (Ready w4 (wG w4) (wP w4) ∧ w4.block? (wG w4).bid = some loadBlock ∧ localOk (wG w4) .clu 2 (.reg 4) = true ∧ inRoutine (wG w4) = false ∧
      loadDstOk (wG w4) 8 (loadBytes .b32) = true ∧ storeSrcOk (wG w4) (.reg 8) (storeSize .b128) = true ∧
      (let lanes := (lanesOf (wP w4).active).map (fun l => (l, (readReg (wG w4) (96 + (2 : BitVec 5).toNat) l + srcVal (wG w4) (.reg 4) l).toNat))
       localTrap w4 loadBlock true (loadBytes .b32) lanes = none ∧ localTrap w4 loadBlock false (storeSize .b128) lanes = none ∧
       ownLanes w4 loadBlock lanes = (w4, []) ∧
       ∀ x ∈ lanes, ∀ key ∈ keyAt w4 loadBlock x.2, poolFails w4 key (loadBytes .b32) = false)) ∧
    (Ready w1 (wG w1) (wP w1) ∧ NothingOlder (wG w1) ∧ lanesOf (wP w1).active = [4] ∧ (keyAt w1 loadBlock 0x440).isSome = true ∧
      ownLanes w1 loadBlock [(4, 0x440)] = (w1, []) ∧ localTrap w1 loadBlock true 8 [(4, 0x440)] = none ∧
      pinned w1 (.pool ((keyAt w1 loadBlock 0x440).getD 0)) 8 = false ∧ poolFails w1 ((keyAt w1 loadBlock 0x440).getD 0) 8 = false ∧ atomDstOk (wG w1) 8 8 true = true) :=
  ⟨⟨ready_w4, by decide +kernel⟩, ready_w1, ⟨by decide, by decide⟩, by decide +kernel⟩

/-- Lanes at no address of the map; a FIFO of 8 with 2 entries, where 4 and 2 and 1 lanes ask, and one that 7 lanes cannot enter. -/
theorem witness_PrefetchFifo :
    (Ready w4 (wG w4) (wP w4) ∧ globalOk (wG w4) 30 (.reg 126) = true ∧ globalOk (wG w4) 0 (.reg 4) = true) ∧
    (let x := w4.pool 0 1
     fifoAt w4 (wG w4) (readReg (wG w4) (96 + (10 : BitVec 5).toNat) 0).toNat = some x ∧ inRival w4 (wG w4) = false ∧ x.width = fifoBytes .b32 ∧
     storeSrcOk (wG w4) (.reg 8) 4 = true ∧ loadDstOk (wG w4) 8 4 = true ∧ (lanesOf (0xF0 : LaneMask)).length ≤ x.depth ∧
     x.entries.length + (lanesOf (0xF0 : LaneMask)).length ≤ x.depth ∧ x.entries.length < (lanesOf (0xF0 : LaneMask)).length ∧
     (lanesOf (0x30 : LaneMask)).length ≤ x.entries.length ∧ (∀ y ∈ x.entries.take 2, y.2 < x.life * ageMicro) ∧
     x.depth < x.entries.length + (lanesOf (0x7F : LaneMask)).length ∧ (lanesOf (0x7F : LaneMask)).length ≤ x.depth) :=
  ⟨⟨ready_w4, by decide⟩, by decide +kernel⟩

/-- A misaligned address; a base pair that is odd; a scope that the scratchpad has not; registers that do not exist; and, for each cause of
R175's order, lanes that meet it with a later cause and none before it. -/
theorem witness_GlobalChecks :
    (Ready w4 (wG w4) (wP w4) ∧ (wP w4).st ≠ .fault ∧ (globalOk (wG w4) 12 (.reg 4) && loadDstOk (wG w4) 8 (loadBytes .b64)) = true ∧
      (globalOk (wG w4) 12 (.reg 4) && storeSrcOk (wG w4) (.reg 8) (storeSize .b64)) = true ∧ atomDstOk (wG w4) 8 4 true = true ∧ atomDstOk (wG w4) 8 8 true = true ∧
      (uniDst64Ok (wG w4) 98 && baseOk (wG w4) (.reg 108) && srcOk (wG w4) (.reg 104)) = true) ∧
    (∀ k ∈ [AccessKind.load, .store], ∀ noExt ∈ [true, false], ∀ writes ∈ [true, false], ∀ n ∈ [4, 8],
     let r := checkAll w4 { w4.party (wG w4) with markClu := (wP w4).scClu, markDev := (wP w4).scDev } k noExt writes n [(4, 0x303006)]
     (findingTrap r.2).isSome = true ∧ r.1.fe.groups = w4.fe.groups) ∧
    (globalOk (wG w4) 1 (.reg 4) && loadDstOk (wG w4) 8 4) = false ∧ (localOk (wG w4) .dev 2 (.reg 4) && loadDstOk (wG w4) 9 8) = false ∧
    (globalOk (wG w4) 0 (.reg 4) && storeSrcOk (wG w4) (.reg 16) 4) = false ∧ (globalOk (wG w4) 0 (.reg 4) && atomDstOk (wG w4) 9 8 true) = false ∧
    (localOk (wG w4) .clu 2 (.reg 4) && atomDstOk (wG w4) 15 4 true) = false ∧ (uniDst64Ok (wG w4) 97 && baseOk (wG w4) (.reg 96) && srcOk (wG w4) (.reg 104)) = false ∧
    (srcOk (wG w4) (.reg 16) && baseOk (wG w4) (.reg 96) && srcOk (wG w4) (.reg 104)) = false ∧
    (let order : List (Finding × Nat) := [(.align, 0x04), (.access, 0x05), (.translation, 0x06), (.abort, 0x11), (.external, 0x0E), (.exhausted, 0x0D)]
     let fs := fun k => ((order.drop k).map (·.1)).reverse.mapIdx (fun l f => (l, l, f))
     ∀ k < 6, (∀ x ∈ order.take k, ∀ y ∈ fs k, y.2.2 ≠ x.1) ∧ ∃ x ∈ order[k]?, ∃ y ∈ fs k, y.2.2 = x.1) :=
  ⟨⟨ready_w4, by decide⟩, by decide +kernel⟩

/-- Outstanding results, the one of their group, whose split is ready or in EBB. -/
def wOwed (regs : RegSet) (parts : List LaneResult) (ebb : Bool) : State := w4.mapGroup 1 (fun g =>
  { g with pending := [owed 0 regs parts w4 (wG w4) (wP w4)]
           splits := g.splits.map (fun p => { p with past := [w4.seq], outst := regs, st := if ebb then .ebb else p.st }) })

/-- Parts of a load of 16 bytes of a pool, of one signed byte, and of SLD. -/
def wPartOf (d : RegNum) (n : Nat) (sx : Bool) (pl : Place) (l : Nat) : LaneResult :=
  { lane := l, dests := loadDests d l n, vals := [], load := some (pl, n), sext := sx, scope := .blk, flags := 0 }
def wOwedPool (ebb : Bool) : State := wOwed (regRange 80 4) ((lanesOf 0x80000010).map (wPartOf 80 16 true (.pool 5))) ebb
def wInL1 (s : State) : State := { s with mm := { s.mm with
  l1 := [{ cluster := 0, core := 0, asid := 1, tenancy := 1, view := 0, va := 0xC001, pa := 0x4C001, data := 7, valid := BitVec.allOnes 64,
           dirty := 0, scope := .blk, wide := .blk, lease := 5, wperm := true, seq := 0, grant := 0, writers := [] }] } }
def wOwedByte (ebb : Bool) : State := wOwed (regRange 8 1) [wPartOf 8 1 true (.global 0x1300041 0x300041 0 4096) 31] ebb
def wOwedSld (d : RegNum) (w : Bool) : State := wInL1 (wOwed (wholeRegs d w) (wholeParts (wG w4) (wP w4) d w (.global 0x1300040 0x300040 0 4096)) true)

/-- What the statement asks of every result. -/
abbrev wReturns (s : State) : Prop := s.group? 1 = some (wG s) ∧ (wG s).pending.length = 1 ∧ (∀ x ∈ (wG s).pending, (wG s).split? x.sp = some (wP s) ∧
    x.after.contains x.seq = false ∧ x.view = 0 ∧ ∀ q ∈ (wG s).splits, holds q x = true) ∧
  ∀ q ∈ (wG s).splits, q.buffer = [] ∧ (q.st = .ebb → q.outst ≠ 0 ∧ q.abort = none ∧ q.stepDue = false)

/-- A part in the L1. -/
theorem finds_l1 {s : State} {P : Party} {p : Split} {r : LaneResult} {pa va n page : Nat} (y : L1Sector)
    (hr : r.load = some (.global pa va 0 page, n)) (ho : lineOwned s pa = false) (hy : l1Hit s P p.scClu p.scDev va n = some y) :
    Finds s P p r (sectorBytes y.data (pa % 64) n) := by
  unfold Finds
  rw [hr]
  exact ⟨rfl, ho, y, hy, rfl⟩

/-- The results of fixed words, of pools at two lanes, of a byte in the L1 and one in DRAM, and of SLD to a uniform pair and to a vector register; with
their splits ready and in EBB. -/
theorem witness_ResultReturn :
    (∀ ebb ∈ [true, false], let s := wOwed (regRange 8 1) ((lanesOf 0xF0).map (fun l => valuePart 8 l (BitVec.ofNat 32 l) fIX)) ebb
      wReturns s ∧ ∀ x ∈ (wG s).pending, x.parts = (lanesOf 0xF0).map (fun l => valuePart 8 l (BitVec.ofNat 32 l) fIX)) ∧
    (∀ ebb ∈ [true, false], wReturns (wOwedPool ebb) ∧ (∀ x ∈ (wG (wOwedPool ebb)).pending, x.parts = (lanesOf 0x80000010).map (wPartOf 80 16 true (.pool 5))) ∧
      poolFails (wOwedPool ebb) 5 16 = false) ∧
    (wReturns (wInL1 (wOwedByte true)) ∧ (∀ x ∈ (wG (wInL1 (wOwedByte true))).pending, x.parts = (lanesOf 0x80000000).map (wPartOf 8 1 true (.global 0x1300041 0x300041 0 4096))) ∧
      ∃ bs, Finds (wInL1 (wOwedByte true)) ((wInL1 (wOwedByte true)).party (wG (wInL1 (wOwedByte true)))) (wP (wInL1 (wOwedByte true)))
        (wPartOf 8 1 true (.global 0x1300041 0x300041 0 4096) 31) bs) ∧
    (wReturns (wOwedByte false) ∧ lineOwned (wOwedByte false) 0x1300041 = false ∧ (wOwedByte false).mm.l1 = [] ∧ (wOwedByte false).mm.l2 = [] ∧
      AtHome (wOwedByte false) ((wOwedByte false).party (wG (wOwedByte false))) (64 * (0x1300041 / 64)) 64 1) ∧
    (∀ d ∈ ([8, 98, 125] : List RegNum), ∀ w ∈ [true, false], (d ≠ 125 ∨ w = false) → wReturns (wOwedSld d w) ∧ (uniDst64Ok (wG (wOwedSld d w)) d = true ∨ w = false) ∧ (wP w4).active ≠ 0 ∧
      (∀ x ∈ (wG (wOwedSld d w)).pending, x.parts = wholeParts (wG (wOwedSld d w)) (wP w4) d w (.global 0x1300040 0x300040 0 4096)) ∧
      ∀ k < 2, lineOwned (wOwedSld d w) (0x1300040 + 4 * k) = false ∧
        (l1Hit (wOwedSld d w) ((wOwedSld d w).party (wG (wOwedSld d w))) (wP (wOwedSld d w)).scClu (wP (wOwedSld d w)).scDev (0x300040 + 4 * k) 4).isSome = true) ∧
    ([1, 2, 3, 4] : List Byte).length = 4 * 1 := by
  refine ⟨by decide +kernel, by decide +kernel, ⟨by decide +kernel, by decide +kernel, _, finds_l1 _ rfl (by decide +kernel) (Option.some_get (by decide +kernel)).symm⟩,
    ⟨by decide +kernel, by decide +kernel, by decide +kernel, by decide +kernel,
      atHome_of (by decide +kernel) (by decide +kernel) (by decide +kernel) (by decide +kernel) (by decide +kernel)⟩, by decide +kernel, rfl⟩

/-- A store to a pool; and one of view 0 to a page, at DEV. -/
def wStored (place : Place) (c : Scope) : State :=
  wSplit w4 (fun p => { p with buffer := [{ seq := 0, after := [], place, scope := c, bytes := [1, 2, 3, 4], view := 0, held := false }] })

theorem witness_StorePerformed :
    (let s := wStored (.pool 5) .blk
     s.split? 1 0 = some (wG s, wP s) ∧ ∃ x, (wP s).buffer[0]? = some x ∧ entryReady s (wG s) (wP s) x = true ∧ x.place = .pool 5 ∧
       ∀ q ∈ (wG s).splits, q.idx ≠ 0 → x ∉ q.buffer) ∧
    (∀ attr ∈ [0, 1], let s := wStored (.global 0x1300040 0x300040 attr 4096) .dev
     s.split? 1 0 = some (wG s, wP s) ∧ keyOf s (s.party (wG s)).tenancy = some 1 ∧ sectorFails s 0x1300040 = false ∧ flitFails s 0x1300040 = false ∧
       ∃ x, (wP s).buffer[0]? = some x ∧ entryReady s (wG s) (wP s) x = true ∧ x.view = 0 ∧ x.scope = .dev ∧
       ∀ q ∈ (wG s).splits, q.idx ≠ 0 → x ∉ q.buffer) :=
  ⟨⟨by decide +kernel, { seq := 0, after := [], place := .pool 5, scope := .blk, bytes := [1, 2, 3, 4], view := 0, held := false }, by decide +kernel⟩,
   fun attr h => by
    have h : attr = 0 ∨ attr = 1 := by simpa using h
    rcases h with rfl | rfl <;> exact ⟨by decide +kernel, by decide +kernel, by decide +kernel, by decide +kernel, _, rfl, by decide +kernel, rfl, rfl, by decide +kernel⟩⟩

/-! ## Witnesses: synchronisation and system instructions -/

/-- A list of splits is calm where each that is found is. -/
theorem calm_of (s : State) (ps : List (Nat × Nat))
    (hn : ps.Nodup) (h : ps.all (fun x => match s.split? x.1 x.2 with | none => true | some y => y.2.abort.isNone && !y.2.trapStep) = true) : Calm s ps := by
  refine ⟨hn, fun x hx g q hq => ?_⟩
  have := List.all_eq_true.mp h x hx
  rw [hq] at this
  simpa using this

/-- Another split of the group, with the given change. -/
def wTwo (s : State) (f : Split → Split) : State := s.mapGroup 1 (fun g =>
  { g with splits := g.splits ++ [f { freshSplit 0x100040 0 0 with idx := 1, active := 0xFFFFFF0F, next := 0x100044, nextSig := 77 }] })

/-- The group's splits, changed. -/
def wFirst (s : State) (f : Split → Split) : State := s.mapGroup 1 (fun g => { g with splits := g.splits.map f })

/-- The other split is parked at barrier `n`. -/
def wBar (n : Nat) : State := wTwo w4 (fun p => { p with st := .bar, park := .barrier n })

/-- The group's second split. -/
def wQ (s : State) : Split := ((wG s).split? 1).getD (freshSplit 0 0 0)

theorem ready_wBar3 : Ready (wBar 3) (wG (wBar 3)) (wP (wBar 3)) := ⟨by decide, by decide, by decide⟩

/-- The fence of an arrival is done, and the state it leaves. -/
def wFenced (s : State) (sc : Scope) : State := (fenceBoth s 1 0 sc).1

/-- The arrival completes barrier 3, whose other live lanes are parked; it clashes with a split at barrier 2; and it is early where the other
split runs. -/
theorem witness_Barriers :
    (Ready (wBar 3) (wG (wBar 3)) (wP (wBar 3)) ∧ (fenceBoth (wBar 3) 1 0 .blk).2 = .done ∧
      (let s1 := wFenced (wBar 3) .blk
       s1.split? 1 0 = some (wG s1, wP s1) ∧ s1.block? 1 = some loadBlock ∧ barrierClash (wG s1) (wP s1) 3 = false ∧
       (let s2 := parkTo (.bar true 3) true .bar (.barrier 3) ((wP s1).pc + 4) s1 (wG s1) (wP s1)
        barrierMet s2 (barrierBlocks s2 loadBlock 3) 3 = true ∧ checkpoints s2 loadBlock = false ∧
        Calm s2 (parkedAt (groupsOfAll s2 (barrierBlocks s2 loadBlock 3)) 3)))) ∧
    (let s1 := wFenced (wBar 2) .blk
     s1.split? 1 0 = some (wG s1, wP s1) ∧ barrierClash (wG s1) (wP s1) 3 = true) ∧
    (let s1 := wFenced (wTwo w4 id) .blk
     let s2 := parkTo (.bar true 3) true .bar (.barrier 3) ((wP s1).pc + 4) s1 (wG s1) (wP s1)
     barrierClash (wG s1) (wP s1) 3 = false ∧ barrierMet s2 (barrierBlocks s2 loadBlock 3) 3 = false) ∧
    inRival w4 (wG w4) = false ∧ w4.modeOf loadBlock = 0 :=
  ⟨⟨ready_wBar3, by decide +kernel, by decide +kernel, by decide +kernel, by decide +kernel, by decide +kernel, by decide +kernel,
    calm_of _ _ (by decide +kernel) (by decide +kernel)⟩, by decide +kernel, by decide +kernel, by decide +kernel, by decide +kernel⟩

/-- A block of an atomic kernel, in its view. -/
def wAtomic (s : State) : State :=
  { s with
    fe := { s.fe with launches := [{ loadLaunch with kernel := { loadKernel with mode := 2 } }], blocks := [{ loadBlock with view := 5 }] }
    mm := { s.mm with views := [{ id := 5, parent := 0, depth := 1, kind := .block, outbox := [], commit := none }] } }

def wCommit1 : State := wFenced (wAtomic (wBar 17)) .blk
def wCommit2 : State := parkTo (.vcommit true) true .bar (.barrier 17) ((wP wCommit1).pc + 4) wCommit1 (wG wCommit1) (wP wCommit1)
def wCommit3 : State := (verifyView wCommit2 { loadBlock with view := 5 } 5).1
def wCommit4 : State × Bool :=
  advanceCommit ((commitStore wCommit3 { loadBlock with view := 5 } 5 0).mapBlock 1 (fun x => { x with committed := true })) { loadBlock with view := 5 } 5

/-- The commit of an atomic block of one group, of an empty view. -/
theorem witness_Barriers_commit :
    (fenceBoth (wAtomic (wBar 17)) 1 0 .blk).2 = .done ∧ barrierClash (wG wCommit1) (wP wCommit1) 17 = false ∧
    barrierMet wCommit2 [{ loadBlock with view := 5 }] 17 = true ∧ checkpoints wCommit2 { loadBlock with view := 5 } = false ∧
    (wCommit2.view? 5).bind (·.commit) = none ∧ enginesIdle wCommit2 { loadBlock with view := 5 } = true ∧
    (verifyView wCommit2 { loadBlock with view := 5 } 5).2 = .ready ∧ wCommit4.2 = true ∧
    (wCommit4.1.block? 1).map (·.committed) = some true ∧ Calm wCommit4.1 (parkedAt (groupsOfAll wCommit2 [{ loadBlock with view := 5 }]) 17) :=
  ⟨by decide +kernel, by decide +kernel, by decide +kernel, by decide +kernel, by decide +kernel, by decide +kernel, by decide +kernel, by decide +kernel,
   by decide +kernel, calm_of _ _ (by decide +kernel) (by decide +kernel)⟩

/-- A barrier object at local address 0x400. -/
def wKey : Nat := (keyAt w4 loadBlock 0x400).getD 0
def wObject (o : Barrier) : State := writeBarrier w4 wKey o

def oOne : Barrier := { bytes := 0, arrive := 1, phase := 5, expect := 4, flags := 1, waiters := 0 }

theorem atObject_of (o : Barrier) (h : localTrap (wObject o) loadBlock true 16 [(4, 0x400)] = none ∧ ownAt (wObject o) loadBlock 0x400 = some (wObject o) ∧
    keyAt (wObject o) loadBlock 0x400 = some wKey ∧ pinned (wObject o) (.pool wKey) 16 = false ∧
    linesToClean (wObject o) ((wObject o).party (wG (wObject o))) .clu = [] ∧ (wObject o).block? (wG (wObject o)).bid = some loadBlock ∧
    lowest (wP (wObject o)).active = 4 ∧ (wG (wObject o)).pending = [] ∧ ∀ q ∈ (wG (wObject o)).splits, q.buffer = []) :
    AtObject (wObject o) (wG (wObject o)) (wP (wObject o)) 0x400 wKey loadBlock :=
  ⟨h.2.2.2.2.2.1, by rw [h.2.2.2.2.2.2.1]; exact h.1, h.2.1, h.2.2.1, ⟨h.2.2.2.2.2.2.2.1, h.2.2.2.2.2.2.2.2⟩, h.2.2.2.1, h.2.2.2.2.1⟩

theorem ready_wObject : Ready (wObject oOne) (wG (wObject oOne)) (wP (wObject oOne)) := ⟨by decide, by decide, by decide⟩

/-- An object with one arrival due and no byte: a usable one that no one waits on, one with more due, and one that is not usable; counts at
their ends; phases that have and have not passed. -/
theorem witness_BarrierObjects :
    (Ready (wObject oOne) (wG (wObject oOne)) (wP (wObject oOne)) ∧ srcVal (wG (wObject oOne)) (.reg 98) 4 = 0x400 ∧
      AtObject (wObject oOne) (wG (wObject oOne)) (wP (wObject oOne)) 0x400 wKey loadBlock ∧ readBarrier (wObject oOne) wKey = oOne ∧
      oOne.usable = true ∧ objectWaiters (wObject oOne) wKey = [] ∧ (0 < 1 ∧ 65535 ≤ 65535 ∧ oOne.waiters = 0) ∧
      Calm (wObject oOne) ((objectWaiters (wObject oOne) wKey).map (fun w => (w.1, w.2.1.idx)))) ∧
    (AtObject (wObject { oOne with arrive := 2, waiters := 3 }) (wG (wObject { oOne with arrive := 2, waiters := 3 }))
      (wP (wObject { oOne with arrive := 2, waiters := 3 })) 0x400 wKey loadBlock ∧
      readBarrier (wObject { oOne with arrive := 2, waiters := 3 }) wKey = { oOne with arrive := 2, waiters := 3 }) ∧
    (AtObject (wObject { oOne with flags := 3 }) (wG (wObject { oOne with flags := 3 })) (wP (wObject { oOne with flags := 3 })) 0x400 wKey loadBlock ∧
      (readBarrier (wObject { oOne with flags := 3 }) wKey).usable = false) ∧
    uniDstOk (wG w4) 110 = true ∧ (srcOk (wG w4) (.lit 65536) && srcOk (wG w4) (.reg 98) && srcOk (wG w4) (.reg 126)) = true :=
  ⟨⟨ready_wObject, by decide +kernel, atObject_of _ (by decide +kernel), by decide +kernel, by decide +kernel, by decide +kernel, by decide,
    calm_of _ _ (by decide +kernel) (by decide +kernel)⟩, ⟨atObject_of _ (by decide +kernel), by decide +kernel⟩, ⟨atObject_of _ (by decide +kernel), by decide +kernel⟩,
   by decide⟩

theorem witness_Fences :
    (Ready w4 (wG w4) (wP w4) ∧ loadsPerformed (wG w4) (wP w4) = true ∧ bufferOf (wG w4) (wP w4) = [] ∧ coveredError (wP w4) .sys = none ∧
      linesToClean w4 (w4.party (wG w4)) .sys = [] ∧ homeward w4 (w4.party (wG w4)) .sys = [] ∧ (wP w4).gwct ≤ w4.clock) ∧
    (releaseAt w4 1 0 .dev).2 = .done ∧ (releaseAt w4 1 0 .dev).1.split? 1 0 = some (wG w4, wP w4) := ⟨⟨ready_w4, by decide +kernel⟩, by decide +kernel⟩

/-- The core has no room: 21 groups of 96 registers. -/
def wCrowd : State :=
  { w4 with fe := { w4.fe with groups := w4.fe.groups ++ (List.range 21).map (fun k => freshGroup (60 + k) 1 (k + 1) 96 0 0 0 0 0 0 0) } }

/-- A group of the core is evicted, and another, lower than the group that asks, waits for what it frees. -/
def wEvictedHere : State :=
  { w4 with fe := { w4.fe with
      blocks := [{ loadBlock with evict := [3] }]
      groups := (w4.fe.groups.map (fun g => { g with index := 5 })) ++ [freshGroup 60 1 3 8 0 0 0 0 0 0 0,
        { freshGroup 61 1 1 8 0 0 0 0 0 0 0 with splits := [{ freshSplit 0 0 0 with st := .regreq }] }] } }

/-- The group has 16 registers: counts at the ends and beside them; a request with room, and one without; a release of 8. -/
theorem witness_RegisterCounts :
    (Ready w4 (wG w4) (wP w4) ∧ countOk 0 = false ∧ countOk 12 = false ∧ countOk 104 = false ∧ countOk 8 = true ∧ countOk 96 = true ∧ (wG w4).count = 16 ∧
      (wG w4).req ≤ 96 ∧ (∀ q ∈ (wG w4).splits, q.idx ≠ (wP w4).idx → q.st ≠ .regreq) ∧ 96 - 16 ≤ freeRegs w4 (w4.party (wG w4)).cluster (w4.party (wG w4)).core ∧
      evictedHere w4 (w4.party (wG w4)).cluster (w4.party (wG w4)).core = false ∧ inDeadlock w4 (w4.party (wG w4)).cluster (w4.party (wG w4)).core = false ∧ ∀ q ∈ (wG w4).splits, q.outst &&& regRange 8 (16 - 8) = 0) ∧
    (Ready wCrowd (wG wCrowd) (wP wCrowd) ∧ freeRegs wCrowd (wCrowd.party (wG wCrowd)).cluster (wCrowd.party (wG wCrowd)).core < 96 - 16) ∧
    (let s := wEvictedHere
     Ready s (wG s) (wP s) ∧ evictedHere s (s.party (wG s)).cluster (s.party (wG s)).core = true ∧
      (let s2 := parkTo (.regreq false 96) false .regreq .none ((wP s).pc + 4) s { wG s with req := 96 }
         { wP s with outst := (wP s).outst ||| regRange 16 80 }
       (lowestRequester s2 (coreGroups s2 (s.party (wG s)).cluster (s.party (wG s)).core)).all (fun x => x.gid == (wG s).gid) = false)) :=
  ⟨⟨ready_w4, by decide +kernel⟩, ⟨⟨by decide +kernel, by decide, by decide⟩, by decide +kernel⟩, ⟨by decide +kernel, by decide +kernel, by decide +kernel⟩,
   by decide +kernel⟩

/-- The rounding mode's last value and the next; SIG equal to the source, and not. -/
theorem witness_FormatSignature : Ready w4 (wG w4) (wP w4) ∧ srcOk (wG w4) (.lit 4) = true ∧ setFmt (wP w4).fmt .rm 4 = some 4 ∧
    setFmt (wP w4).fmt .rm 5 = none ∧ (wP w4).sig = srcVal (wG w4) (.reg 126) 4 ∧ (wP w4).sig ≠ srcVal (wG w4) (.lit 1) 4 ∧
    uniDstOk (wG w4) 126 = true ∧ (wG w4).mode = false := ⟨ready_w4, by decide⟩

theorem ready_wSup : Ready (wSup w4) (wG (wSup w4)) (wP (wSup w4)) := ⟨by decide, by decide, by decide⟩

/-- User and supervisor mode; numbers of the map and beside it; registers of one word and of two; legal values and the first that are not. -/
theorem witness_SpecialRegisters :
    Ready w4 (wG w4) (wP w4) ∧ Ready (wSup w4) (wG (wSup w4)) (wP (wSup w4)) ∧ (wG w4).mode = false ∧ (wG (wSup w4)).mode = true ∧
    specialInfo 0x48 = none ∧ specialInfo 0x09 = none ∧ (specialInfo 0x00).map (·.words) = some 1 ∧ (specialInfo 0x18).map (·.words) = some 2 ∧
    (specialInfo 0x30).map (·.user) = some 0 ∧ uniDstOk (wG w4) 125 = true ∧ uniDst64Ok (wG w4) 124 = true ∧ uniDst64Ok (wG w4) 126 = true ∧ uniDst64Ok (wG w4) 125 = false ∧
    fmtOk 4 = true ∧ fmtOk 5 = false ∧ srcOk (wG w4) (.lit 31) = true ∧ (31 : Word).toNat < 32 ∧ 32 ≤ (32 : Word).toNat ∧
    (0x3F : Word) &&& 0xFFFF00C0 = 0 ∧ (0x40 : Word) &&& 0xFFFF00C0 ≠ 0 ∧ (7 : Word).toNat < 8 ∧ 8 ≤ (8 : Word).toNat ∧
    gangOk w4 (wG w4) 1 = true ∧ (1 : DWord) &&& 0xFFFFFFC0000000F8 = 0 ∧ gangOk w4 (wG w4) 2 = false ∧
    src64Ok (wG w4) (.reg 98) = true ∧ (0x400 : DWord).toNat % 256 = 0 ∧ (0x401 : DWord).toNat % 256 ≠ 0 := ⟨ready_w4, ready_wSup, by decide +kernel⟩

/-- The block is under a debugger, at one of its splits' single step or not. -/
def wDebug (one : Bool) : State := { wSplit w4 (fun p => { p with stepOne := one }) with fe := { (wSplit w4 (fun p => { p with stepOne := one })).fe with blocks := [{ loadBlock with debug := true }] } }

/-- Supervisor mode after a trap of split 0, with the given TRAPPC. -/
def wHandler (pc : DWord) : State := w4.mapGroup 1 (fun g => { g with mode := true, trapCause := 0x16, trapPc := pc })

theorem witness_SoftwareTraps :
    (Ready w4 (wG w4) (wP w4) ∧ ((w4.block? (wG w4).bid).map (·.debug)).getD false = false ∧ (wG w4).mode = false) ∧
    (Ready (wDebug true) (wG (wDebug true)) (wP (wDebug true)) ∧ (((wDebug true).block? 1).map (·.debug)).getD false = true ∧ (wP (wDebug true)).stepOne = true) ∧
    (Ready (wDebug false) (wG (wDebug false)) (wP (wDebug false)) ∧ (((wDebug false).block? 1).map (·.debug)).getD false = true ∧
      (wP (wDebug false)).stepOne = false) ∧
    (Ready (wHandler 0x100004) (wG (wHandler 0x100004)) (wP (wHandler 0x100004)) ∧ (wG (wHandler 0x100004)).mode = true ∧
      (wG (wHandler 0x100004)).trapCause.toNat % 64 ≠ 0x19 ∧ (wG (wHandler 0x100004)).trapPc.toNat % 4 = 0 ∧
      (wG (wHandler 0x100004)).trapCause.toNat / 256 % 4 = (wP (wHandler 0x100004)).idx ∧ (wP (wHandler 0x100004)).keptAbort = none ∧
      ∀ q ∈ (wG (wHandler 0x100004)).splits, q.st ≠ .ebb) ∧
    (let s := wTwo (wHandler 0x100004) (fun p => { p with st := .ebb, frozen := true })
     Ready s (wG s) (wP s) ∧ (wG s).mode = true ∧ (∀ q ∈ (wG s).splits, q.st = .ebb → q.outst = 0 → q.abort = none ∧ q.stepDue = false) ∧
      (wQ s).st = .ebb ∧ (wQ s).outst = 0) ∧
    (Ready (wHandler 0x100002) (wG (wHandler 0x100002)) (wP (wHandler 0x100002)) ∧ (wG (wHandler 0x100002)).trapPc.toNat % 4 ≠ 0) :=
  ⟨⟨ready_w4, by decide⟩, ⟨⟨by decide, by decide, by decide⟩, by decide⟩, ⟨⟨by decide, by decide, by decide⟩, by decide⟩,
   ⟨⟨by decide, by decide, by decide⟩, by decide⟩, ⟨⟨by decide, by decide, by decide⟩, by decide⟩, ⟨by decide, by decide, by decide⟩, by decide⟩

/-- A second split, parked. -/
def wParked (pk : Park) : State := wTwo w4 (fun p => { p with park := pk, st := .wait })

def wWait1 : State := (checkAll w4 (w4.party (wG w4)) .load true false 8 [(4, 0x300000)]).1
def wWait2 : State := settleCopies wWait1 (w4.party (wG w4)) 0x1300000

/-- SLEEP of 0 and of more; WAIT on a word that is 0, against 0 and against 1; each of the parks that ends, at its last tick. -/
theorem witness_WaitsSleeps :
    (Ready w4 (wG w4) (wP w4) ∧ (srcVal (wG w4) (.reg 126) 4).toNat = 0 ∧ (srcVal (wG w4) (.lit 1) 4).toNat ≠ 0) ∧
    ((srcOk (wG w4) (.reg 126) && baseOk (wG w4) (.reg 96) && src64Ok (wG w4) (.lit 1)) = true ∧
      (∃ s1, FindsAll w4 (wP w4) (w4.party (wG w4)) .load true false 8 [(4, 0x300000)] s1 (wOks [(4, 0x300000)])) ∧ NothingOlder (wG w4) ∧
      NothingHolds wWait1 (w4.party (wG w4)) 0x1300000 8 ∧ AtHome wWait1 (w4.party (wG w4)) 0x1300000 8 1 ∧ wWait2.split? 1 0 = some (wG w4, wP w4) ∧
      homeSees wWait2 (wWait2.party (wG w4)) 0x1300000 8 = some (List.replicate 8 0) ∧ List.replicate 8 0 ≠ wholeData (wG w4) (wP w4) (.lit 1) true ∧
      List.replicate 8 0 = wholeData (wG w4) (wP w4) (.reg 126) true) ∧
    (let s := wParked (.sleep 0)
     s.split? 1 1 = some (wG s, wQ s) ∧ (wQ s).abort = none ∧ (wQ s).trapStep = false ∧ (wQ s).park = .sleep 0 ∧ 0 ≤ s.clock) ∧
    (let s := wParked (.word 0x4C000 true none)
     s.split? 1 1 = some (wG s, wQ s) ∧ (wQ s).abort = none ∧ (wQ s).park = .word 0x4C000 true none) ∧
    (let s := wParked (.word 0x4C000 false (some 0))
     s.split? 1 1 = some (wG s, wQ s) ∧ (wQ s).abort = none ∧ (wQ s).park = .word 0x4C000 false (some 0) ∧ 0 ≤ s.clock) :=
  ⟨⟨ready_w4, by decide⟩, ⟨by decide, ⟨_, finds_of (by decide) (by decide +kernel) (by decide +kernel)⟩, ⟨by decide, by decide⟩, by unfold NothingHolds; decide +kernel,
    atHome_of (by decide +kernel) (by decide +kernel) (by decide +kernel) (by decide +kernel) (by decide +kernel),
    by decide +kernel, by decide +kernel, by decide +kernel, by decide +kernel⟩, by decide, by decide, by decide⟩

/-- A queue with an event ring, the front end's translations, and a child's packet in memory. -/
def wPacket : List Byte := [1, 1, 0, 0, 0, 0, 0, 0, 0, 0, 0, 0, 0, 0, 0, 0, 0x00, 0x10, 0, 0, 0, 0, 0, 0, 2, 0, 0, 0] ++ List.replicate 36 0
def wQueued : State :=
  dramWrite { w4 with
    fe := { w4.fe with queues := [{ Queue.atReset 0 with assigned := true, asid := 1, tenancy := 1, part := 0, evBase := 0x300800, evSize := 64,
                                                          enable := true, base := 0x301000, size := 4096 }]
                       kernels := [{ loadKernel with addr := 0x1000 }] }
    mm := { w4.mm with tlb := w4.mm.tlb ++ w4.mm.tlb.map (fun x => { x with cluster := 96 }) } } 1 0x1300000 wPacket

theorem ready_wQueued : Ready wQueued (wG wQueued) (wP wQueued) := ⟨by decide +kernel, by decide +kernel, by decide +kernel⟩
theorem ready_wAtomic : Ready (wAtomic w4) (wG (wAtomic w4)) (wP (wAtomic w4)) := ⟨by decide, by decide, by decide⟩

def wChild1 : State := (checkAll wQueued (wQueued.party (wG wQueued)) .load true false 64 [(32, 0x300000)]).1

def wChildKernel : Kernel := { loadKernel with addr := 0x1000 }
/-- A child of two blocks. -/
def wChild : Child := { x := 2, y := 1, z := 1, event := false, params := [], posted := false }

/-- The record of a SEND of code 1 and payload 2, posted. -/
def wSent : State × FeEnd :=
  let b := blockD wQueued (wG wQueued)
  postEvent wQueued (wQueued.queueOfBlock b).q (recordBytes 1 2 (((wQueued.launch? b.lid).map (·.seq)).getD 0) b.index.toNat
    ((wG wQueued).index + 32 * (wP wQueued).idx + 128 * b.rival) wQueued.clock)

/-- A view with room, and with 64 operations; outside a view, a child's packet that is sound, read after a release; an event that fits; codes
at the end of the reserved ones. -/
theorem witness_LaunchSend :
    (Ready (wAtomic w4) (wG (wAtomic w4)) (wP (wAtomic w4)) ∧ (blockD (wAtomic w4) (wG (wAtomic w4))).view ≠ 0 ∧ outboxRoom (wAtomic w4) 5 1 = true) ∧
    (Ready wQueued (wG wQueued) (wP wQueued) ∧ (blockD wQueued (wG wQueued)).view = 0 ∧ (baseOk (wG wQueued) (.reg 96) && srcOk (wG wQueued) (.lit 64)) = true ∧
      releaseAt wQueued 1 0 .dev = (wQueued, .done) ∧ releaseAt wQueued 1 0 .sys = (wQueued, .done) ∧
      (∃ s1, FindsAll wQueued (wP wQueued) (wQueued.party (wG wQueued)) .load true false 64 [(32, 0x300000)] s1 (wOks [(32, 0x300000)])) ∧
      (match readPacket wChild1 (wQueued.party (wG wQueued)) (wOks [(32, 0x300000)]) with | .ok bs => decide (bs = wPacket) | .error _ => false) = true ∧
      childOk wChild1 1 64 wPacket = true ∧ childOk wChild1 1 64 (wPacket.set 3 1) = false ∧
      kernelAt wChild1 (wChild1.queueOfBlock (blockD wChild1 (wG wQueued))).tenancy (field wPacket 16 8) = some wChildKernel ∧
      packetDims (some wChildKernel) wPacket = (2, 1, 1) ∧
      (raftJoin wChild1 (wChild1.queueOfBlock (blockD wChild1 (wG wQueued))).q wChildKernel
        (if field wPacket 36 1 = 0 then (wChild1.queueOfBlock (blockD wChild1 (wG wQueued))).prio.toNat else field wPacket 36 1) (field wPacket 37 1)
        { wChild with event := (field wPacket 2 2).testBit 1, params := (wPacket.drop 64).take (field wPacket 37 1) }).split? 1 0 = some (wG wQueued, wP wQueued) ∧
      (match wSent.2 with | .ok _ => true | _ => false) = true ∧ wSent.1.split? 1 0 = some (wG wQueued, wP wQueued)) ∧
    ((0xFFFEFFFF : Word).toNat < 0xFFFF0000 ∧ 0xFFFF0000 ≤ (0xFFFF0000 : Word).toNat ∧ ∀ x, w4.launch? (blockD w4 (wG w4)).lid = some x → x.item = none) :=
  ⟨⟨ready_wAtomic, by decide +kernel⟩,
   ⟨ready_wQueued, by decide +kernel, by decide +kernel, by decide +kernel, by decide +kernel,
    ⟨_, finds_of (by decide +kernel) (by decide +kernel) (by decide +kernel)⟩, by decide +kernel, by decide +kernel, by decide +kernel, by decide +kernel⟩,
   by decide, by decide, fun x h => by cases h; rfl⟩

/-- A window of queue `q` with `n` children of two blocks. -/
def wWindow (q n : Nat) : RaftWindow :=
  { q, kdesc := 0x1000, kernel := wChildKernel, prio := 1, psize := 0, first := 0, children := List.replicate n wChild }

/-- A second window that takes a 255th child, and a 256th; a queue with 15 windows that do not, and one with 16. -/
theorem witness_RaftJoins :
    let fits := fun (w : RaftWindow) => w.q = 0 ∧ w.kdesc = wChildKernel.addr ∧ w.prio = 1 ∧ w.psize = 0 ∧
      (w.children.map (fun x => x.x * x.y * x.z)).sum + wChild.x * wChild.y * wChild.z ≤ 2 ^ 32
    (∀ n ∈ [254, 255], fits (wWindow 0 n) ∧ (∀ y ∈ [wWindow 1 1], ¬ fits y) ∧ wWindow 0 n ∉ [wWindow 1 1, wWindow 0 3] ∧
      { wWindow 0 n with children := (wWindow 0 n).children ++ [wChild] } ∉ [wWindow 1 1, wWindow 0 3]) ∧
    (∀ n ∈ [15, 16], let ws := wWindow 1 1 :: (List.range n).map (fun k => { wWindow 0 (k + 1) with prio := 2 })
      (∀ y ∈ ws, ¬ fits y) ∧ (ws.filter (fun y => y.q == 0)).length = n ∧ (∀ w ∈ ws[1]?, w.q = 0 ∧ (∀ y ∈ ws.take 1, y.q ≠ 0) ∧ w ∉ ws.drop 2)) := by
  decide +kernel

/-- Lanes that live on beside the split; the last lanes of the block; a result outstanding; a save routine. -/
theorem witness_Exits :
    (Ready w4 (wG w4) (wP w4) ∧ w4.block? 1 = some loadBlock ∧ loadBlock.st = .running ∧ loadBlock.evict = [] ∧ loadBlock.forkRec = none) ∧
    (let s := wTwo w4 id
     (wG s).mode = false ∧ (wP s).outst = 0 ∧ echoLeft s (wG s) (wP s) = false ∧ (wP s).depth = 0 ∧ releaseAt s 1 0 .dev = (s, .done) ∧ (wG s).ended = false ∧
     (wP s).active &&& (wG s).live ≠ (wG s).live ∧ (∀ h ∈ s.groupsOf 1, ∀ q ∈ h.splits, q.park = .none) ∧ ∀ q ∈ (wG s).splits, q.st ≠ .join) ∧
    (releaseAt w32 1 0 .dev = (w32, .done) ∧ (wP w32).active = (wG w32).live ∧ (wG w32).splits = [wP w32] ∧ w32.groupsOf 1 = [wG w32] ∧ loadBlock.view = 0 ∧
      w32.en.copies = [] ∧ cohortOthers w32 loadBlock = [] ∧ w32.launch? 1 = some loadLaunch ∧ loadLaunch.item = none) ∧
    ((wP (wSplit w4 (fun p => { p with outst := 2 }))).outst ≠ 0) ∧
    (wG (w4.mapGroup 1 (fun g => { g with mode := true, trapCause := 0x19 }))).trapCause.toNat % 64 = 0x19 :=
  ⟨⟨ready_w4, by decide⟩, by decide +kernel, by decide +kernel, by decide, by decide⟩

/-! ## Witnesses: pools, copies, the matrix engine, views -/

/-- What an instruction leaves. -/
def wAfter (i : Instr) (s : State) : State := match exec i s with | .next t => t | _ => s

/-- Quarters that serve partition 0. -/
def wQuarters (s : State) : State :=
  { s with sys := { s.sys with quarters := (List.range 4).map (fun n => { Quarter.atReset n with part := 0 }) } }
def wE : State := wQuarters w4
theorem ready_wE : Ready wE (wG wE) (wP wE) := ⟨by decide, by decide, by decide⟩

/-- Sizes and lives at their ends; room, none, and a list of 64; an allocation, a place in none, a range's ends, an expired segment. -/
theorem witness_ScratchAllocation :
    (Ready wE (wG wE) (wP wE) ∧ wE.block? 1 = some loadBlock ∧ (uniDstOk (wG wE) 104 && srcOk (wG wE) (.lit 6291456) && srcOk (wG wE) (.lit 60)) = true ∧
      inRival wE (wG wE) = false ∧ ownedCount wE loadBlock false < 64 ∧ allocPlaces wE loadBlock false 512 ≠ [] ∧
      (0 : Nat) < 1 ∧ 6291456 ≤ 6291456 ∧ 6291456 < 6291457 ∧ 60 ≤ 60 ∧ 60 < 61) ∧
    allocPlaces { wE with mm := { wE.mm with pools := (List.range 16).map (fun n => { Pool.atReset 0 n with mode := .cache }) } } loadBlock false 512 = [] ∧
    64 ≤ ownedCount { w4 with mm := { w4.mm with allocs := (List.range 64).map (fun k => { cohortOwned := false, owner := 1, cluster := 0, base := 512 * k, size := 512, life := 1, segs := [k] }) } } loadBlock false ∧
    (∃ x, w4.mm.allocs.find? (fun x => mine loadBlock x && x.cohortOwned == false && x.base == 0x400) = some x ∧
      copyNames w4 ((ownerGroups w4 loadBlock false).map (·.bid)) x = false ∧ waitersIn (ownerGroups w4 loadBlock false) x = false ∧
      accessesLeft (ownerGroups w4 loadBlock false) x = false ∧ locate w4 loadBlock 0x400 = some (x, 0) ∧ locate w4 loadBlock 0x7FF = some (x, 1023) ∧
      (renewSegs 0 1024).find? (fun k => expired w4 x (512 * k)) = none ∧ ownAll w4 loadBlock 0x400 (renewSegs 0 1024) = (w4, none) ∧
      x.size = 1024 ∧
      ((renewSegs 0 1024).find? (fun k => expired { w4 with mm := { w4.mm with segAge := [(6, 4096 * ageMicro)] } } x (512 * k))).isSome = true) ∧
    w4.mm.allocs.find? (fun x => mine loadBlock x && x.cohortOwned == false && x.base == 0x401) = none ∧ locate w4 loadBlock 0x800 = none :=
  ⟨⟨ready_wE, by decide +kernel⟩, by decide +kernel, by decide +kernel,
   ⟨{ cohortOwned := false, owner := 1, cluster := 0, base := 0x400, size := 0x400, life := 4096, segs := [5, 6] }, by decide +kernel⟩,
   by decide +kernel, by decide +kernel⟩

theorem ready_wSupE : Ready (wSup wE) (wG (wSup wE)) (wP (wSup wE)) := ⟨by decide, by decide, by decide⟩

/-- Pools 63 and 64; mode words that R188 allows and does not; a pool in use, one that is not, and one of another partition's quarter. -/
theorem witness_PoolConfiguration :
    (Ready wE (wG wE) (wP wE) ∧ (wG wE).mode = false) ∧
    (Ready (wSup wE) (wG (wSup wE)) (wP (wSup wE)) ∧ (wSup wE).block? 1 = some loadBlock ∧ (wG (wSup wE)).mode = true ∧ poolWordOk 0 = true ∧
      poolWordOk 1 = true ∧ poolWordOk 0x1452 = true ∧ poolWordOk 3 = false ∧ 63 < 64 ∧ 63 ≤ 63 ∧
      ((wSup wE).quarter (4 * loadBlock.cluster + 3 / 16)).serves = ((wSup wE).partyOf loadBlock).part ∧
      ((wSup wE).pool 0 1).mode = .fifo ∧ ((wSup wE).pool 0 1).holder.isSome = true ∧ ((wSup wE).pool 0 3).mode = .scratch ∧
      (∀ y ∈ keptAllocs (wSup wE), ∀ k ∈ y.segs, ¬ (k / 65536 = 0 ∧ k % 65536 / 768 = 3)) ∧
      (∃ y ∈ keptAllocs (wSup wE), ∃ k ∈ y.segs, k / 65536 = 0 ∧ k % 65536 / 768 = 0) ∧ (wSup wE).mm.l2 = []) ∧
    ((wSup w4).quarter 0).serves ≠ ((wSup w4).partyOf loadBlock).part :=
  ⟨⟨ready_wE, by decide⟩, ⟨ready_wSupE, by decide +kernel⟩, by decide +kernel⟩

/-- A copy request at 0x480, and a usable object at 0x500. -/
def wBytes (s : State) (la : Nat) (bs : List Byte) : State :=
  { s with mm := { s.mm with scratch := ssetMany s.mm.scratch ((keyAt s loadBlock la).getD 0) bs } }
def wRequest : List Byte :=
  leBytes 0x300000 6 ++ [0, 0] ++ leBytes 0x600 6 ++ leBytes 2 2 ++ leBytes 64 4 ++ leBytes 32 4 ++ leBytes (2 ^ 29) 4 ++ leBytes 0x500 4
def wUsable : List Byte := leBytes 64 4 ++ leBytes 1 2 ++ leBytes 0 2 ++ leBytes 1 2 ++ leBytes 1 2 ++ leBytes 0 4
def wKick : State := wBytes (wBytes wE 0x480 wRequest) 0x500 wUsable
theorem ready_wKick : Ready wKick (wG wKick) (wP wKick) := ⟨by decide, by decide, by decide⟩

def wCopy : CopyReq :=
  { id := 9, cluster := 0, core := 0, bid := 1, asid := 1, view := 0, src := 0x300000, dst := 0x600, rows := 2, sstride := 64, dstride := 32,
    rowBytes := 32, cruise := 0, slocal := false, dlocal := true, bar := 0x500, done := [], met := [], failed := [] }

/-- A request that is sound, its object usable; an object that is not; a request that is not sound; 16 requests of the core; a bad address. -/
theorem witness_CopyRequests :
    (Ready wKick (wG wKick) (wP wKick) ∧ wKick.block? 1 = some loadBlock ∧ srcOk (wG wKick) (.lit 0x480) = true ∧ inRival wKick (wG wKick) = false ∧
      releaseAt wKick 1 0 .clu = (wKick, .done) ∧ localTrap wKick loadBlock true 32 [(4, 0x480)] = none ∧
      (keyAt wKick loadBlock 0x480).isSome = true ∧ sgetMany wKick.mm.scratch ((keyAt wKick loadBlock 0x480).getD 0) 32 = wRequest ∧
      copyOk wRequest { wCopy with id := wKick.nextId } = true ∧ localTrap wKick loadBlock true 16 [(4, 0x500)] = none ∧
      (readBarrier wKick ((keyAt wKick loadBlock 0x500).getD 0)).usable = true ∧ coreCopies wKick loadBlock < 16) ∧
    (readBarrier wE ((keyAt wE loadBlock 0x500).getD 0)).usable = false ∧ copyOk wRequest { wCopy with rows := 0 } = false ∧
    16 ≤ coreCopies { wE with en := { wE.en with copies := List.replicate 16 wCopy } } loadBlock ∧
    (localTrap wKick loadBlock true 32 [(4, 0x7F0)]).isSome = true := ⟨⟨ready_wKick, by decide +kernel⟩, by decide +kernel⟩

/-- A tag, bound to the block; a machine with it. -/
def wTag (st : TagState) : Tag := { Tag.atReset 0 2 with st, owner := 1, bank := [(0, 1), (5 * 128 + 33, 7)], flags := 3 }
def wTagged (x : Tag) : State :=
  let s := wQuarters w32
  { s with en := { s.en with tags := [x] } }.mapGroup 1 (fun g =>
    { g with s := [(0, 0x300000), (2, 0x40003), (3, 16), (4, 0x300100), (6, 0x50004), (7, 20), (8, 0x400), (10, 0x50003), (11, 0x10000014)] })

theorem ready_wTagged : Ready (wTagged (wTag .bound)) (wG (wTagged (wTag .bound))) (wP (wTagged (wTag .bound))) := ⟨by decide, by decide, by decide⟩

theorem hasTag_wTagged : HasTag (wTagged (wTag .bound)) (wG (wTagged (wTag .bound))) 2 loadBlock (wTag .bound) := ⟨by decide, by decide⟩

/-- The issuing split has begun a wait for waves. -/
def wPhase (s : State) : State := wSplit s (fun p => { p with phase := 1 })
def wOneWave : Wave := { k := 0, last := false, void := none, a := [], b := [] }
def wFlying : Tag := { wTag .bound with inflight := [wOneWave] }

theorem ready_wFlying : Ready (wTagged wFlying) (wG (wTagged wFlying)) (wP (wTagged wFlying)) := ⟨by decide, by decide, by decide⟩
theorem ready_wPhase : Ready (wPhase (wTagged wFlying)) (wG (wPhase (wTagged wFlying))) (wP (wPhase (wTagged wFlying))) := ⟨by decide, by decide, by decide⟩

/-- Waves in flight, before and while TAGFREE and MFREEZE wait for them, and none left; a tag that TAGFREE has begun to free; a void record with all
waves ended, and with some in flight. -/
theorem witness_MatrixTags_waits :
    (ownTag (wTagged wFlying) loadBlock 2 = some wFlying ∧ wFlying.inflight ≠ [] ∧ (wP (wTagged wFlying)).phase ≠ 1 ∧ wFlying.st = .bound ∧ drained wFlying = false) ∧
    ((wP (wPhase (wTagged wFlying))).phase = 1 ∧ ownTag (wPhase (wTagged wFlying)) loadBlock 2 = some wFlying ∧
      (wP (wPhase (wTagged (wTag .bound)))).phase = 1 ∧ ownTag (wPhase (wTagged (wTag .bound))) loadBlock 2 = some (wTag .bound) ∧ drained (wTag .bound) = true) ∧
    ((let y := (wPhase (wTagged { wFlying with st := .killing })).tag loadBlock.cluster (physTag loadBlock.core 2)
      y.st = .killing ∧ y.owner = loadBlock.bid) ∧
     (let y := (wPhase wE).tag loadBlock.cluster (physTag loadBlock.core 2)
      y.st ≠ .killing ∨ y.owner ≠ loadBlock.bid)) ∧
    (let x := { wTag .frozen with void := true }
     ownTag (wTagged x) loadBlock 2 = some x ∧ x.void = true ∧ allEnded x = true ∧ x.st = .frozen) ∧
    (let x := { wFlying with void := true }
     ownTag (wTagged x) loadBlock 2 = some x ∧ x.void = true ∧ allEnded x = false) ∧
    (let s := wSup (wTagged wFlying)
     s.tag 0 (primaryTag s 0 2) = wFlying ∧ tagUsers s wFlying.owner = [] ∧ wFlying.inflight ≠ []) := by decide +kernel

/-- Gangs that name the group, and another; tags free and bound; formats that pair and that do not; a void record. -/
theorem witness_MatrixTags :
    (Ready wE (wG wE) (wP wE) ∧ wE.block? 1 = some loadBlock ∧ src64Ok (wG wE) (.lit 1) = true ∧ gangOk wE (wG wE) 1 = true ∧
      (wG wE).index ∈ gangMembers 1 ∧ gangOk wE (wG wE) 2 = false ∧ (∀ q ∈ quadsOf .h 0, (wE.tag 0 (8 * q + 2)).st = .free) ∧
      (∀ q ∈ quadsOf .h 0, (wE.quarter q).serves = (wE.partyOf loadBlock).part) ∧ pairOk 0 0 0 = true ∧ pairOk 8 0 0 = false ∧
      inRival wE (wG wE) = false ∧ 7 ≤ 7 ∧ (wP wE).phase ≠ 1) ∧
    (Ready (wTagged (wTag .bound)) (wG (wTagged (wTag .bound))) (wP (wTagged (wTag .bound))) ∧
      ownTag (wTagged (wTag .bound)) loadBlock 2 = some (wTag .bound) ∧ ownTag (wTagged (wTag .bound)) loadBlock 3 = none ∧
      (wTag .bound).inflight = [] ∧ drained (wTag .bound) = true ∧ (∃ q ∈ quadsOf .q 0, ((wTagged (wTag .bound)).tag 0 (8 * q + 2)).st ≠ .free)) ∧
    (let s := wSup (wTagged (wTag .bound))
     (wG s).mode = true ∧ (s.tag 0 (primaryTag s 0 2)).st = .bound ∧ (s.tag 0 (primaryTag s 0 3)).st = .free ∧ atLatch s 1 = [] ∧
     (s.quarter 0).serves = (s.partyOf loadBlock).part) ∧
    ((w4.quarter 0).serves ≠ (w4.partyOf loadBlock).part) ∧ (29 : BitVec 5).toNat < 30 ∧
    (let x := { wTag .frozen with void := true, vcount := 2 }
     ownTag (wTagged x) loadBlock 2 = some x ∧ waited x = true) :=
  ⟨⟨ready_wE, by decide +kernel⟩, ⟨ready_wTagged, by decide +kernel⟩, by decide +kernel⟩

/-- The group's gang has two members; the other is group 1. -/
def wGang2 : State :=
  let s := (wTagged (wTag .bound)).mapGroup 1 (fun g => { g with gang := 0x2002 })
  { s with fe := { s.fe with groups := s.fe.groups ++ [{ freshGroup 2 1 1 8 0 0 0 0 0 0 0 with gang := 0x2002 }] } }

/-- Records that fit, of a 3 by 4 and a 4 by 5 tile, and that do not; a queue of four; a gang of another group, one of two with a member yet to
come; a field that is no multiple of 4. -/
theorem witness_MatrixMultiply :
    (Ready (wTagged (wTag .bound)) (wG (wTagged (wTag .bound))) (wP (wTagged (wTag .bound))) ∧ (wTagged (wTag .bound)).block? 1 = some loadBlock ∧
      (0 : BitVec 5).toNat % 4 = 0 ∧ (24 : BitVec 5).toNat ≤ 24 ∧ (1 : BitVec 5).toNat % 4 ≠ 0 ∧ 24 < (28 : BitVec 5).toNat ∧
      inRival (wTagged (wTag .bound)) (wG (wTagged (wTag .bound))) = false ∧ (wG (wTagged (wTag .bound))).gang.toNat % 8 < 2 ∧
      ownTag (wTagged (wTag .bound)) loadBlock 2 = some (wTag .bound) ∧ ownTag (wTagged (wTag .bound)) loadBlock 1 = none ∧
      (wG (wTagged (wTag .bound))).index ∈ gangMembers (wG (wTagged (wTag .bound))).gang ∧
      (wP (wTagged (wTag .bound))).active = (wG (wTagged (wTag .bound))).live ∧
      mmaShape (wTag .bound) (tileRec (wG (wTagged (wTag .bound))) 0) (tileRec (wG (wTagged (wTag .bound))) 4) = true ∧
      mmaShape (wTag .bound) (tileRec (wG (wTagged (wTag .bound))) 4) (tileRec (wG (wTagged (wTag .bound))) 0) = false ∧
      releaseAt (wTagged (wTag .bound)) 1 0 .clu = (wTagged (wTag .bound), .done) ∧ (wTag .bound).queue.length < 4 ∧
      (((wTagged (wTag .bound)).context? 1).map (·.mcruise)).getD 0 = 0) ∧
    ((wG wGang2).gang.toNat % 8 = 2 ∧ gangArrives wGang2 (wG wGang2) (wP wGang2) (encodeWord (.mma false 2 0 4)) = true ∧ atLatch wGang2 1 = [] ∧
      (∃ h ∈ wGang2.groupsOf 1, h.index ∈ gangMembers (wG wGang2).gang ∧ h.alive = true ∧ h.gid ≠ 1) ∧
      gangArrives wGang2 (wG wGang2) { wP wGang2 with active := 1 } (encodeWord (.mma false 2 0 4)) = false) :=
  ⟨⟨ready_wTagged, by decide +kernel⟩, by decide +kernel⟩

/-- The other member of the gang waits at the latch with the same word. -/
def wArrived : State := wGang2.mapGroup 2 (fun g =>
  { g with splits := g.splits.map (fun q => { q with st := .bar, park := .latch (encodeWord (.mma true 2 0 4)), next := 0x100044 }) })
def wLatched : State := parkTo (.mma true 2 0 4) true .bar (.latch (encodeWord (.mma true 2 0 4))) ((wP wArrived).pc + 4) wArrived (wG wArrived) (wP wArrived)

theorem ready_wArrived : Ready wArrived (wG wArrived) (wP wArrived) := ⟨by decide, by decide, by decide⟩

/-- The last member of a gang of two arrives: the releases are done, the tag has room, and the records of the gang's first member fit. -/
theorem witness_MatrixMultiply_gang :
    Ready wArrived (wG wArrived) (wP wArrived) ∧ wArrived.block? 1 = some loadBlock ∧ inRival wArrived (wG wArrived) = false ∧ ¬ (wG wArrived).gang.toNat % 8 < 2 ∧
    gangArrives wArrived (wG wArrived) (wP wArrived) (encodeWord (.mma true 2 0 4)) = true ∧
    (let ms := atLatch wLatched 1
     ms.length = 2 ∧ (∀ m ∈ ms, m.2.2 = encodeWord (.mma true 2 0 4) ∧ m.1.index < 32 ∧
        (∀ y ∈ ms, sameGang (gangMembers m.1.gang) (gangMembers y.1.gang) = true) ∧
        ∀ h ∈ wLatched.groupsOf 1, h.index ∈ gangMembers m.1.gang → h.alive = true → ∃ y ∈ ms, y.1.gid = h.gid) ∧
      (∀ m ∈ ms, releaseAt wLatched m.1.gid m.2.1.idx .clu = (wLatched, .done)) ∧
      (∀ m0 ∈ ms.take 1, let lead := ((wLatched.groupsOf 1).find? (fun h => h.index == ((gangMembers m0.1.gang).headD 0))).getD m0.1
        mmaShape (wTag .bound) (tileRec lead 0) (tileRec lead 4) = true) ∧
      Calm wLatched (ms.map (fun m => (m.1.gid, m.2.1.idx)))) ∧
    ownTag wLatched loadBlock 2 = some (wTag .bound) ∧ (wTag .bound).queue.length < 4 ∧
    (((wArrived.context? (wArrived.partyOf loadBlock).asid).map (·.mcruise)).getD 0 = 0) ∧
    (let m : Mma := { no := 9, a := tileRec (wG wArrived) 0, b := tileRec (wG wArrived) 4, asid := 1, view := 0, bid := 1, latchK := 0, admitK := 0,
                      voided := [], met := [], failed := [], opened := 0 }
     m.admitK = 0 ∧ m.voided = [] ∧ 32 * 0 < m.a.cols ∧ 0 < m.a.rows) :=
  ⟨ready_wArrived, by decide +kernel, by decide +kernel, by decide +kernel, by decide +kernel,
   ⟨by decide +kernel, by decide +kernel, by decide +kernel, by decide +kernel, calm_of _ _ (by decide +kernel) (by decide +kernel)⟩, by decide +kernel⟩

/-- A tag with no wave left; rows 0 and 63 of a gang of one; a register run that fits the 16 registers, and one that does not; a local tile. -/
theorem witness_MatrixAccumulators :
    Ready (wTagged (wTag .bound)) (wG (wTagged (wTag .bound))) (wP (wTagged (wTag .bound))) ∧
    HasTag (wTagged (wTag .bound)) (wG (wTagged (wTag .bound))) (2 : BitVec 5).toNat loadBlock (wTag .bound) ∧ waited (wTag .bound) = true ∧
    (let s := wTagged (wTag .bound)
     inRival s (wG s) = false ∧ regExists (wG s) 14 = true ∧ accRow (wG s) 0 = some 0 ∧ accRow (wG s) 63 = some 63 ∧ accRow (wG wGang2) 63 = some 126 ∧
     accRow { wG s with gang := 0x101 } 0 = none ∧ 14 + accRegs (wTag .bound) ≤ min 96 (wG s).count ∧ min 96 (wG s).count < 15 + accRegs (wTag .bound) ∧
     faultsLeft s (wG s) (wP s) = false ∧ inRoutine (wG s) = false ∧ (wTag .bound).void = false ∧ fmtNarrow (wP s) = 0 ∧ (wTag .bound).acc = 0 ∧
     (wP s).st ≠ .fault ∧
     (let r := tileRec (wG s) 8
      tileOk r 9 = true ∧ r.rows ≤ bankRows (wTag .bound).fuse ∧ r.cols ≤ bankCols (wTag .bound).fuse ∧ r.isLocal = true ∧ r.outpair = 0 ∧ r.fmt = 0 ∧
      localTrap s loadBlock false 1 ((tilePieces r).mapIdx (fun n y => (64 + n, y.2.1))) = none ∧
      ownLanes s loadBlock ((tilePieces r).mapIdx (fun n y => (64 + n, y.2.1))) = (s, []) ∧
      (localTrap s loadBlock false 1 ((tilePieces { r with base := 0x7F8 }).mapIdx (fun n y => (64 + n, y.2.1)))).isSome = true) ∧
     tileOk (tileRec (wG s) 12) 9 = false) := ⟨ready_wTagged, hasTag_wTagged, by decide +kernel⟩

/-- A block of three rivals: after FORK, both clones placed. -/
def wCores (s : State) : State :=
  { s with sys := { s.sys with latches := (List.range 4).map (fun c => { core := c, latch := 1, next := 0xFF, lpend := false, again := false })
                               parts := [{ Partition.atReset 0 with tens := 1 :: List.replicate 7 0xFF }] } }
def wFork0 : State :=
  let s := wCores (wQuarters w32)
  { s with nextId := 50, mm := { s.mm with pools := [], allocs := [] } }
def wForked : State := wAfter (.fork true 2 9) wFork0
def wRivals : State := wAfter (.clonePlacement 52 0 2) (wAfter (.clonePlacement 51 0 1) wForked)
def wRival : State := { wRivals with cur := (wRivals.fe.groups[1]?).map (fun g => (g.gid, 0)) }
def wRivalG : Group := (wRivals.fe.groups[1]?).getD (wG w4)
def wRivalP : Split := wRivalG.splits.headD (wP w4)
def wRivalB : Block := (wRival.block? 51).getD loadBlock

/-- What stands in the rivals' record. -/
theorem wRecord (r : ForkRecord) (h : wRivalB.forkRec.bind wRival.fork? = some r) :
    r.aborted.length + 1 < r.n ∧ wRivalB.bid ≠ r.base.bid ∧ 0 < wRivalB.view ∧ r.parent = 0 := by
  have k : (match wRivalB.forkRec.bind wRival.fork? with
    | some r => decide (r.aborted.length + 1 < r.n ∧ wRivalB.bid ≠ r.base.bid ∧ 0 < wRivalB.view ∧ r.parent = 0)
    | none => true) = true := by decide +kernel
  rw [h] at k
  simpa using k

theorem ready_wFork0 : Ready wFork0 (wG wFork0) (wP wFork0) := ⟨by decide, by decide, by decide⟩

/-- FORK's rendezvous completed by a group of every live lane, a fork record's numbers free, and where it is not; VSTAT's selectors at 3 and 4;
a rival that may abort; a block of an atomic kernel. -/
theorem witness_Views :
    (Ready wFork0 (wG wFork0) (wP wFork0) ∧ wFork0.block? 1 = some loadBlock ∧ (wP wFork0).active = (wG wFork0).live ∧
      releaseAt wFork0 1 0 .dev = (wFork0, .done) ∧ (∀ x ∈ wFork0.fe.blocks, x.bid < wFork0.nextId) ∧ parkedAs wFork0 1 isFork = [] ∧
      (let s1 := parkTo (.fork true 2 9) true .bar (.fork (encodeWord (.fork true 2 9))) ((wP wFork0).pc + 4) wFork0 (wG wFork0) (wP wFork0)
       allParked s1 loadBlock isFork = true ∧ quietStep s1 1 = s1 ∧ isQuiet s1 1 = true ∧ forkRefused s1 loadBlock = false ∧ 3 ≤ (freeViewIds s1).length ∧
       Calm s1 (parkedAs s1 1 isFork)) ∧
      inRival wFork0 (wG wFork0) = false ∧ loadBlock.forkRec = none ∧ wFork0.modeOf loadBlock = 0) ∧
    (let s := wTwo w4 id
     (wP s).active ≠ (wG s).live) ∧
    (Ready wRival wRivalG wRivalP ∧ wRival.block? 51 = some wRivalB ∧ inRival wRival wRivalG = true ∧ wRivalP.active = wRivalG.live ∧
      (let s1 := parkTo (.choose true) true .bar .choose (wRivalP.pc + 4) wRival wRivalG wRivalP
       allParked s1 wRivalB isChoose = true ∧ (wRivalB.forkRec.bind s1.fork?).isSome = true ∧ (s1.view? wRivalB.view).bind (·.commit) = none ∧
       (verifyView s1 wRivalB wRivalB.view).2 = .ready) ∧
      (∃ r, wRivalB.forkRec.bind wRival.fork? = some r ∧ r.aborted.length + 1 < r.n ∧ wRivalB.bid ≠ r.base.bid ∧ 0 < wRivalB.view ∧ r.parent = 0)) ∧
    ((wAtomic w32).modeOf { loadBlock with view := 5 } = 2 ∧ 3 < (4 : Nat)) :=
  ⟨⟨ready_wFork0, by decide, by decide, by decide +kernel, by decide, by decide,
    ⟨by decide +kernel, by decide +kernel, by decide +kernel, by decide +kernel, by decide +kernel, calm_of _ _ (by decide +kernel) (by decide +kernel)⟩, by decide +kernel⟩,
   by decide, ⟨⟨by decide +kernel, by decide +kernel, by decide +kernel⟩, by decide +kernel, by decide +kernel, by decide +kernel, by decide +kernel,
    by
      cases h : wRivalB.forkRec.bind wRival.fork? with
      | none => exact absurd h (by decide +kernel)
      | some r => exact ⟨r, rfl, wRecord r h⟩⟩, by decide +kernel⟩

/-! ## Witnesses: the front end and the distributor -/

/-- Cores, quarters, a queue, the front end's translations. -/
def wHostQ : Queue :=
  { Queue.atReset 0 with assigned := true, asid := 1, tenancy := 1, part := 0, evBase := 0x300000, evSize := 4096, enable := true, base := 0x301000,
                         size := 4096 }
def wD : State :=
  let s := wCores (wQuarters w32)
  { s with
    nextId := 50
    fe := { s.fe with queues := [wHostQ], kernels := [{ loadKernel with addr := 0x1000 }] }
    mm := { s.mm with pools := [], allocs := [], tlb := s.mm.tlb ++ s.mm.tlb.map (fun x => { x with cluster := 96 }) } }

/-- Rings of function 0, and the event ring of function 5. -/
def wRings : State :=
  let rg (fn r : Nat) : Ring := { fn, r, base := 0x8000000000000, size := 4096, enable := true, head := 0, tail := 0, lost := 0 }
  { wD with sys := { wD.sys with rings := [rg 0 0, rg 0 1, rg 0 2, rg 5 3] } }

/-- A split waits on a word of BAR0, at its base, and another on a word of memory. -/
def wWatches (sec : Nat) : State :=
  let s := wParked (.word sec false none)
  { s with sys := { s.sys with bars := [(0, 0x40000000)] } }

theorem witness_WakesWaits :
    (let s := wWatches ((2 ^ 51 + 0x40000000 + 0x20018) / 64)
     s.sys.bars.find? (fun x => x.1 == 0) = some (0, 0x40000000) ∧ s.split? 1 1 = some (wG s, wQ s) ∧
      (wQ s).park = .word ((2 ^ 51 + 0x40000000 + 0x20018) / 64) false none ∧ s.sys.bars.find? (fun x => x.1 == 1) = none) ∧
    (let s := wWatches 0x4C000
     s.split? 1 1 = some (wG s, wQ s) ∧ (wQ s).park = .word 0x4C000 false none ∧ 0x4C000 ≠ (2 ^ 51 + 0x40000000 + 0x20018) / 64) := by decide

/-- A queue halted, and not; enabled, and not; offsets at the ring's last entry and past it; sizes at both ends and beside; each ring. -/
theorem witness_HostRegisters :
    ({ wHostQ with halt := true }.halt = true ∧ (4032 : Word).toNat % 64 = 0 ∧ (4032 : Word).toNat < wHostQ.size.toNat ∧
      (4033 : Word).toNat % 64 ≠ 0 ∧ wHostQ.size.toNat ≤ (4096 : Word).toNat) ∧
    ((wD.queue 0).halt = false ∧ (wD.queue 0).enable = true ∧ (wD.queue 1).enable = false) ∧
    (ringSizeOk 4096 = true ∧ ringSizeOk 0x1000000 = true ∧ ringSizeOk 2048 = false ∧ ringSizeOk 0x2000000 = false) ∧
    ((∀ f ∈ wRings.mm.faults, f.posted = true) ∧
      (∀ x ∈ [wRings.ring 0 0, wRings.ring 0 1, wRings.ring 0 2, wRings.ring 5 3], (0 : Word).toNat % ringEntry x.r = 0 ∧ (0 : Word).toNat < x.size.toNat) ∧
      (4064 : Word).toNat % ringEntry 0 = 0 ∧ (4064 : Word).toNat < (wRings.ring 0 0).size.toNat) ∧
    (wD.sys.stage = .ready ∧ { wD.sys with stage := .rom }.stage ≠ .ready ∧ 0x10012 % 4 ≠ 0 ∧ 0x10014 % 8 ≠ 0 ∧ 0x20 ≤ 0x20) := by decide

/-- A packet of 64 bytes: type, flags, sequence number, the rest. -/
def wPkt (ty fl seq : Nat) (rest : List Byte) : List Byte :=
  [BitVec.ofNat 8 ty, 1] ++ leBytes fl 2 ++ [0, 0, 0, 0] ++ leBytes seq 8 ++ rest
def wLaunch : List Byte := wPkt 1 0 7 ([0x00, 0x10, 0, 0, 0, 0, 0, 0, 2, 0, 0, 0] ++ List.replicate 36 0)
def wFlume : List Byte := wPkt 2 0 7 (leBytes 0x2000 8 ++ leBytes 77 8 ++ leBytes 0x300200 8 ++ List.replicate 24 0)
def wWaitseq : List Byte := wPkt 3 0 7 (leBytes 0 8 ++ leBytes 6 8 ++ List.replicate 32 0)
def wSignal : List Byte := wPkt 4 0 7 (leBytes 0x300100 8 ++ leBytes 5 8 ++ List.replicate 32 0)
def wPlain (ty : Nat) : List Byte := wPkt ty 0 7 (List.replicate 48 0)

/-- The packet stands at the head of queue 0, whose next sequence number is 7. -/
def wReadQ (f : Queue → Queue) (bs : List Byte) : State :=
  dramWrite { wD with fe := { wD.fe with
    queues := [f { wHostQ with nextSeq := 7, tail := 64 }]
    flumes := [{ addr := 0x2000, tenancy := 1, image := 0, stages := [{ kernel := 0x1000, deadline := 500, skip := false, after := 0 }] }] } } 1 (0x1301000 + (f wHostQ).head.toNat) bs
def wRead (bs : List Byte) : State := wReadQ id bs

/-- What the read of the packet finds. -/
def wPeek (bs : List Byte) : Bool := match (peekPacket (wRead bs) 0).2 with | .ok x => decide (x = bs) | _ => false
def wPeekBad (bs : List Byte) (c ty : Nat) : Bool := match (peekPacket (wRead bs) 0).2 with | .bad x y _ => x == c && y == ty | _ => false
def wPeekBadQ (f : Queue → Queue) (bs : List Byte) (c ty : Nat) : Bool :=
  match (peekPacket (wReadQ f bs) 0).2 with | .bad x y _ => x == c && y == ty | _ => false
def wPeekIdle (bs : List Byte) : Bool := match (peekPacket (wRead bs) 0).2 with | .idle => true | _ => false
def wLineBad (bs : List Byte) (c : Nat) : Bool := lineCause (wRead bs) ((wRead bs).queue 0) bs == some c

/-- A packet of each type that the checks let through. -/
theorem witness_FrontEnd_packets :
    (wPeek wLaunch = true ∧ (kernelAt (wRead wLaunch) 1 (field wLaunch 16 8)).isSome = true) ∧
    (wPeek wFlume = true ∧ (flumeAt (wRead wFlume) 1 (field wFlume 16 8)).isSome = true) ∧ wPeek wWaitseq = true ∧ wPeek wSignal = true ∧
    (wPeek (wPlain 5) = true ∧ field (wPlain 5) 2 2 / 2 % 2 ≠ 1) ∧ wPeek (wPlain 6) = true := by decide +kernel

/-- Packets that each check stops. -/
theorem witness_FrontEnd_refused :
    wPeekBad (wPkt 1 0 8 (List.replicate 48 0)) 5 1 = true ∧ wPeekBad (wPkt 1 8 7 (List.replicate 48 0)) 6 1 = true ∧
    wPeekBad (wPkt 1 0 7 (leBytes 0x9999 8 ++ leBytes 1 4 ++ List.replicate 36 0)) 7 1 = true ∧
    lengthOk (wPkt 1 0 7 []) = true ∧ lengthOk ((wPkt 1 0 7 (List.replicate 48 0)).set 1 2) = false ∧ lengthOk ((wPkt 6 0 7 []).set 1 2) = false ∧
    wPeekBad (wPkt 3 0 7 (leBytes 5 8 ++ leBytes 9 8 ++ List.replicate 32 0)) 8 3 = true ∧
    wLineBad ((wPlain 6).set 1 2) 4 = true ∧ wLineBad (wPkt 1 0 8 (List.replicate 48 0)) 5 = true ∧ wLineBad (wPkt 1 8 7 (List.replicate 48 0)) 6 = true ∧
    wLineBad (wPkt 1 0 7 (leBytes 0x9999 8 ++ leBytes 1 4 ++ List.replicate 36 0)) 7 = true ∧
    wLineBad (wPkt 3 0 7 (leBytes 5 8 ++ leBytes 9 8 ++ List.replicate 32 0)) 8 = true := by decide +kernel

/-- A packet that QTAIL does not cover yet, whatever its type; unknown types at both ends; a tail that is no offset of the ring; a length of 0, and
one past the ring's end. -/
theorem witness_FrontEnd_order :
    ((wRead (wPlain 6)).queue 0).assigned = true ∧ ((wRead (wPlain 6)).queue 0).enable = true ∧ ((wRead (wPlain 6)).queue 0).halt = false ∧
    ((wRead (wPlain 6)).queue 0).head ≠ ((wRead (wPlain 6)).queue 0).tail ∧
    wPeekIdle ((wPlain 6).set 1 2) = true ∧ wPeekIdle ((wPlain 7).set 1 2) = true ∧ wPeekBad (wPlain 0) 1 6 = true ∧ wPeekBad (wPlain 7) 1 6 = true ∧
    wPeekBadQ (fun y => { y with tail := 65 }) (wPlain 1) 2 1 = true ∧ wPeekBadQ (fun y => { y with tail := 4096 }) (wPlain 6) 2 6 = true ∧
    wPeekBad ((wPlain 6).set 1 0) 3 6 = true ∧ wPeekBadQ (fun y => { y with head := 4032, tail := 0 }) ((wPlain 6).set 1 2) 3 6 = true ∧
    wPeekBadQ (fun y => { y with nextSeq := 8 }) (wPlain 6) 5 6 = true := by decide +kernel

/-- A launch accepted, started, and with its blocks done; a WAITSEQ and a SIGNAL started. -/
def wAccepted : State := wAfter (.launchPacket 0) (wRead wLaunch)
def wStarted : State := wAfter (.packetStart 0 7) wAccepted
def wDone : State := { wStarted with fe := { wStarted.fe with launches := wStarted.fe.launches.map (fun l => { l with done := List.range l.total }) } }
def wEntryOf (s : State) (p : LogEntry → Bool) : Bool := match s.entry? 0 7 with | some e => p e | none => false

theorem witness_FrontEnd_starts :
    wEntryOf wAccepted (fun e => mayStart wAccepted e && !e.handoff) = true ∧
    (∃ l, wAccepted.fe.launches.getLast? = some l ∧ wAccepted.launch? l.lid = some l ∧
      cohortFits wAccepted (wAccepted.queue l.q).part l.kernel (min l.kernel.cohort l.total) = true) ∧
    (let s := wAfter (.waitseqPacket 0) (wRead wWaitseq)
     wEntryOf s (fun e => mayStart s e) = true) ∧
    (let s := wAfter (.packetStart 0 7) (wAfter (.waitseqPacket 0) (wRead wWaitseq))
     wEntryOf s (fun e => !mayStart s e && entryDone s e && !e.complete && !e.event) = true) ∧
    (let s := wAfter (.packetStart 0 7) (wAfter (.signalPacket 0) (wRead wSignal))
     wEntryOf s (fun e => e.started && !e.complete && !e.event) = true ∧
       (match (feWrite s (s.queue 0) 0x300100 (leBytes 5 8)).2 with | .ok _ => true | _ => false) = true) ∧
    (match wDone.fe.launches.getLast? with
     | some l => l.children == [] && l.started && launchDone l && wEntryOf wDone (fun e => entryDone wDone e && !e.complete && !e.event)
     | none => false) = true := by
  refine ⟨by decide +kernel, ?_, by decide +kernel, by decide +kernel, by decide +kernel, by decide +kernel⟩
  cases h : wAccepted.fe.launches.getLast? with
  | none => exact absurd h (by decide +kernel)
  | some l =>
    refine ⟨l, rfl, ?_⟩
    have k : (match wAccepted.fe.launches.getLast? with
      | some l => decide (wAccepted.launch? l.lid = some l ∧ cohortFits wAccepted (wAccepted.queue l.q).part l.kernel (min l.kernel.cohort l.total) = true)
      | none => true) = true := by decide +kernel
    rw [h] at k
    simpa using k

/-- A group that asks for 96 registers, alone, and on a core where every block waits. -/
def wAsks : State := wD.mapGroup 1 (fun g => { g with req := 96, splits := g.splits.map (fun p => { p with st := .regreq, outst := regRange 16 80 }) })
def wStuck : State :=
  { wAsks with fe := { wAsks.fe with groups := wAsks.fe.groups ++ (List.range 21).map (fun k =>
    { freshGroup (60 + k) 1 (k + 1) 96 0 0 0 0 0 0 0 with splits := [{ freshSplit 0 0 0 with st := .bar, park := .barrier 0 }] }) } }

/-- The last launch of a state, and its first item. -/
def wLast (s : State) : Launch := s.fe.launches.getLast?.getD loadLaunch
def wFlumed : State := wAfter (.packetStart 0 7) (wAfter (.flumePacket 0) (wRead wFlume))
def wItem (s : State) : Item := (s.fe.items.head?).getD { id := 0, q := 0, seq := 0, flume := ⟨0, 0, 0, []⟩, item := 0, statAddr := 0, prio := 0, params := [], stages := [] }

theorem witness_Distributor_place :
    ((nextPlacement wStarted 0 = (some ((wLast wStarted).lid, none), []) ∧ wStarted.launch? (wLast wStarted).lid = some (wLast wStarted)) ∧
      (placeCohort wStarted (wLast wStarted) 0 [1]).isSome = true ∧ ∀ x ∈ wStarted.fe.blocks, x.bid < wStarted.nextId) ∧
    (match wForked.block? 51 with
     | some b => b.clone && (nextPlacement wForked (wForked.queueOfBlock b).part).1 == some (b.lid, some 51) && (placeClone wForked b 0 1).isSome &&
         (match b.forkRec.bind wForked.fork? with | some r => decide (r.aborted.length < r.n) | none => false)
     | none => false) = true := by decide +kernel

/-- A block whose every rival has aborted waits for a core of its snapshot's cluster. -/
def wGiven : State :=
  { wForked with mm := { wForked.mm with forks := wForked.mm.forks.map (fun r => { r with aborted := List.range r.n }) } }

/-- A saved block of one group, which no save region's byte says more of. -/
def wSaved : State :=
  { wD with fe := { wD.fe with blocks := [{ loadBlock with st := .saved, saveBase := 0x300000 }]
                               groups := wD.fe.groups.map (fun g => { g with saveBase := groupSave 0x300000 g.index }) }
            mm := { wD.mm with tlb := wD.mm.tlb ++ [wTlb 0x304000 0 true, wTlb 0x305000 0 true] } }

theorem witness_Distributor_restore :
    (match wGiven.block? 51 with
     | some b => b.clone && (nextPlacement wGiven (wGiven.queueOfBlock b).part).1 == some (b.lid, some 51) && (placeClone wGiven b 0 1).isSome &&
         (match b.forkRec.bind wGiven.fork? with | some r => decide (r.n ≤ r.aborted.length) | none => false)
     | none => false) = true ∧
    (match wSaved.block? 1 with
     | some b => decide (b.st = .saved) && (nextPlacement wSaved (wSaved.queueOfBlock b).part).1 == some (b.lid, some 1) && (restoreOn wSaved b 0 1).2
     | none => false) = true := by decide +kernel

/-- The split has been its group's lowest runnable one for a long time. -/
def wStarves : State := wFirst wD (fun p => { p with low := (0, 64 * 80) })

theorem witness_Distributor_issue :
    ((requiredFirst wStarves 0).map (fun x => (x.1.gid, x.2.idx)) = some (1, 0) ∧ schedOf wStarves (wG wStarves) = 0 ∧
      wStarves.split? 1 0 = some (wG wStarves, wP wStarves)) ∧
    (deadlocked wAsks 0 0 = true ∧ lowestRequester wAsks (coreGroups wAsks 0 0) = some (wG wAsks) ∧ 96 - 16 ≤ freeRegs wAsks 0 0) ∧
    (deadlocked wStuck 0 0 = true ∧ lowestRequester wStuck (coreGroups wStuck 0 0) = some (wG wStuck) ∧ freeRegs wStuck 0 0 < 96 - 16 ∧
      (highestHolder wStuck (coreGroups wStuck 0 0) 1).isSome = true ∧ leavingCore wStuck 0 0 = false) ∧
    inDeadlock (noteDeadlock wAsks 0 0 true) 0 0 = true ∧
    (wAsks.group? 1 = some (wG wAsks) ∧ (wG wAsks).count < (wG wAsks).req ∧
      (wG wAsks).req - (wG wAsks).count ≤ freeRegs wAsks (wAsks.party (wG wAsks)).cluster (wAsks.party (wG wAsks)).core ∧
      mayGrant wAsks (wG wAsks) = true ∧ Calm wAsks (((wG wAsks).splits.filter (fun q => q.st == .regreq)).map (fun q => (1, q.idx)))) :=
  ⟨by decide +kernel, by decide +kernel, by decide +kernel, by decide +kernel, by decide +kernel, by decide +kernel, by decide +kernel, by decide +kernel, calm_of _ _ (by decide +kernel) (by decide +kernel)⟩

/-- A raft window at its 2,000th tick; a flume stage to release; one past its deadline. -/
def wRaft : RaftWindow :=
  { q := 0, kdesc := 0x1000, kernel := { loadKernel with addr := 0x1000 }, prio := 1, psize := 0, first := 0,
    children := [{ x := 1, y := 1, z := 2, event := false, params := [], posted := false }] }

def wReleased : State := { wAfter (.stageRelease (wItem wFlumed).id 0) wFlumed with clock := 600 }

theorem witness_Distributor_time :
    (let s : State := { wD with clock := 2000, fe := { wD.fe with raft := [wRaft] } }
     (s.fe.raft.filter (fun x => x.q == 0))[0]? = some wRaft ∧ wRaft.first + 2000 ≤ s.clock) ∧
    256 ≤ (List.replicate 256 wChild).length ∧
    (let x := wItem wFlumed
     wFlumed.item? x.id = some x ∧ (itemEntry wFlumed x.id).isSome = true ∧ ((itemEntry wFlumed x.id).map (·.started)) = some true ∧
     (x.stages[0]?).map (·.released) = some false ∧ stagesBefore x 0 = true ∧
     cohortFits wFlumed 0 { loadKernel with addr := 0x1000 } (min 1 1) = true ∧ ∀ l ∈ wFlumed.fe.launches, l.lid < wFlumed.nextId) ∧
    (let x := wItem wReleased
     wReleased.item? x.id = some x ∧ (x.stages[0]?).map (fun y => (y.released, y.ended, y.overrun, decide (y.start + 500 < wReleased.clock))) = some (true, false, false, true) ∧
     (match x.stages[0]? with
      | some y => !y.owed && (match y.lid.bind wReleased.launch? with | some l => !l.unplaceable && decide (y.releasedBlocks.length < l.total) | none => false) &&
          eventRoom (wReleased.queue x.q)
      | none => false) = true ∧
     eventRoom { wHostQ with evHead := 32, evTail := 0 } = false ∧
     (x.flume.stages[0]?).map (fun f => (f.deadline, f.skip)) = some (500, false) ∧
     (match (postFront wReleased 0 0xFFFF0013 0 7).2 with | .ok _ => true | _ => false) = true) ∧
    (let s : State := { wD with sys := { wD.sys with parts := [{ Partition.atReset 0 with tens := [1, 2, 0xFF, 0xFF, 0xFF, 0xFF, 0xFF, 0xFF], slice := 3, counted := 640 }] } }
     nextSharer (s.partition 0) = some (1, 2) ∧ 2 ≤ (sharers (s.partition 0)).length ∧ 80 * 2 ^ (s.partition 0).slice.toNat ≤ (s.partition 0).counted) ∧
    (let s : State := { wD with sys := { wD.sys with quarters := [{ Quarter.atReset 2 with graceEnd := some 0 }] } }
     (s.quarter 2).graceEnd = some 0 ∧ 0 ≤ s.clock ∧ (s.latch 2).lpend = false) := by decide +kernel

/-! ## Witnesses: events of the engines -/

/-- Copy requests of the block: from global memory to scratch, from scratch to global memory, and from a place in no allocation; an object at
0x500 that counts 64 bytes and one arrival. -/
def wIn : State := { wKick with en := { wKick.en with copies := [wCopy] } }
def wOutCopy : CopyReq := { wCopy with src := 0x600, dst := 0x300000, sstride := 32, dstride := 64, slocal := true, dlocal := false }
def wOut : State := { wKick with en := { wKick.en with copies := [wOutCopy] } }
def wLeased : State := { wOut with mm := { wOut.mm with llcLease := [(0x1300000 / 512, 9)] } }
def wFails : State := { wKick with en := { wKick.en with copies := [{ wOutCopy with src := 0x800 }] } }

/-- The source of the first 16 bytes of row 1 of the request. -/
def wSource (s : State) (r : CopyReq) : State × OpEnd :=
  readPieces s (copyParty s r) loadBlock r.id r.slocal (piecesOf (r.src + 1 * r.sstride + 0) 16)

/-- What must hold of a global destination that checks let through. -/
def wDest (s : State) (r : CopyReq) (now : Bool) : Bool :=
  match wSource s r with
  | (s1, .ok bs) =>
    let dst := r.dst + 1 * r.dstride + 0
    let ps := piecesOf dst bs.length
    match checkPieces s1 r (copyParty s r) ps with
    | (s2, x, .ok l) =>
      let pa := l.pa - (x - dst)
      let s2' := cleanLine s2 (copyParty s r) pa
      let s3 : State := { s2' with mm := { s2'.mm with owned := s2'.mm.owned.filter (fun x => x.2 != r.id) ++ [(lineOf pa, r.id)] } }
      s1.block? r.bid == some loadBlock && addrInRange dst && !r.failed.contains (faultPage dst) && !faultPending s1 r.asid dst && decide (l.attr ≠ 2) && !pinned s2 (.global pa dst l.attr l.size) bs.length && !ownedElse s2 r.id pa &&
        ps.all (fun x => !storeFails s2 (copyParty s r) (.global (pa + (x.1 - dst)) x.1 l.attr l.size) x.2) && decide (leaseGwct s3 pa ≤ s3.clock) == now
    | _ => false
  | _ => false

/-- No page is valid, and a miss is a replayable fault. -/
def wReplays (s : State) : State :=
  let s := dramWrite s 1 0x200000 [0x80]
  { s with mm := { s.mm with contexts := s.mm.contexts.map (fun c => { c with faultDst := 0 }) } }

theorem witness_CopyPieces :
    (wIn.en.copies.find? (fun c => c.id == 9) = some wCopy ∧ pieceOk wCopy 1 0 16 = true ∧ pieceOk wCopy 1 16 16 = true ∧ wIn.block? 1 = some loadBlock ∧
      (match wSource wIn wCopy with
       | (s1, .ok bs) =>
         let ps := piecesOf (wCopy.dst + 1 * wCopy.dstride + 0) bs.length
         s1.block? 1 == some loadBlock && ps.all (fun x => (locate s1 loadBlock x.1).isSome) &&
           decide (ownLanes s1 loadBlock (ps.map (fun x => (0, x.1))) = (s1, [])) &&
           ps.all (fun x => !pinned s1 (.pool ((keyAt s1 loadBlock x.1).getD 0)) x.2)
       | _ => false) = true) ∧
    (wOut.en.copies.find? (fun c => c.id == 9) = some wOutCopy ∧ pieceOk wOutCopy 1 0 16 = true ∧ wDest wOut wOutCopy true = true) ∧
    (wLeased.en.copies.find? (fun c => c.id == 9) = some wOutCopy ∧ wDest wLeased wOutCopy false = true) ∧
    (let r := { wOutCopy with src := 0x800 }
     wFails.en.copies.find? (fun c => c.id == 9) = some r ∧ pieceOk r 1 0 16 = true ∧
     (match wSource wFails r with | (s1, .void c _) => c != 0x11 && s1.fe.groups.all (fun g => g.splits.all (fun q => q.park == .none)) | _ => false) = true ∧
     (copyObject (dropCopy (wSource wFails r).1 r) r).2.isSome = true ∧ (copyObject (dropCopy (wSource wFails r).1 r) r).1 = dropCopy (wSource wFails r).1 r) ∧
    (let r := { wCopy with src := 0x310000 }
     pieceOk r 1 0 16 = true ∧ (match wSource (wReplays wIn) r with | (_, .fault va) => va == 0x310040 | _ => false) = true) ∧
    (let r := { wCopy with failed := [faultPage 0x300040] }
     r.slocal = false ∧ r.failed.contains (faultPage (r.src + 1 * r.sstride + 0)) = true) ∧
    (let r := { wOutCopy with failed := [faultPage 0x300040] }
     r.dlocal = false ∧ r.failed.contains (faultPage (r.dst + 1 * r.dstride + 0)) = true ∧ r.slocal = true ∧
     (match wSource { wKick with en := { wKick.en with copies := [r] } } r with | (s1, .ok _) => s1.block? 1 == some loadBlock | _ => false) = true) ∧
    (let last := { wCopy with done := [(0, 0, 32), (1, 16, 16)] }
     let part := { wCopy with done := [(0, 0, 32)] }
     pieceOk last 1 0 16 = true ∧ (([(0, 0, 32), (1, 16, 16)] ++ [(1, 0, 16)] : List (Nat × Nat × Nat)).map (·.2.2)).sum = last.rows * last.rowBytes ∧
     (([(0, 0, 32)] ++ [(1, 0, 16)] : List (Nat × Nat × Nat)).map (·.2.2)).sum ≠ part.rows * part.rowBytes) ∧
    (copyPointer wCopy = (0, 0) ∧ copyPointer { wCopy with done := [(0, 0, 32)] } = (1, 0) ∧ pieceOk wCopy 0 0 16 = true ∧
      goesOn wCopy (pieceDone wIn wCopy 1 0 16) = true ∧ goesOn wCopy (stopCopy wIn wCopy 0x06 0x300040) = false) ∧
    (copyObject wIn wCopy = (wIn, keyAt wIn loadBlock 0x500) ∧ (keyAt wIn loadBlock 0x500).isSome = true ∧
      (let o := readBarrier wIn ((keyAt wIn loadBlock 0x500).getD 0)
       o.bytes < 65 ∧ o.bytes = 64 ∧ 63 < o.bytes ∧ o.arrive ≠ 0 ∧ { o with arrive := 0 }.arrive = 0)) := by decide +kernel

/-- An accepted multiplication of the tag, a wave of it, and a state with the tag as given. -/
def wMma : Mma :=
  let g := wG (wTagged (wTag .bound))
  { no := 0, a := tileRec g 0, b := tileRec g 4, asid := 1, view := 0, bid := 1, latchK := 0, admitK := 0, voided := [], met := [], failed := [], opened := 0 }
def wWave (k : Nat) (last : Bool) (void : Option (BitVec 6)) : Wave := { k, last, void, a := [0x3F800000, 0, 0], b := [0x40000000, 0, 0, 0, 0] }
def wFetch : Tag := { wTag .bound with queue := [wMma] }
def wReady : Tag := { wTag .bound with queue := [{ wMma with latchK := 4 }], latched := (List.range 4).map (fun k => wWave k (k == 3) none), deficit := 4 }
def wFlight (st : TagState) (w : Wave) : Tag := { wTag st with inflight := [w] }

/-- A block of a resilient kernel, with its shadow. -/
def wShadow : Shadow := { cluster := 0, core := 0, groups := [], allocs := [], tags := [] }
def wHarden (s : State) : State :=
  { s with fe := { s.fe with launches := [{ loadLaunch with kernel := { loadKernel with mode := 1 } }], blocks := [{ loadBlock with shadow := some wShadow }] } }

/-- A pack that may be fetched; a tag that is ready, alone and beside one of its deficit and one of less; a wave that leaves inside a chunk, at
its end, and void; a killed tag, drained; tags of both accumulators in a block whose error is not contained. -/
theorem witness_MatrixHardware :
    (let s := wTagged wFetch
     s.tag 0 2 = wFetch ∧ nextMma wFetch = some wMma ∧ fetchOpen wFetch wMma = true ∧ matrixStopped s 0 = false ∧ s.block? 1 = some loadBlock ∧
     (let c := mmaCruise s loadBlock wMma
      (match (formWaves (c.1.mapTag 0 2 (fun x => { x with pins := addPins x.pins (chunkPins c.1 loadBlock wMma 0) })) loadBlock c.2 0 (packEnd wFetch wMma 0)).2 with
       | .ok ws => !ws.isEmpty
       | _ => false) = true)) ∧
    (bestTag [{ wReady with p := 3 }, wReady, { wReady with p := 1, deficit := 3 }] [0, 1, 2, 3] [] = some wReady ∧
      bestTag [{ wReady with p := 3 }, wReady, { wReady with p := 1, deficit := 3 }] [0, 1, 2, 3] [2, 3] = some { wReady with p := 1, deficit := 3 }) ∧
    (let s := wTagged wReady
     liveTags s 0 = [wReady] ∧ matrixStopped s 0 = false ∧ 0 ∈ tagQuads wReady ∧ (∀ q ∈ tagQuads wReady, q < 4) ∧ s.en.held = [] ∧
     wReady.queue = [{ wMma with latchK := 4 }] ∧ tagReady wReady = true) ∧
    (∀ t ∈ [wFlight .bound (wWave 30 false none), wFlight .bound (wWave 31 false none), wFlight .bound (wWave 3 true none),
        wFlight .bound (wWave 3 true (some 5)), wFlight .killing (wWave 31 true none)],
      (wTagged t).tag 0 2 = t ∧ t.inflight ≠ [] ∧ matrixStopped (wTagged t) 0 = false ∧ ∀ w ∈ t.inflight, w.b.length ≤ 128) ∧
    ((wTagged (wTag .killing)).tag 0 2 = wTag .killing ∧ (wTag .killing).member = false ∧ (wTag .killing).inflight = []) ∧
    ((wTagged (wTag .bound)).block? (wTag .bound).owner = some loadBlock ∧ (wTag .bound).st ≠ .free ∧ (wTag .bound).st ≠ .killing ∧
      (wTagged (wTag .bound)).modeOf loadBlock ≠ 1 ∧ (wTag .bound).acc ≠ 1 ∧ (wTag .bound).vcount = 0 ∧
      { wTag .bound with acc := 1, vcount := 3 }.vcount ≠ 0 ∧ primaryTag (wTagged (wTag .bound)) 0 2 = 2) ∧
    (let s := wHarden (wTagged (wTag .bound))
     let b := { loadBlock with shadow := some wShadow }
     s.block? (s.tag 0 (primaryTag s 0 2)).owner = some b ∧ s.modeOf b = 1 ∧ b.shadow = some wShadow ∧ b.rollbacks < 3 ∧ 3 ≤ { b with rollbacks := 3 }.rollbacks) := by
  decide +kernel

/-! ## Witnesses: time -/

def wParkFifo (need : Nat) (enq : Bool) : State := wFirst wE (fun p => { p with st := .wait, park := .fifo 1 need enq })

/-- The split waits on an object of a segment whose end has come. -/
def wOld : State :=
  let s := (wFirst w4 (fun p => { p with st := .bwait, park := .object 0x410 })).mapGroup 1 (fun g => { g with tvec := 0x5000 })
  { s with mm := { s.mm with segAge := [(5, 4096 * ageMicro)] } }

def wL2 (pa : Nat) (dirty : BitVec 64) (age : Nat) : L2Sector :=
  { cluster := 0, pool := 0, part := 0, tenancy := 1, view := 0, pa, data := 5, valid := 0xF, dirty, scope := .clu, lease := 0, age := age * ageMicro, seq := 0,
    writers := [] }
def wSector (view : Nat) (dead : Bool) : ViewSector :=
  { tenancy := 1, view, pa := 5, va := 5, data := 0, mask := 1, scope := .blk, spilled := false, dead, bad := false }

/-- Two islands of each of two sites. -/
def wIsland (i : Nat) (on stopped : Bool) (ratio : BitVec 5) : Island := { i, on, stopped, ratio }
def wIslands : State :=
  { w4 with sys := { w4.sys with islands := [wIsland 0 true false 12, wIsland 47 true true 12, wIsland 48 true true 9, wIsland 95 true false 8] } }

theorem witness_TimedEvents_fifo :
    (let s := wParkFifo 2 false
     s.split? 1 0 = some (wG s, wP s) ∧ (wP s).park = .fifo 1 2 false ∧ s.block? (wG s).bid = some loadBlock ∧ (s.pool loadBlock.cluster 1).entries.length = 2) ∧
    (let s := wParkFifo 6 true
     (wP s).park = .fifo 1 6 true ∧ (s.pool loadBlock.cluster 1).entries.length + 6 = (s.pool loadBlock.cluster 1).depth ∧
       (s.pool loadBlock.cluster 1).depth < (s.pool loadBlock.cluster 1).entries.length + 7) ∧
    ((wP (wFirst w4 (fun p => { p with hold := 0 }))).hold ≤ w4.clock ∧ w4.clock < (wP (wFirst w4 (fun p => { p with hold := w4.clock + 1 }))).hold) := by decide +kernel

theorem witness_TimedEvents_segment :
    ((∃ a ∈ wOld.mm.allocs, 5 ∈ a.segs ∧ a.life * ageMicro ≤ lookupD wOld.mm.segAge 5) ∧ ¬ (∃ a ∈ wOld.mm.allocs, 6 ∈ a.segs ∧ a.life * ageMicro ≤ lookupD wOld.mm.segAge 6) ∧
      wOld.split? 1 (wP wOld).idx = some (wG wOld, wP wOld) ∧ (wP wOld).park = .object 0x410 ∧ wOld.block? (wG wOld).bid = some loadBlock ∧
      loadBlock.st = .running ∧ evicted loadBlock (wG wOld) = false ∧ (wG wOld).mode = false ∧ 1 < 32 ∧ keyAt wOld loadBlock 0x410 = some (segKey 5 + 16 * 1) ∧
      ∀ h ∈ wOld.fe.groups, ∀ r ∈ h.splits, r.park = .object 0x410 ∧ h = wG wOld ∧ r = wP wOld) := by decide +kernel

theorem witness_TimedEvents_lines :
    ((wL2 0x4C000 0xF 48).pa / 8 = 0x9800 ∧ 48 * ageMicro ≤ (wL2 0x4C000 0xF 48).age ∧ (wL2 0x4C000 0xF 48).dirty ≠ 0 ∧
      (wL2 0x4C001 0 56).pa / 8 = 0x9800 ∧ 56 * ageMicro ≤ (wL2 0x4C001 0 56).age ∧ ¬ (56 * ageMicro ≤ (wL2 0x4C002 0 55).age)) ∧
    ((wSector 4 true).dead = true ∧ (wSector 3 true).view ≠ 4) := by decide +kernel

/-- Sixteen readings. -/
def wRs (x y : BitVec 16) : List (BitVec 16) := List.replicate 15 y ++ [x]

theorem witness_TimedEvents_sensors :
    (let s := wIslands
     s.clock % 1000 = 0 ∧ 0 < 4 ∧ 3 < 4 ∧ s.sys.siteT.length = 4 ∧ s.sys.sensors.length = 64 ∧
     wRs 1840 1500 = List.replicate 15 1500 ++ [1840] ∧ (wRs 1840 1500).any (fun r => decide (r ≠ 0xFFFF ∧ 1840 ≤ r.toNat)) = true ∧
     (wRs 1600 0xFFFF).all (fun r => decide (sensorCounts r ≤ 1600)) = false ∧ (wRs 1600 1600).all (fun r => decide (sensorCounts r ≤ 1600)) = true ∧
     (wRs 1839 0xFFFF).any (fun r => decide (r ≠ 0xFFFF ∧ 1840 ≤ r.toNat)) = false ∧ (wRs 1601 1600).all (fun r => decide (sensorCounts r ≤ 1600)) = false ∧
     (wRs 1840 1500).length = 16 ∧
     0 < 48 ∧ 47 < 48 ∧ (s.island (48 * 0 + 0)).on = true ∧ (s.island (48 * 0 + 47)).on = true ∧ (s.island (48 * 1 + 0)).on = true ∧
     (s.island (48 * 1 + 47)).on = true) := by decide +kernel

/-! ## Witnesses: errors -/

def wSec (pa : Nat) : Nat := pa / 64
def wL1 (dirty : BitVec 64) : L1Sector :=
  { cluster := 0, core := 0, asid := 1, tenancy := 1, view := 0, va := 0xC000, pa := 0x4C000, data := 5, valid := 0xF, dirty, scope := .clu, wide := .clu, lease := 0, wperm := true,
    seq := 0, grant := 0, writers := [] }
def wCopies (d : BitVec 64) : State := { w4 with mm := { w4.mm with l2 := [wL2 0x4C000 d 1], l1 := [wL1 d], sectors := [{ wSector 3 false with pa := 0x4C000 }] } }

/-- The split's load at 0x300040 and above, pending; and what an error of its sector finds. -/
def wLoading : State := wAfter (.ldg true .b32 .blk 0 8 (.reg 4)) w4
def wErrState (s : State) (unit pa : Nat) : State := sectorError s unit 1 0 (wSec pa) (sectorOwner s (wSec pa)) (24 * homeSite pa) 0 none

theorem chosen_one {α : Type} (s : State) {l : List α} {x : α} (h : l = [x]) : chosen s l = some x := by
  subst h
  simp [chosen, Nat.mod_one]

/-- The one copy of the sector in each of the three. -/
theorem wFinds (d : BitVec 64) :
    (∃ x ∈ (wCopies d).mm.sectors, x.pa = wSec 0x1300010 ∧ x.dead = false) ∧
    chosen (wCopies d) ((wCopies d).mm.l2.filter (fun y => y.pa == 0x1300010 / 64)) = some (wL2 0x4C000 d 1) ∧
    chosen (wCopies d) ((wCopies d).mm.l1.filter (fun y => y.pa == 0x1300010 / 64)) = some (wL1 d) :=
  ⟨⟨_, .head _, rfl, rfl⟩, chosen_one _ rfl, chosen_one _ rfl⟩

/-- An atomic block recorded complete, its commit not over. -/
def wFinishing : State :=
  let s := wAtomic w32
  { s with fe := { s.fe with blocks := [{ loadBlock with view := 5, committed := true }] }
           mm := { s.mm with views := s.mm.views.map (fun x => { x with commit := some 3 }) } }

def wResilient : State := wHarden w4

/-- The split wrote a sector of its home. -/
def wWriters : State := { w4 with mm := { w4.mm with writers := [(wSec 0x1300000, 1, 0, .dev)] } }

/-- Sectors that no copy holds, that a view holds, and that copies hold, clean and dirty; a register file's group in blocks of each mode. -/
theorem witness_UnitErrors :
    (homeCopies w4 1 (wSec 0x1300000) = [0] ∧ homeCopies (wCopies 0) 1 (wSec 0x1300010) = [0, 3] ∧ homeCopies (wCopies 0) 0 (wSec 0x1300010) = [0] ∧
      (∀ x ∈ (wWriters.mm.writers), x.1 = wSec 0x1300000 ∧ (wWriters.split? x.2.1 x.2.2.1).isSome = true) ∧ 0x1300010 < poolErrors ∧ poolErrors ≤ 2 ^ 52 ∧ 0 < 64 ∧ 0x1300000 % 64 + 64 ≤ 64 ∧ 0x130003F % 64 + 1 ≤ 64) ∧
    ((wL2 0x4C000 0 1).dirty = 0 ∧ (wL2 0x4C000 0xF 1).dirty ≠ 0 ∧ (wL1 0).dirty = 0 ∧ (wL1 0xF).dirty ≠ 0) ∧
    (let s := wFinishing
     let b := { loadBlock with view := 5, committed := true }
     s.group? 1 = some (wG s) ∧ s.block? (wG s).bid = some b ∧ onCore s (wG s) = true ∧ abortAction s (s.partyOf b) ≠ 2 ∧ abortAction s (s.partyOf b) ≠ 8 ∧
     mustFinish s b = true ∧ mustFinish w4 loadBlock = false) ∧
    (loadOf (wErrState wLoading 5 0x1300040) (wSec 0x1300040)).isSome = true ∧
    (let s := wStored (.global 0x1300040 0x300040 0 4096) .dev
     loadOf (wErrState s 6 0x1300040) (wSec 0x1300040) = none ∧ (storeOf (wErrState s 6 0x1300040) (wSec 0x1300040)).isSome = true) ∧
    (loadOf (wErrState w4 6 0x1300000) (wSec 0x1300000) = none ∧ storeOf (wErrState w4 6 0x1300000) (wSec 0x1300000) = none) ∧
    (w4.group? 1 = some (wG w4) ∧ w4.block? (wG w4).bid = some loadBlock ∧ onCore w4 (wG w4) = true ∧ abortAction w4 (w4.partyOf loadBlock) ≠ 2 ∧
      abortAction w4 (w4.partyOf loadBlock) ≠ 8) ∧
    (let s := wAtomic w32
     let b := { loadBlock with view := 5 }
     s.group? 1 = some (wG s) ∧ s.block? (wG s).bid = some b ∧ onCore s (wG s) = true ∧ abortAction s (s.partyOf b) = 8 ∧ (s.view? b.view).bind (·.commit) = none ∧
     (({ s with mm := { s.mm with views := s.mm.views.map (fun x => { x with commit := some 3 }) } } : State).view? 5).bind (·.commit) = some 3) ∧
    (let s := wResilient
     let b := { loadBlock with shadow := some wShadow }
     s.group? 1 = some (wG s) ∧ s.block? (wG s).bid = some b ∧ onCore s (wG s) = true ∧ abortAction s (s.partyOf b) = 2) := by decide +kernel

/-- A request on the link for a lane of the split's load, or a store, and what its loss finds. -/
def wLink (isStore : Bool) (retries start : Nat) : LinkReq := { id := 3, gid := 1, sp := 0, seq := (wG wLoading).pending.head?.elim 0 (·.seq), lane := 5, isStore, pa := 0x1300050, va := 0x300050, start, retries }
def wLinked (r : LinkReq) (clock : Nat) : State := { wLoading with clock, en := { wLoading.en with link := [r] } }

/-- An echo entry of the split; memory of the first 2 MiB, and of no more, exported to tenancy 1. -/
def wEcho (left : LaneMask) : EchoEntry :=
  { sched := 0, gid := 1, sp := 0, addr := 0x100000, word := 0, fmt := 0, lanes := 0xF0, left, sources := [], results := [], rflags := [], age := 0 }
def wEchoes (left : LaneMask) : State := { w4 with fe := { w4.fe with echo := [wEcho left, { wEcho 1 with sched := 1 }] } }
def wExport : State :=
  dramWrite { w4 with sys := { w4.sys with expEn := true, expBase := 0x500000, slots := w4.sys.slots ++ [{ KeySlot.atReset 0 with loaded := true, key := 99 }] } }
    deviceTenancy 0x500000 [2, 1]

theorem witness_LinkEcho_link :
    (let r := wLink false 7 0
     (wLinked r 5).en.link.find? (fun x => x.id == 3) = some r ∧ r.retries < 8 ∧ (wLinked r 5).clock < r.start + 2 ^ 22 ∧
     r.start + 2 ^ 22 ≤ (wLinked r (2 ^ 22)).clock ∧ 8 ≤ (wLink false 8 0).retries ∧ (wLinked r 5).split? r.gid r.sp = some (wG wLoading, wP wLoading) ∧
     r.isStore = false ∧
     (match (wG wLoading).pending.find? (fun x => x.seq == r.seq) with
      | some x => match x.parts.find? (fun y => y.lane == r.lane) with
        | some y => match y.load with | some (.global pa _ _ _, n) => decide (pa = 0x1300050 ∧ n = 4) | _ => false
        | none => false
      | none => false) = true) ∧
    (let r := { wLink true 7 0 with gid := 9 }
     (wLinked r 5).split? r.gid r.sp = none) ∧
    (let r := { wLink true 7 0 with seq := 0, pa := 2 ^ 48 + 2 ^ 42 + 64 }
     let s := wStored (.global (2 ^ 48 + 2 ^ 42 + 64) 0x300040 2 4096) .dev
     let t : State := { s with en := { s.en with link := [r] } }
     t.split? r.gid r.sp = some (wG t, wP t) ∧
     ((wP t).buffer.find? (fun x => (storeLink t r.gid r.sp x).map (·.id) == some r.id && x.seq == r.seq && overLink t x.place)).isSome = true) := by
  decide +kernel

theorem witness_LinkEcho_remote :
    exported w4 1 0x1300000 = false ∧ exported wExport 1 0x1FFFFF = true ∧ exported wExport 1 0x200000 = false ∧ exported wExport 0 0x200000 = true ∧
    remoteHeld wExport 0x1000 16 = false ∧ homeRead wExport 1 0 0x1000 4 = some [0, 0, 0, 0] ∧ (homeRead wExport 1 0 0x1000 8).isSome = true ∧
    (let s : State := { wExport with mm := { wExport.mm with bad := [0x1000 / 64], flits := [(0x2000 / 64, 8)] } }
     homeRead s 1 0 0x1000 1 = none ∧ homeRead s 1 0 0x1000 4 = none ∧ sectorFails s 0x1000 = true ∧ flitFails s 0x2000 = true ∧ remoteHeld s 0x1000 4 = false) ∧
    keyOf wExport 5 = none ∧
    remoteHeld { wExport with mm := { wExport.mm with owned := [(0x1000 / 512, 9)] } } 0x1000 16 = true := by decide +kernel

theorem witness_LinkEcho_echo :
    (oldestEcho (wEchoes 0xF0) 0 = some (wEcho 0xF0) ∧ (0xF0 : LaneMask) &&& 0x10 &&& 0xFFFFFF0F = 0 ∧ (0xF0 : LaneMask) &&& ~~~0x10 ≠ 0 ∧
      (0xF0 : LaneMask) &&& ~~~0xF0 = 0 ∧ (0xF0 : LaneMask) &&& 0x30 &&& 0x10 ≠ 0 ∧ (wEchoes 0xF0).split? 1 0 = some (wG w4, wP w4) ∧
      (wP w4).echoTrap = none ∧ coreStopped (wEchoes 0xF0) 0 = false ∧ coreStopped wIslands 24 = true) ∧
    (∀ n ∈ [20479, 20480], let e := { wEcho 1 with age := n }
      oldestEcho { w4 with fe := { w4.fe with echo := [e] } } 0 = some e) ∧ 256 * 80 ≤ 20480 ∧ ¬ 256 * 80 ≤ 20479 := by decide +kernel

/-- A cluster lost, and a site of it, that hold a running block; no view, no fork. -/
theorem witness_Loss :
    w4.mm.views = [] ∧ (∀ b ∈ w4.fe.blocks, b.view = 0 ∧ b.forkRec = none ∧ b.clone = false ∧ b.rival = 0) ∧
    (∀ b ∈ w4.fe.blocks, ∀ c ∈ w4.fe.blocks, b.bid = c.bid ∨ (b.lid = c.lid ∧ b.index = c.index) → b = c) ∧
    loadBlock ∈ w4.fe.blocks ∧ loadBlock.cluster = 0 ∧ (24 * 0 ≤ loadBlock.cluster ∧ loadBlock.cluster < 24 * 0 + 24) ∧ loadBlock.st = .running ∧
    loadBlock.st ≠ .ended ∧ loadBlock.committed = false ∧ (∃ e ∈ wAccepted.fe.log, ∃ k ∈ e.sites, k ≠ 0) := by decide +kernel

/-! ## Witnesses: commands of the host -/

/-- The window of function 0, changed; the block's state, changed; one split of two stopped; a comparator at the split's place. -/
def wWin (f : Window → Window) (s : State) : State := s.mapWindow 0 f
def wBlock (f : Block → Block) (s : State) : State := { s with fe := { s.fe with blocks := s.fe.blocks.map f } }
def wStopped : State := wTwo (wFirst w4 (fun p => { p with st := .stop, stopReq := true })) id
def wBreak : State := wWin (fun w => { w with bpaddr := [0, (wP w4).pc, 0, (wP w4).pc], bpen := [false, true, false, true] }) w4

theorem witness_ControlWindow_targets :
    w4.sys.stage = .ready ∧ { w4.sys with stage := .rom }.stage ≠ .ready ∧
    (windowBusy (wWin (fun w => { w with busy := true }) w4) 0 = true ∧ windowBusy w4 0 = false ∧ windowBusy w4 3 = false) ∧
    (targetBlocks w4 3 = [] ∧ targetGroups w4 3 = [] ∧ targetLaunches w4 3 = []) ∧
    (let s := wBlock (fun b => { b with st := .saving }) w4
     windowBusy s 0 = false ∧ inSave s (targetBlocks s 0) = true ∧ targetGroups s 0 = [wG s]) ∧
    (targetGroups w4 0 = [wG w4] ∧ (∀ q ∈ (wG w4).splits, q.st ≠ .stop) ∧ inSave w4 (targetBlocks w4 0) = false ∧ w4.split? 1 0 = some (wG w4, wP w4)) ∧
    (targetBlocks w4 0 = [loadBlock] ∧ loadBlock.st = .running ∧ w4.block? loadBlock.bid = some loadBlock) := by decide +kernel

theorem witness_ControlWindow_stopped :
    (windowBusy wStopped 0 = false ∧ targetGroups wStopped 0 = [wG wStopped] ∧ wStopped.split? 1 0 = some (wG wStopped, wP wStopped) ∧
      (wP wStopped).st = .stop ∧ (wP wStopped).fmask = 0) ∧
    (wStopped.window 0).split.toNat = 0 ∧ (wG wStopped).split? 0 = some (wP wStopped) ∧ wStopped.group? (wG wStopped).gid = some (wG wStopped) ∧
    (let s := wWin (fun w => { w with split := 1 }) wStopped
     (s.window 0).split.toNat = 1 ∧ ((wG s).split? 1).map (·.st) = some .ready) ∧
    (let s := wWin (fun w => { w with split := 3 }) wStopped
     (wG s).split? (s.window 0).split.toNat = none) := by decide +kernel

/-- A saved block's group is named; a stopped split that a trap has frozen is named. -/
theorem witness_ControlWindow_saved :
    (let s := wBlock (fun b => { b with st := .saved }) w4
     windowBusy s 0 = false ∧ targetGroups s 0 = [wG s] ∧ inSave s (targetBlocks s 0) = false ∧ isSaved s (wG s) = true ∧ s.group? 1 = some (wG s) ∧ isSaved w4 (wG w4) = false) ∧
    (let s := wFirst wStopped (fun p => { p with frozen := true })
     targetGroups s 0 = [wG s] ∧ (wP s).st = .stop ∧ (wP s).frozen = true ∧ (s.window 0).split.toNat = 0) := by decide +kernel

theorem witness_ControlWindow_kill :
    (let s := wFinishing
     let b := { loadBlock with view := 5, committed := true }
     targetBlocks s 0 = [b] ∧ s.block? b.bid = some b ∧ (s.launch? b.lid).isSome = true ∧ allBlocks s 0 = false ∧ mustFinish s b = true) ∧
    (let s := wWin (fun w => { w with block := 0xFFFFFFFF }) w4
     windowBusy s 0 = false ∧ targetLaunches s 0 = [loadLaunch] ∧ s.launch? loadLaunch.lid = some loadLaunch ∧ loadLaunch.item = none ∧ allBlocks s 0 = true ∧ (s.fe.blocks.map (·.bid)).Nodup ∧
      ∀ b ∈ s.fe.blocks, mustFinish s b = false ∧ b.st ≠ .ending) ∧
    (targetBlocks w4 0 = [loadBlock] ∧ w4.launch? loadBlock.lid = some loadLaunch ∧ allBlocks w4 0 = false ∧ w4.modeOf loadBlock ≠ 2 ∧ mustFinish w4 loadBlock = false) ∧
    (let s := wAtomic w4
     let b := { loadBlock with view := 5 }
     targetBlocks s 0 = [b] ∧ s.block? b.bid = some b ∧ (s.launch? b.lid).isSome = true ∧ s.modeOf b = 2 ∧ b.committed = false) := by decide +kernel

theorem witness_ControlWindow_breakpoint :
    (wBreak.split? 1 0 = some (wG wBreak, wP wBreak) ∧ comparator wBreak (wG wBreak) (wP wBreak) = some 1 ∧
      ((wBreak.block? (wG wBreak).bid).map (·.debug)).getD false = false) ∧
    (let s := wBlock (fun b => { b with debug := true }) wBreak
     s.split? 1 0 = some (wG s, wP s) ∧ comparator s (wG s) (wP s) = some 1 ∧ ((s.block? (wG s).bid).map (·.debug)).getD false = true) := by
  decide +kernel

/-- Page tables of the loaded ASID, which map 0x300000 to the frame at 0x1300000; the tables' lines are those of `s`. -/
def wTables (s : State) : State :=
  let put (s : State) (pa v : Nat) : State := dramWrite s 1 pa (leBytes v 8)
  put (put (put (put s 0x200000 0x201001) 0x201000 0x202001) 0x202008 0x203001) 0x203800 0x1300013

/-- A command: operation, ASID, address, argument, tag. -/
def wCommand (op asid va arg : Nat) : List Byte := [BitVec.ofNat 8 op, 0] ++ leBytes asid 2 ++ [0, 0, 0, 0] ++ leBytes va 8 ++ leBytes arg 8 ++ leBytes 0x77 8

/-- The command stands next in function 0's ring; ASID 5 has an entry in the context table. -/
def wCmd (bs : List Byte) : State :=
  let rg (r tail : Nat) : Ring := { fn := 0, r, base := BitVec.ofNat 64 (0x1000 * (r + 1)), size := 4096, enable := true, head := 0, tail := BitVec.ofNat 32 tail, lost := 0 }
  let s : State := { w4 with sys := { w4.sys with
    ctxBase := 0x500000, rings := [rg 0 32, rg 1 0, rg 2 0], slots := w4.sys.slots ++ [{ KeySlot.atReset 0 with loaded := true, key := 99 }] } }
  let s := dramWrite (wTables s) deviceTenancy (0x500000 + 32 * 5) (leBytes 0x600001 8 ++ leBytes (1 + 2 ^ 29) 4 ++ leBytes 512 4 ++ List.replicate 16 0)
  { s with mm := { s.mm with mem := ssetMany s.mm.mem (2 ^ 51 + 0x1000) bs } }

/-- No block and no group: nothing uses the ASID. -/
def wIdle (s : State) : State := { s with fe := State.reset.fe, cur := none }

/-- The loaded ASID's context, and what the context table holds of ASID 5. -/
def wContext : Context := ((wCmd []).context? 1).getD { asid := 0, tenancy := 0, root := 0, lease := 0, mcruise := 0, pasid := 0, faultDst := 0, retiring := false }
def wBound (a : Nat) : Option Context := (homeRead (wCmd []) deviceTenancy 0 ((wCmd []).sys.ctxBase.toNat + 32 * a) 32).bind (contextOf a)

theorem witness_Commands :
    (commandOf (wCmd (wCommand 1 5 0 0)) 1 = some (wCommand 1 5 0 0) ∧ field (wCommand 1 5 0 0) 2 2 = 5 ∧
      (wCmd (wCommand 1 5 0 0)).mm.contexts.find? (fun c => c.asid == 5) = none ∧ (wBound 5).isSome = true ∧ wBound 6 = none ∧
      commandOf (wCmd (wCommand 1 1 0 0)) 1 = some (wCommand 1 1 0 0) ∧
      (wCmd (wCommand 1 1 0 0)).mm.contexts.find? (fun c => c.asid == 1) = some wContext ∧ wContext.retiring = false ∧ { wContext with retiring := true }.retiring = true) ∧
    (commandOf (wCmd (wCommand 2 1 0 0)) 2 = some (wCommand 2 1 0 0) ∧ (wCmd (wCommand 2 1 0 0)).context? 1 = some wContext ∧
      asidInUse (wCmd (wCommand 2 1 0 0)) 1 = true ∧ asidInUse (wIdle (wCmd (wCommand 2 1 0 0))) 1 = false ∧ (wCmd (wCommand 2 5 0 0)).context? 5 = none) ∧
    (commandOf (wCmd (wCommand 3 1 0x300000 0x1000)) 3 = some (wCommand 3 1 0x300000 0x1000)) ∧
    (nextCommand (wCmd (wCommand 3 1 0x300010 0x1000)) = some (wCommand 3 1 0x300010 0x1000) ∧ commandOk (wCommand 3 1 0x300010 0x1000) = false ∧
      commandOk (wCommand 5 1 0 0) = false) := by decide +kernel

/-- MIGRATE's checks: no leaf, a leaf of 4 KiB, an address inside it, a frame that is none, and a move that runs already. -/
def wLeafSize (va : Nat) : Option Nat := ((wCmd []).context? 1).bind (fun c => (tableLeaf (wCmd []) c va).map (·.2))
def wMove (bs : List Byte) : State := wAfter .migrate (wCmd bs)
def wMoves (k : Nat) : State := (List.range k).foldl (fun s _ => wAfter (.migrateProceed 0) s) (wMove (wCommand 4 1 0x300000 0x1700000))
def wMoving (k : Nat) : Command := (wMoves k).mm.commands.head?.getD { op := 0, asid := 0, va := 0, arg := 0, ctag := 0, status := 0, ready := false, step := 0, start := 0, old := 0, size := 0 }

theorem witness_Commands_migrate :
    (commandOf (wCmd (wCommand 4 1 0x300000 0x1700000)) 4 = some (wCommand 4 1 0x300000 0x1700000) ∧ wLeafSize 0x300000 = some 4096 ∧ wLeafSize 0x301000 = none ∧
      (4096 ≤ 65536 ∧ 0x300000 % 4096 = 0) ∧ 0x300800 % 4096 ≠ 0 ∧ (isDram 0x1700000 = true ∧ 0x1700000 + 4096 ≤ dramEnd ∧ 0x1700000 % 4096 = 0) ∧
      ¬ (isDram 0x1700800 = true ∧ 0x1700800 + 4096 ≤ dramEnd ∧ 0x1700800 % 4096 = 0) ∧ ¬ (isDram dramEnd = true ∧ dramEnd + 4096 ≤ dramEnd ∧ dramEnd % 4096 = 0) ∧
      rangeMigrates (wCmd (wCommand 4 1 0x300000 0x1700000)) 1 0x300000 4096 = false ∧ rangeMigrates (wMoves 1) 1 0x300000 4096 = true) ∧
    ((wMoves 0).mm.commands = [wMoving 0] ∧ (wMoving 0).step = 0 ∧ (wMoving 0).op = 4 ∧ (wMoving 0).ready = false ∧
      (wMoves 0).mm.contexts.find? (fun x => x.asid == (wMoving 0).asid) = some wContext ∧ frameCommits (wMoves 0) (wMoving 0).old (wMoving 0).size = false) := by
  decide +kernel

/-- The move at step `k`, as a state with what else must hold of it. -/
def wAt (k : Nat) : State := { wMoves 1 with mm := { (wMoves 1).mm with commands := [{ wMoving 1 with step := k }] } }
def wCommitting : State :=
  { wAt 0 with mm := { (wAt 0).mm with
    sectors := [{ wSector 5 false with pa := 0x1300000 / 64 }], views := [{ id := 5, parent := 0, depth := 1, kind := .block, outbox := [], commit := some 7 }] } }
def wHeld : State := { wAt 1 with mm := { (wAt 1).mm with owned := [(0x1300000 / 512, 9)] } }

theorem witness_Commands_proceed :
    ((wAt 1).mm.commands[0]? = some { wMoving 1 with step := 1 } ∧ (wMoving 1).op = 4 ∧ (wMoving 1).ready = false ∧ (wMoving 1).old = 0x1300000 ∧
      (wMoving 1).arg = 0x1700000 ∧ (wMoving 1).size = 4096 ∧ (wAt 1).mm.contexts.find? (fun x => x.asid == (wMoving 1).asid) = some wContext) ∧
    (wMoving 1).start + 1000000 ≤ { wAt 1 with clock := (wMoving 1).start + 1000000 }.clock ∧
    (let c := wMoving 1
     frameCommits wCommitting c.old c.size = true ∧ frameHeld (cleanFrame (wAt 1) c.old c.size) c.old c.size = false ∧
     frameHeld (cleanFrame wHeld c.old c.size) c.old c.size = true ∧
     ((tableLeaf (wAt 2) wContext c.va).map (·.1.attr)).getD 0 ≠ 2 ∧ c.old % 64 = 0 ∧ c.arg % 64 = 0 ∧ c.size % 64 = 0 ∧ c.old + c.size ≤ c.arg ∧
     (keyOf (wAt 2) wContext.tenancy).isSome = true ∧ (∀ k, k < c.size / 64 → sectorFails (wAt 2) (c.old + 64 * k) = false ∧
       flitFails (wAt 2) (c.old + 64 * k) = false ∧ flitFails (wAt 2) (c.arg + 64 * k) = false) ∧
     frameRead (wAt 3) c.old c.size = false ∧ leafSlot (wAt 3) wContext c.va = some 0x203800 ∧ 3 < (wAt 4).mm.commands.head?.elim 0 (·.step)) := by
  decide +kernel

/-- A command that may complete, with room for its completion, and without; one that may not; a completed RETIRE. -/
theorem witness_Commands_complete :
    (let c := { wMoving 1 with step := 5, ready := true }
     let s := { wMoves 1 with mm := { (wMoves 1).mm with commands := [c] } }
     s.mm.commands[0]? = some c ∧ mayComplete s c = true ∧ ringHasRoom (s.ring 0 1) = true ∧ mayComplete s (wMoving 1) = false ∧
     { c with op := 2, status := 0 }.op = 2 ∧ mayComplete s { c with op := 2, status := 0 } = true) ∧
    ringHasRoom ({ wMoves 1 with sys := { (wMoves 1).sys with rings := [] } }.ring 0 1) = false := by decide +kernel

/-! ## Witnesses: answers -/

/-- A split that waits on a page whose fault is outstanding, or requested of the host. -/
def wFault (pri : Bool) : State :=
  let s := { w4 with mm := { w4.mm with faults := [{ asid := 1, va := 0x300000, posted := true, record := [], pri := if pri then some { fn := 0, pasid := 0, page := 0x300, read := true, write := false, execute := false, last := true } else none }] } }
  (wFirst s (fun p => { p with st := .fault, fmask := 0x30, faddr := [(4, 0x300010), (5, 0x300004)] })).mapGroup 1 (fun g => { g with tvec := 0x5000 })

theorem witness_Answers :
    ((∃ f ∈ (wFault false).mm.faults, f.asid = 1 ∧ f.va = 0x300ABC / 4096 * 4096 ∧ f.pri.isSome = false ∧ f.posted = true) ∧
      ¬ ∃ f ∈ (wFault true).mm.faults, f.asid = 1 ∧ f.va = 0x300ABC / 4096 * 4096 ∧ f.pri.isSome = false ∧ f.posted = true) ∧
    (let s := wFault false
     s.sys.stage = .ready ∧ s.en.copies = [] ∧ s.en.tags = [] ∧ s.fe.groups = [wG s] ∧ (wG s).splits = [wP s] ∧ (wP s).idx < 4 ∧ (wG s).mode = false ∧
     s.block? (wG s).bid = some loadBlock ∧ loadBlock.st = .running ∧ evicted loadBlock (wG s) = false ∧ (s.party (wG s)).asid = 1 ∧
     faultLanes (wP s) (0x300ABC / 4096 * 4096) = some (0x30, 0x300004)) ∧
    ((∃ f ∈ functionRequests (wFault true) 0, f.asid = 1 ∧ f.va = 0x300000) ∧ ¬ (∃ f ∈ functionRequests (wFault true) 1, f.asid = 1 ∧ f.va = 0x300000) ∧
      (∃ f ∈ (wFault true).mm.faults, f.asid = 1 ∧ f.va = 0x300000 ∧ f.pri.isSome = true ∧ f.posted = true) ∧ 1 < (2 : Nat)) ∧
    hostBusy w4 0 4096 = false ∧
    hostBusy (wFirst w4 (fun p => { p with buffer := [{ seq := 0, after := [], view := 0, place := .global (2 ^ 51 + 4095) 0 2 4096, bytes := [1], scope := .sys }] })) 0 4096 = true := by
  decide +kernel

/-! ## Witnesses: quarters, rates, boot, images -/

/-- A machine whose cluster 0 is powered, with quarter 1 changed. -/
def wPower : State := { wQuarters w4 with sys := { (wQuarters w4).sys with islands := [wIsland 0 true false 12, wIsland 1 true false 12] } }
def wQuarter (f : Quarter → Quarter) : State := wPower.mapQuarter 1 f
def wLatch (n : Nat) : State := { wPower with sys := { wPower.sys with latches := [{ core := n, latch := 1, next := 7, lpend := true, again := false }] } }
def wRate (mark : Bool) (rate : Nat) : State := { wPower with clock := 2048, sys := { wPower.sys with rates := [{ t := 1, source := 3, rate, mark }] } }

theorem witness_QuartersRates :
    (((wQuarter (fun q => { q with pend := true })).quarter 1).pend = true ∧ (wPower.quarter 1).pend = false ∧ 1 < 384 ∧ (5 : BitVec 6) ≠ (wPower.quarter 1).part ∧
      (wPower.quarter 1).lent = 63 ∧ (5 : BitVec 6) ≠ 63 ∧ clusterOn wPower (1 / 4) = true ∧ (wPower.quarter 383).pend = false ∧ 383 < 384 ∧
      (5 : BitVec 6) ≠ (wPower.quarter 383).part) ∧
    ((wQuarter (fun q => { q with lent := 7 })).quarter 1).lent ≠ 63 ∧
    (let q := (wQuarter (fun q => { q with pend := true, lent := 7 })).quarter 1
     q.pend = true ∧ q.lent ≠ 63) ∧ ((wLatch 1).latch 1).lpend = true ∧ ((wLatch 1).quarter 1).pend = false ∧ (wLatch 1).sys.stage = .ready ∧
    (quarterDone wPower 1 = false ∧ quarterDone (wQuarter (fun q => { q with pend := true, newPart := 7 })) 1 = true ∧
      quarterDone (wQuarter (fun q => { q with pend := true, graceEnd := some 9 })) 1 = false) ∧
    (((wLatch 1).latch 1).lpend = true ∧ coreOccupied (wLatch 1) 1 = false ∧ (wLatch 1).en.copies = [] ∧ quadrantTags (wLatch 1) 1 = [] ∧
      (let s : State := { wLatch 1 with sys := { (wLatch 1).sys with latches := (wLatch 1).sys.latches.map (fun x => { x with again := true }) } }
       (s.latch 1).again = true ∧ (s.latch 1).next.toNat ≠ servingTenancy s (servesNext (s.quarter 1))) ∧
      ((wLatch 0).latch 0).lpend = true ∧ coreOccupied (wLatch 0) 0 = true ∧ (wPower.latch 1).lpend = false) ∧
    (1 < 255 ∧ 254 < 255 ∧ 3 < 100 ∧ 99 < 100 ∧ (wRate true 0).clock % 1024 = 0 ∧ { wRate true 0 with clock := 2049 }.clock % 1024 ≠ 0) := by decide +kernel

def wStage (g : Stage) (start clock : Nat) : State := { w4 with clock, sys := { w4.sys with stage := g, stageStart := start } }

/-- Each stage, and each code at the ends of what it may fail with; 5 s after a stage's start, and a tick before; ratios at both ends, at every
side of the power limit and of the temperatures; a partition's supervisor. -/
theorem witness_BootImages_boot :
    (∀ g ∈ [Stage.rom, .firmware, .training], (wStage g 0 0).sys.stage = g ∧ (wStage g 0 0).sys.meas.length = 4) ∧
    (6 ∈ stageFails .rom ∧ 1 ∉ stageFails .rom ∧ 6 ∈ stageFails .firmware ∧ 3 ∉ stageFails .firmware ∧ 4 ∈ stageFails .training ∧
      5 ∉ stageFails .training ∧ 4 ∉ stageFails .ready) ∧
    (let s := wStage .rom 7 5000000007
     s.sys.stageStart + 5000000000 ≤ s.clock) ∧
    (let s := wStage .training 7 5000000006
     s.clock < s.sys.stageStart + 5000000000) ∧
    (w4.clock % 1000000 = 0 ∧ 191 < 192 ∧ ((wIslands).island 95).on = true ∧ ((wIslands).island 0).on = true ∧ w4.sys.siteT.getD (95 / 48) 1760 = 1760) ∧
    (w4.sys.stage = .ready ∧ 62 < 63 ∧ w4.sys.meas.length = 4) := by decide +kernel

theorem witness_BootImages_power :
    (let s : State := { wIslands with sys := { wIslands.sys with plimit := 1000, siteT := [1679, 1680, 1599, 1600] } }
     (s.sys.plimit.toNat < (1001 : BitVec 16).toNat ∧ s.sys.siteT.getD (0 / 48) 1760 < 1680) ∧
     (¬ s.sys.plimit.toNat < (1000 : BitVec 16).toNat ∧ 1680 ≤ s.sys.siteT.getD (95 / 48) 1760) ∧
     (100 * (949 : BitVec 16).toNat < 95 * s.sys.plimit.toNat ∧ s.sys.siteT.getD (96 / 48) 1760 < 1600) ∧
     (95 * s.sys.plimit.toNat ≤ 100 * (950 : BitVec 16).toNat ∧ s.sys.siteT.getD (144 / 48) 1760 < 1680)) := by decide +kernel

/-- An image of a string section that holds the empty name and a symbol section that holds the null symbol (R85 to R89). -/
def wSection (ty off size : Nat) : List Byte := leBytes 0 4 ++ leBytes ty 4 ++ leBytes 0 4 ++ leBytes 0 4 ++ leBytes 0 8 ++ leBytes off 8 ++ leBytes size 8 ++ leBytes 0 8
def wImage (crc : Nat) : List Byte :=
  leBytes 0x464F4C4D 4 ++ leBytes 1 2 ++ leBytes 0 2 ++ leBytes 2 2 ++ leBytes 64 2 ++ leBytes 0 4 ++ leBytes 64 8 ++ leBytes 3 4 ++ leBytes 48 4 ++
    leBytes 1 4 ++ leBytes 2 4 ++ leBytes 240 8 ++ leBytes crc 4 ++ List.replicate 12 0 ++ List.replicate 48 0 ++ wSection 5 208 8 ++ wSection 6 216 24 ++
    List.replicate 32 0

/-- The image's bytes that the checksum covers, in eight parts, and the checksum over each part. -/
def wCovered : List Byte := (wImage 0x6CCC5D05).take 48 ++ List.replicate 4 0 ++ (wImage 0x6CCC5D05).drop 52
def wPart (n : Nat) : List Byte := (wCovered.drop (30 * n)).take 30

theorem wCrc0 : (wPart 0).foldl crcByte 0xFFFFFFFF = 0xE6232F95 := by decide +kernel
theorem wCrc1 : (wPart 1).foldl crcByte 0xE6232F95 = 0xE4CF65DF := by decide +kernel
theorem wCrc2 : (wPart 2).foldl crcByte 0xE4CF65DF = 0x1BEC8558 := by decide +kernel
theorem wCrc3 : (wPart 3).foldl crcByte 0x1BEC8558 = 0x0511E113 := by decide +kernel
theorem wCrc4 : (wPart 4).foldl crcByte 0x0511E113 = 0x1955DA7C := by decide +kernel
theorem wCrc5 : (wPart 5).foldl crcByte 0x1955DA7C = 0x5B26F9B3 := by decide +kernel
theorem wCrc6 : (wPart 6).foldl crcByte 0x5B26F9B3 = 0xD206085F := by decide +kernel
theorem wCrc7 : (wPart 7).foldl crcByte 0xD206085F = 0x9333A2FA := by decide +kernel
theorem wCovered_parts : wCovered = wPart 0 ++ wPart 1 ++ wPart 2 ++ wPart 3 ++ wPart 4 ++ wPart 5 ++ wPart 6 ++ wPart 7 := by decide +kernel

theorem wImage_crc : crcOk (wImage 0x6CCC5D05) = true := by
  have h : crc32c wCovered = 0x6CCC5D05 := by
    rw [crc32c, wCovered_parts]
    simp only [List.foldl_append, wCrc0, wCrc1, wCrc2, wCrc3, wCrc4, wCrc5, wCrc6, wCrc7]
    decide
  have k : crcOk (wImage 0x6CCC5D05) =
      (field (wImage 0x6CCC5D05) 40 8 == (wImage 0x6CCC5D05).length && (crc32c wCovered).toNat == field (wImage 0x6CCC5D05) 48 4) := rfl
  rw [k, h]
  decide +kernel

theorem wImage_sound : imageError (wImage 0x6CCC5D05) 0x400000 = none := by
  unfold imageError
  rw [wImage_crc]
  decide +kernel

theorem witness_BootImages_images :
    (w4.context? 1).isSome = true ∧ imageError [] 0x400000 ≠ none ∧ 0x400000 % 2 ^ 21 = 0 ∧
    0x2000000 % 4096 = 0 ∧ 0x400000 + imageSize (sections (wImage 0x6CCC5D05)) ≤ 2 ^ 48 ∧
    0x2000000 + 2 * imageSize (sections (wImage 0x6CCC5D05)) + 2 ^ 16 ≤ dramEnd ∧
    (∀ x ∈ w4.fe.images, 0x400000 + imageSize (sections (wImage 0x6CCC5D05)) ≤ x.base ∨ x.base + x.size ≤ 0x400000) ∧
    imageBusy w4 0x400000 = false ∧ imageBusy wAccepted ((wAccepted.fe.launches.getLast?.elim 9 (·.kernel.image))) = true := by decide +kernel

/-! ## Witnesses: trust and keys -/

/-- A responder of function 2, whose tenancy is 1. -/
def wResponder (st : SpdmState) (opening : Option Session) (sessions : List Session) : Responder :=
  { w4.responder 2 with st, opening, sessions, tenancy := 1, fn := 2 }
def wSpdm (st : SpdmState) (opening : Option Session) (sessions : List Session) : State :=
  { w4 with sys := { w4.sys with responders := [wResponder st opening sessions] } }
def wSession : Session := ⟨5, []⟩

/-- An offer of Clepin's registry, with one algorithm of each kind. -/
def wOffer : List Byte := [0, 0, 1, 1, 1, 2, 0, 1, 0] ++ registryAlg 1 ++ registryAlg 2 ++ registryAlg 3
/-- A vendor-defined request with a key command of some code and fields. -/
def wVendor (code : Byte) (fields : List Byte) : List Byte := [0, 0] ++ vendorHead ++ leBytes (1 + fields.length) 2 ++ [code] ++ fields

/-- Every state of a responder, before boot has completed and after, busy and not; versions and codes known and not; requests of each form, and
malformed ones. -/
theorem witness_AttestationRequests :
    ((wStage .training 0 0).sys.stage ≠ .ready ∧ (wSpdm .idle none []).sys.stage = .ready ∧ { wResponder .idle none [] with busy := true }.busy = true) ∧
    ((wSpdm .versioned none []).responder 2 = wResponder .versioned none [] ∧ ((wSpdm .versioned none []).responder 2).st = .versioned ∧
      ((wSpdm .versioned none []).responder 2).busy = false ∧ ((wSpdm .caps none []).responder 2).st = .caps ∧
      ((wSpdm .negotiated (some wSession) []).responder 2).st = .negotiated ∧ ((wSpdm .negotiated (some wSession) []).responder 2).opening = some wSession ∧
      ((wSpdm .idle none [wSession]).responder 2).st ≠ .negotiated ∧ ((wSpdm .idle none [wSession]).responder 2).sessions ≠ [] ∧
      ((wSpdm .idle none []).responder 2).sessions = []) ∧
    ((0x13 : Byte) ≠ 0x14 ∧ (0x85 : Byte) ∉ ([0x84, 0xE1, 0xE3, 0x81, 0x82, 0x83, 0xE0, 0xE4, 0xE5, 0xFE] : List Byte)) ∧
    (offerOk wOffer = true ∧ offerOk [] = false ∧ offerOk (wOffer.set 5 1) = false ∧ offerOk (wOffer.set 21 9) = false) ∧
    (vendorFormed (wVendor 4 []) = true ∧ commandFormed (wVendor 4 []) = true ∧ vendorFormed (wVendor 4 [1]) = true ∧ commandFormed (wVendor 4 [1]) = false ∧
      vendorFormed ((wVendor 4 []).set 4 9) = false ∧ commandFormed (wVendor 0x11 (List.replicate 8 0)) = true) ∧
    (([0, 0] : List Byte).length = 2 ∧ (List.replicate 18 (0 : Byte)).length = 18 ∧
      (let bs : List Byte := [0, 0] ++ leBytes 6208 2 ++ leBytes 16 2
       bs.length = 6 ∧ bs.getD 0 0 = 0 ∧ field bs 2 2 ≤ 6208 ∧ field bs 4 2 = 16) ∧
      ¬ field ([0, 0] ++ leBytes 6209 2 ++ leBytes 16 2) 2 2 ≤ 6208 ∧ (List.replicate 34 (0 : Byte)).length = 34 ∧
      ([0, 0xFF] : List Byte).getD 1 0 = 0xFF ∧ (([0, 7] : List Byte).getD 1 0 : Byte) ≤ 7 ∧ ¬ (([0, 8] : List Byte).getD 1 0 : Byte) ≤ 7 ∧
      (1 :: 7 :: List.replicate 33 (0 : Byte)).length = 35 ∧ (1 :: 7 :: List.replicate 33 (0 : Byte)).getD 34 0 = 0) := by decide +kernel

/-- Zeros. -/
def wZeros (n : Nat) : List Byte := List.replicate n 0
theorem wZeros_length (n : Nat) : (wZeros n).length = n := List.length_replicate

theorem witness_AttestationRequests_exchange : (0 :: 0 :: wZeros 1570).length = 1572 ∧ (0 :: 0 :: wZeros 1570).getD 0 0 = 0 ∧
    (0 :: 0 :: wZeros 1570).getD 1 0 = 0 := ⟨by simp [wZeros_length], rfl, rfl⟩

/-- A part of a message. -/
theorem slice {a b c : List Byte} {i n : Nat} (ha : a.length = i) (hb : b.length = n) : ((a ++ b ++ c).drop i).take n = b := by
  rw [List.append_assoc, List.drop_left' ha, List.take_left' hb]

theorem value_wideBytes (x : BitVec 512) : BitVec.ofNat 512 (leNat (wideBytes x)) = x := by
  rw [wideBytes, leNat_leBytes, Nat.mod_eq_of_lt (by omega), BitVec.ofNat_toNat, BitVec.setWidth_eq]

theorem length_fit (n : Nat) (bs : List Byte) : (fit n bs).length = n := by
  simp only [fit, List.length_append, List.length_take, List.length_replicate]
  omega

theorem length_wideBytes (x : BitVec 512) : (wideBytes x).length = 64 := length_leBytes _ _

theorem sealKey_length (s : State) (policy : BitVec 512) : (sealKey s policy).length = 32 := length_shake _ (by decide)

/-- What KEY_EXPORT seals opens under the same policy. -/
theorem opens_exported (s : State) (policy key : BitVec 512) (t : Nat) {nonce : List Byte} (hn : nonce.length = 12) :
    openBlob s policy (blobHead t ++ nonce ++ gcmSeal (sealKey s policy) nonce (blobHead t) (wideBytes key)) = some key := by
  have hb : (blobHead t).length = 88 := by simp [blobHead]
  rw [openBlob, slice hb hn, List.append_assoc, List.take_left' hb, ← List.append_assoc, List.drop_left' (by simp [hb, hn]),
    gcmOpen_gcmSeal (sealKey_length s policy)]
  exact congrArg some (value_wideBytes key)

/-- The tenancy holds key slot 1. -/
def wKeyed (st : Tenancy) (slots : List KeySlot) : State :=
  { wSpdm .negotiated none [wSession] with sys := { (wSpdm .negotiated none [wSession]).sys with tenancies := [st], slots } }
def wSlots : List KeySlot := [{ KeySlot.atReset 0 with loaded := true, key := 3 }, { KeySlot.atReset 1 with loaded := true, owner := 1, key := 8 }]
def wPlainT : Tenancy := { Tenancy.atReset 1 with slot := some 1 }
def wK : State := wKeyed wPlainT wSlots

/-- What a hand-over seals to this device: a ciphertext of zeros, a nonce of zeros, and key 8 under the secret that the ciphertext gives. -/
def wWrap : List Byte :=
  wZeros 1568 ++ wZeros 12 ++ gcmSeal (fit 32 (Config.kemSecret (fit 1568 Config.kemKey) (wZeros 1568))) (wZeros 12) [] (wideBytes 8)

theorem length_gcmSeal {key : List Byte} (h : key.length = 32) (nonce aad plain : List Byte) : (gcmSeal key nonce aad plain).length = plain.length + 16 := by
  simp [gcmSeal, length_gcmStream h, length_gcmTag h]

theorem wWrap_length : wWrap.length = 1660 := by
  rw [wWrap, List.length_append, List.length_append, wZeros_length, wZeros_length, length_gcmSeal (length_fit 32 _), length_wideBytes]

theorem wWrap_opens : kemUnwrap wWrap = some 8 := by
  have h1 : wWrap.take 1568 = wZeros 1568 := by rw [wWrap, List.append_assoc, List.take_left' (wZeros_length _)]
  have h2 : (wWrap.drop 1568).take 12 = wZeros 12 := slice (wZeros_length _) (wZeros_length _)
  have h3 : wWrap.drop 1580 = gcmSeal (fit 32 (Config.kemSecret (fit 1568 Config.kemKey) (wZeros 1568))) (wZeros 12) [] (wideBytes 8) :=
    List.drop_left' (by rw [List.length_append, wZeros_length, wZeros_length])
  rw [kemUnwrap, h1, h2, h3, gcmOpen_gcmSeal (length_fit 32 _)]
  exact congrArg some (value_wideBytes 8)

/-- A packet of HSEQ 5 from this device to itself. -/
def wFields : List Byte := leBytes 1 1 ++ leBytes 5 8
def wBody : List Byte := wFields ++ wideBytes (identityDigest wK) ++ wWrap ++ wZeros 1660 ++ wideBytes (identityDigest wK)
def wParcel : List Byte := signBody wK wBody

theorem wBody_length : wBody.length = packetBody := by
  simp only [wBody, List.length_append, length_wideBytes, wWrap_length, wZeros_length]
  rfl

theorem signature_length (s : State) (m : List Byte) : (signature s m).length = 1280 := length_fit _ _

theorem verifies (s : State) {body : List Byte} {n : Nat} (h : body.length = n) : verified s (identityDigest s) n (signBody s body) = true := by
  simp [verified, signBody, List.take_left' h]

/-- The parts of a body of five, with what follows it. -/
theorem parts (a b c d e r : List Byte) (ha : a.length = 9) (hb : b.length = 64) (hc : c.length = 1660) (hd : d.length = 1660) (he : e.length = 64) :
    let x := a ++ b ++ c ++ d ++ e ++ r
    (x.drop 9).take 64 = b ∧ (x.drop 73).take 1660 = c ∧ (x.drop (packetBody - 64)).take 64 = e := by
  refine ⟨?_, ?_, slice (by simp [ha, hb, hc, hd, packetBody]) he⟩
  · have := slice (c := c ++ d ++ e ++ r) ha hb
    simpa only [List.append_assoc] using this
  · have := slice (a := a ++ b) (c := d ++ e ++ r) (i := 73) (by simp [ha, hb]) hc
    simpa only [List.append_assoc] using this

theorem heads {bs r : List Byte} (h : bs = wFields ++ r) : packetTenancy bs = 1 ∧ packetHseq bs = 5 := by
  subst h
  refine ⟨rfl, ?_⟩
  have k : ((wFields ++ r).drop 1).take 8 = leBytes 5 8 := slice (a := leBytes 1 1) rfl rfl
  rw [packetHseq, k]
  decide

theorem wParcel_heads : ∃ r, wParcel = wFields ++ r := by
  simp only [wParcel, signBody, wBody, List.append_assoc]
  exact ⟨_, rfl⟩

theorem wParcel_parts : wParcel.length = packetBody + 1280 ∧ wideAt wParcel 9 = identityDigest wK ∧ (wParcel.drop 73).take 1660 = wWrap ∧
    wideAt wParcel (packetBody - 64) = identityDigest wK := by
  have h := parts wFields (wideBytes (identityDigest wK)) wWrap (wZeros 1660) (wideBytes (identityDigest wK)) (signature wK wBody) rfl (length_wideBytes _)
    wWrap_length (wZeros_length _) (length_wideBytes _)
  have e : wFields ++ wideBytes (identityDigest wK) ++ wWrap ++ wZeros 1660 ++ wideBytes (identityDigest wK) ++ signature wK wBody = wParcel := rfl
  rw [e] at h
  exact ⟨by rw [wParcel, signBody, List.length_append, wBody_length, signature_length], by rw [wideAt, h.1, value_wideBytes], h.2.1,
    by rw [wideAt, h.2.2, value_wideBytes]⟩

theorem record_parts (s : State) (packet : List Byte) : (packetRecord s 1 5 packet).length = recordBody + 1280 ∧
    packetTenancy (packetRecord s 1 5 packet) = 1 ∧ packetHseq (packetRecord s 1 5 packet) = 5 ∧ wideAt (packetRecord s 1 5 packet) 9 = shake256 packet ∧
    verified s (identityDigest s) recordBody (packetRecord s 1 5 packet) = true := by
  have hb : (leBytes 1 1 ++ leBytes (5 : DWord).toNat 8 ++ wideBytes (shake256 packet) ++ wideBytes (identityDigest s)).length = recordBody := by
    simp only [List.length_append, length_wideBytes, length_leBytes]
    rfl
  have he : ∃ r, packetRecord s 1 5 packet = wFields ++ wideBytes (shake256 packet) ++ r := by
    rw [packetRecord, signBody, List.append_assoc (_ ++ _)]
    exact ⟨_, rfl⟩
  obtain ⟨r, he⟩ := he
  have hh := heads (bs := packetRecord s 1 5 packet) (r := wideBytes (shake256 packet) ++ r) (by rw [he, List.append_assoc])
  refine ⟨by rw [packetRecord, signBody, List.length_append, hb, signature_length], hh.1, hh.2, ?_, verifies s hb⟩
  rw [wideAt, he, slice (a := wFields) (i := 9) rfl (length_wideBytes _), value_wideBytes]

/-- A session and none; LSEQ that agrees and does not; a slot held, free, and none; HSEQ at the boundary; a tenancy that is none; a sealed blob and a
packet that open, whose signatures verify. -/
theorem witness_KeyCommands :
    ((wSpdm .negotiated none []).sys.stage = .ready ∧ ((wSpdm .negotiated none []).responder 2).sessions = [] ∧
      (wK.responder 2).sessions ≠ [] ∧ (wK.responder 2).busy = false ∧ (wStage .rom 0 0).sys.stage ≠ .ready) ∧
    ((wK.responder 2).tenancy = 1 ∧ wK.sys.stage = .ready ∧ (wK.tenancy 1).lseq = 0 ∧ slotFor wK 1 = some 1 ∧ workingKey wK 1 = some 8 ∧
      (1 : DWord) ≠ (wK.tenancy 1).lseq ∧ (wK.tenancy 1).hseq.toNat < (6 : DWord).toNat) ∧
    (let s := wKeyed { wPlainT with slot := none, committed := true } wSlots
     (slotFor s 1).isSome = true ∧ workingKey s 1 = none ∧ (s.tenancy 1).committed = true) ∧
    (let s := wKeyed { wPlainT with slot := none } ((List.range 256).map (fun n => { KeySlot.atReset n with loaded := true, owner := 2 }))
     slotFor s 1 = none) ∧
    (let s : State := { w4 with sys := { w4.sys with responders := [{ wResponder .negotiated none [wSession] with tenancy := 255 }] } }
     255 ≤ (s.responder 2).tenancy ∧ (s.responder 2).sessions ≠ []) ∧
    (let s := wKeyed { wPlainT with hseq := 5 } wSlots
     (5 : DWord).toNat ≤ (s.tenancy 1).hseq.toNat ∧ ¬ (6 : DWord).toNat ≤ (s.tenancy 1).hseq.toNat) := by decide +kernel

theorem witness_KeyCommands_load :
    let blob := blobHead 1 ++ wZeros 12 ++ gcmSeal (sealKey wK 7) (wZeros 12) (blobHead 1) (wideBytes 8)
    openBlob wK 7 blob = some 8 ∧ (blob.getD 3 0).toNat = 1 ∧ blob.length = 180 ∧ blob.take 88 = blobHead 1 ∧ openBlob wK 7 [] = none :=
  ⟨opens_exported wK 7 8 1 (wZeros_length _), rfl,
   by rw [List.length_append, List.length_append, wZeros_length, length_gcmSeal (sealKey_length _ _), length_wideBytes]; rfl,
   by rw [List.append_assoc]; exact List.take_left' rfl, by
    have : (gcmTag (sealKey wK 7) [] [] []).length = 16 := length_gcmTag (sealKey_length _ _) _ _ _
    simp only [openBlob, gcmOpen, List.drop_nil, List.take_nil, List.length_nil]
    rw [if_neg]
    · rfl
    · intro h
      rw [← eq_of_beq h] at this
      cases this⟩

/-- The packet imported first, with its record, its tenancy's HSEQ still 0; and confirmed by its source. -/
theorem witness_KeyCommands_handover :
    (let x := wK.tenancy 1
     let cs := packetRecord wK 1 5 wParcel
     verified wK (wideAt wParcel (packetBody - 64)) packetBody wParcel = true ∧ verified wK (wideAt wParcel (packetBody - 64)) recordBody cs = true ∧
     wideAt wParcel 9 = identityDigest wK ∧ kemUnwrap ((wParcel.drop 73).take 1660) = some 8 ∧ packetTenancy wParcel = 1 ∧ packetTenancy cs = 1 ∧
     x.lseq = 0 ∧ (slotFor wK 1).isSome = true ∧ ¬ (packetHseq wParcel).toNat ≤ x.hseq.toNat ∧ namesPacket cs wParcel = true ∧
     wParcel.length = packetBody + 1280 ∧ cs.length = recordBody + 1280) ∧
    (let s := wKeyed { wPlainT with hseq := 5, exported := some wParcel, imported := some wParcel, committed := true } wSlots
     let cs := packetRecord wK 1 5 wParcel
     verified s (wideAt wParcel 9) recordBody cs = true ∧ wideAt cs 9 = shake256 wParcel ∧ packetTenancy cs = 1 ∧ packetHseq cs = (s.tenancy 1).hseq ∧
     (s.tenancy 1).committed = true ∧ packetHseq wParcel = 5 ∧ (s.tenancy 1).hseq = 5 ∧ (s.tenancy 1).exported = some wParcel) := by
  obtain ⟨hl, hd, hw, hs⟩ := wParcel_parts
  obtain ⟨rl, rt, rh, rd, rv⟩ := record_parts wK wParcel
  obtain ⟨r, hr⟩ := wParcel_heads
  obtain ⟨hT, hH⟩ := heads hr
  have same : verified (wKeyed { wPlainT with hseq := 5, exported := some wParcel, imported := some wParcel, committed := true } wSlots) = verified wK := by
    unfold verified signBody signature identityDigest identityKey
    rfl
  rw [hs, hw, hd]
  refine ⟨⟨verifies wK wBody_length, rv, rfl, wWrap_opens, hT, rt, by decide +kernel, by decide +kernel, by rw [hH]; decide +kernel, ?_, hl, rl⟩,
    (congrFun (congrFun (congrFun same _) _) _).trans rv, rd, rt, rh, rfl, hH, rfl, rfl⟩
  rw [namesPacket, rt, rh, rd, hT, hH]
  simp only [beq_self_eq_true, Bool.and_self]

/-! ## One step: values that the manual's tables and worked lines give, or that are plain arithmetic on them -/

/-- v1 and v2 hold x and y in lane 4, v3 holds z; the instruction's result there. -/
def wLane (x y z : Word) : State := w4.mapGroup 1 (fun g => { g with v := [(36, x), (68, y), (100, z)], p := [(0, 0x10)] })
def wGives (i : Instr) (x y z : Word) (d : Nat) : Option Word :=
  match exec i (wLane x y z) with | .next t => some (readReg (wG t) d 4) | _ => none
def wBit (i : Instr) (x y : Word) (d : Nat) : Option Bool :=
  match exec i (wLane x y 0) with | .next t => some ((readPred (wG t) d).getLsbD 4) | _ => none

/-- R129: the three forms of the sum and of the difference, and the high words of a product. -/
theorem test_iadd : wGives (.iadd false .wrap 3 (.reg 1) (.reg 2)) 0x7FFFFFFF 1 0 3 = some 0x80000000 ∧
    wGives (.iadd false .sat 3 (.reg 1) (.reg 2)) 0x7FFFFFFF 1 0 3 = some 0x7FFFFFFF ∧
    wGives (.iadd false .usat 3 (.reg 1) (.reg 2)) 0xFFFFFFFF 2 0 3 = some 0xFFFFFFFF := by decide +kernel
theorem test_isub : wGives (.isub false .sat 3 (.reg 1) (.reg 2)) 0x80000000 1 0 3 = some 0x80000000 ∧
    wGives (.isub false .usat 3 (.reg 1) (.reg 2)) 1 2 0 3 = some 0 := by decide +kernel
theorem test_imulh : wGives (.imulh false false 3 (.reg 1) (.reg 2)) 0xFFFFFFFF 2 0 3 = some 0xFFFFFFFF ∧
    wGives (.imulh false true 3 (.reg 1) (.reg 2)) 0xFFFFFFFF 2 0 3 = some 1 := by decide +kernel
theorem test_imad : wGives (.imad false 3 (.reg 1) (.reg 2)) 0xFFFFFFFF 3 10 3 = some 7 := by decide +kernel
theorem test_iabs : wGives (.iabs false false 3 (.reg 1)) 0x80000000 0 0 3 = some 0x80000000 ∧
    wGives (.iabs false true 3 (.reg 1)) 0x80000000 0 0 3 = some 0x7FFFFFFF := by decide +kernel
/-- R130: the carry goes in and comes out. -/
theorem test_iaddc : wGives (.iaddc false 0 3 (.reg 1) (.reg 2)) 0xFFFFFFFF 0 0 3 = some 0 ∧ wBit (.iaddc false 0 3 (.reg 1) (.reg 2)) 0xFFFFFFFF 0 0 = some true ∧
    wBit (.iaddc false 0 3 (.reg 1) (.reg 2)) 0xFFFFFFFE 0 0 = some false := by decide +kernel
/-- R131: a shift amount is not taken modulo 32, ROTL's is. -/
theorem test_shifts : wGives (.shl false 3 (.reg 1) (.reg 2)) 1 32 0 3 = some 0 ∧ wGives (.shr false 3 (.reg 1) (.reg 2)) 0x80000000 33 0 3 = some 0 ∧
    wGives (.sar false 3 (.reg 1) (.reg 2)) 0x80000000 40 0 3 = some 0xFFFFFFFF ∧ wGives (.rotl false 3 (.reg 1) (.reg 2)) 0x80000001 33 0 3 = some 3 := by
  decide +kernel
/-- R132: pos 28 and len 8 are cut at bit 31. -/
theorem test_fields : wGives (.bfx false false 3 (.reg 1) (.reg 2)) 0xA0000000 0x81C 0 3 = some 10 ∧
    wGives (.bfx false true 3 (.reg 1) (.reg 2)) 0xA0000000 0x81C 0 3 = some 0xFFFFFFFA ∧
    wGives (.bfi false 3 (.reg 1) (.reg 2)) 0x5 0x404 0xFFFFFFFF 3 = some 0xFFFFFF5F := by decide +kernel
theorem test_counts : wGives (.popc false 3 (.reg 1)) 0xF000000F 0 0 3 = some 8 ∧ wGives (.clz false 3 (.reg 1)) 0 0 0 3 = some 32 ∧
    wGives (.clz false 3 (.reg 1)) 0x10000 0 0 3 = some 15 ∧ wGives (.brev false 3 (.reg 1)) 0x00000003 0 0 3 = some 0xC0000000 := by decide +kernel
/-- R134's table of selectors. -/
theorem test_prmt : wGives (.prmt false 3 (.reg 1) (.reg 2)) 0x11223344 0xAABBCCDD 0x03020100 3 = some 0x11223344 ∧
    wGives (.prmt false 3 (.reg 1) (.reg 2)) 0x11223344 0xAABBCCDD 0x07060504 3 = some 0xAABBCCDD ∧
    wGives (.prmt false 3 (.reg 1) (.reg 2)) 0x11223344 0 0x00010203 3 = some 0x44332211 ∧
    wGives (.prmt false 3 (.reg 1) (.reg 2)) 0x11223384 0 0x10101000 3 = some 0xFFFFFF84 ∧
    wGives (.prmt false 3 (.reg 1) (.reg 2)) 0x11223344 0 0x08080801 3 = some 0x33 ∧
    wGives (.prmt false 3 (.reg 1) (.reg 2)) 0x11223344 0 0x18191A1B 3 = some 0x22CC4488 := by decide +kernel
theorem test_lea : wGives (.lea false 7 3 (.reg 1) (.reg 2)) 5 0x2000001 0 3 = some 0x85 := by decide +kernel
/-- R137. -/
theorem test_icmp : wBit (.icmp false .lt 1 (.reg 1) (.reg 2)) 0xFFFFFFFF 0 1 = some true ∧ wBit (.icmp false .ltu 1 (.reg 1) (.reg 2)) 0xFFFFFFFF 0 1 = some false := by
  decide +kernel
/-- 1 + 2^-24 is a tie and goes to even; 1 + 3 * 2^-24 goes up to 1 + 2^-22; opposite infinities give the quiet NaN. -/
theorem test_fadd : wGives (.fadd false .fmt 3 (.reg 1) (.reg 2)) 0x3F800000 0x33800000 0 3 = some 0x3F800000 ∧
    wGives (.fadd false .fmt 3 (.reg 1) (.reg 2)) 0x3F800000 0x34400000 0 3 = some 0x3F800002 ∧
    wGives (.fadd false .fmt 3 (.reg 1) (.reg 2)) 0x7F800000 0xFF800000 0 3 = some 0x7FC00000 := by decide +kernel
/-- 1.5 * 1.5 = 2.25; (1 + 2^-12)^2 - (1 + 2^-11) = 2^-24 with one rounding. -/
theorem test_ffma : wGives (.fmul false .fmt 3 (.reg 1) (.reg 2)) 0x3FC00000 0x3FC00000 0 3 = some 0x40100000 ∧
    wGives (.ffma false .fmt 3 (.reg 1) (.reg 2)) 0x3F800800 0x3F800800 0xBF801000 3 = some 0x33800000 := by decide +kernel

end Sys2Proof.Machine

namespace Sys2Proof

/-! ## Decoding: words written out from the encoding tables -/

theorem test_decode_lane_integer : ∀ x ∈ ([
    (0b0_1_000001_010_0000101_0101100_1010011, .iadd true .usat 5 (.reg 44) (.reg 83)),
    (0b0_0_000010_001_0000101_0101100_1010011, .isub false .sat 5 (.reg 44) (.reg 83)),
    (0b0_1_000011_111_0000101_0101100_1010011, .iaddc true 7 5 (.reg 44) (.reg 83)),
    (0b0_0_000100000_0000101_0101100_1010011, .imul false 5 (.reg 44) (.reg 83)),
    (0b0_0_0001000_10_0000101_0101100_1010011, .imulh false true 5 (.reg 44) (.reg 83)),
    (0b0_1_000101000_0000101_0101100_1010011, .imad true 5 (.reg 44) (.reg 83)),
    (0b0_1_00011000_0_0000101_0101100_1010011, .imin true false 5 (.reg 44) (.reg 83)),
    (0b0_0_00011001_1_0000101_0101100_1010011, .imax false true 5 (.reg 44) (.reg 83)),
    (0b0_1_00011100_0_0000101_0101100_0000000, .iabs true false 5 (.reg 44)),
    (0b0_1_00100000_0_0000101_0101100_0000000, .ineg true false 5 (.reg 44)),
    (0b0_1_001001000_0000101_0101100_1010011, .and true 5 (.reg 44) (.reg 83)),
    (0b0_1_001001001_0000101_0101100_1010011, .andn true 5 (.reg 44) (.reg 83)),
    (0b0_1_001010000_0000101_0101100_1010011, .or true 5 (.reg 44) (.reg 83)),
    (0b0_1_001011000_0000101_0101100_1010011, .xor true 5 (.reg 44) (.reg 83)),
    (0b0_1_001100000_0000101_0101100_1010011, .shl true 5 (.reg 44) (.reg 83)),
    (0b0_1_001100001_0000101_0101100_1010011, .shr true 5 (.reg 44) (.reg 83)),
    (0b0_1_001101000_0000101_0101100_1010011, .sar true 5 (.reg 44) (.reg 83)),
    (0b0_1_001110000_0000101_0101100_1010011, .rotl true 5 (.reg 44) (.reg 83)),
    (0b0_1_00111100_0_0000101_0101100_1010011, .bfx true false 5 (.reg 44) (.reg 83)),
    (0b0_0_001111010_0000101_0101100_1010011, .bfi false 5 (.reg 44) (.reg 83)),
    (0b0_0_010000000_0000101_0101100_0000000, .popc false 5 (.reg 44)),
    (0b0_1_010001000_0000101_0101100_0000000, .clz true 5 (.reg 44)),
    (0b0_0_010010000_0000101_0101100_0000000, .brev false 5 (.reg 44)),
    (0b0_1_010011000_0000101_0101100_1010011, .prmt true 5 (.reg 44) (.reg 83)),
    (0b0_1_010100_101_0000101_0101100_1010011, .lea true 5 5 (.reg 44) (.reg 83)),
    (0b0_0_01010100_1_0000101_0101100_0000000, .mov false true 5 (.reg 44)),
    (0b0_0_010110_0000101_00100000001000011, .movi false 5 16451)] : List (Word × Instr)),
    decodeWord x.1 0 = .ok x.2 ∧ x.2.wf = true ∧ encodeWord x.2 = x.1 := by decide

theorem test_decode_compare_exchange : ∀ x ∈ ([
    (0b0_1_010111_010_0000_100_0000101_0101100, .icmp true .lt 4 (.reg 5) (.reg 44)),
    (0b0_0_011000_000_0000101_0101100_1010011, .isel false 0 5 (.reg 44) (.reg 83)),
    (0b0_1_011001_100_0000_010_0000_101_0000_000, .pset true .orn 2 5 0),
    (0b0_0_0110100_01_0000101_0101100_0000000, .pmov false .vp 5 (.reg 44)),
    (0b0_0_0110110_01_0000101_0101100_0000000, .qswp false .v 5 (.reg 44)),
    (0b0_0_0110111_10_0000101_0101100_0000000, .qbc false 2 5 (.reg 44)),
    (0b0_0_0111000_01_0000101_0101100_1010011, .shfl false .up 5 (.reg 44) (.reg 83)),
    (0b0_1_011101_010_0000101_0000_111_0000000, .vote true .same 5 7),
    (0b0_1_011110000_0000101_0101100_0000000, .first true 5 (.reg 44)),
    (0b0_0_0111110_01_0000101_0101100_0000000, .match false .lead 5 (.reg 44)),
    (0b0_0_10000000_1_0000101_0101100_0000000, .reda false true 5 (.reg 44)),
    (0b0_0_100001_101_0000101_0101100_0000000, .redm false .fmax 5 (.reg 44))] : List (Word × Instr)),
    decodeWord x.1 0 = .ok x.2 ∧ x.2.wf = true ∧ encodeWord x.2 = x.1 := by decide

theorem test_decode_lane_float : ∀ x ∈ ([
    (0b0_0_100010_000_0000101_0101100_1010011, .fadd false .fmt 5 (.reg 44) (.reg 83)),
    (0b0_1_100011_000_0000101_0101100_1010011, .fsub true .fmt 5 (.reg 44) (.reg 83)),
    (0b0_0_100100_000_0000101_0101100_1010011, .fmul false .fmt 5 (.reg 44) (.reg 83)),
    (0b0_1_100101_000_0000101_0101100_1010011, .ffma true .fmt 5 (.reg 44) (.reg 83)),
    (0b0_0_10011000_1_0000101_0101100_1010011, .fmin false true 5 (.reg 44) (.reg 83)),
    (0b0_1_10011100_0_0000101_0101100_1010011, .fmax true false 5 (.reg 44) (.reg 83)),
    (0b0_0_101000_011_0000_111_0000101_0101100, .fcmp false .le 7 (.reg 5) (.reg 44)),
    (0b0_1_101001000_0000101_0101100_0000000, .fclass true 5 (.reg 44)),
    (0b0_0_101010000_0000101_0101100_0000000, .frcp false 5 (.reg 44)),
    (0b0_1_101010001_0000101_0101100_0000000, .frsq true 5 (.reg 44)),
    (0b0_0_101010010_0000101_0101100_0000000, .fsqrt false 5 (.reg 44)),
    (0b0_1_101010011_0000101_0101100_0000000, .fex2 true 5 (.reg 44)),
    (0b0_0_101010100_0000101_0101100_0000000, .flg2 false 5 (.reg 44)),
    (0b0_1_101010101_0000101_0101100_0000000, .fsin true 5 (.reg 44)),
    (0b0_0_101010110_0000101_0101100_0000000, .fcos false 5 (.reg 44)),
    (0b0_1_101010111_0000101_0101100_0000000, .ftanh true 5 (.reg 44)),
    (0b0_0_101011000_0000101_0101100_1010011, .fdivs false 5 (.reg 44) (.reg 83)),
    (0b0_0_101100000_0000101_0101100_1010011, .hadd2 false 5 (.reg 44) (.reg 83)),
    (0b0_0_101100001_0000101_0101100_1010011, .hmul2 false 5 (.reg 44) (.reg 83)),
    (0b0_0_101100010_0000101_0101100_1010011, .hfma2 false 5 (.reg 44) (.reg 83)),
    (0b0_0_101101_011_0000_111_0000101_0101100, .hcmp2 false .le 7 (.reg 5) (.reg 44)),
    (0b0_1_101110000_0000101_0101100_000_0001, .cvti true 5 (.reg 44) 1),
    (0b0_1_101110001_0000101_0101100_000_1101, .cvtf true 5 (.reg 44) 13),
    (0b0_1_101110010_0000101_0101100_000_1001, .cvtdx true 5 (.reg 44) 9),
    (0b0_1_101110011_0000101_0101100_000_0101, .cvtxd true 5 (.reg 44) 5),
    (0b0_1_101111000_0000101_0101100_0000000, .dxexp true 5 (.reg 44)),
    (0b0_0_110000000_0000101_0101100_000_1010, .srnd false 5 (.reg 44) 10),
    (0b0_0_1100010_11_0000101_0101100_1010011, .dot4 false .e5m2 5 (.reg 44) (.reg 83))] : List (Word × Instr)),
    decodeWord x.1 0 = .ok x.2 ∧ x.2.wf = true ∧ encodeWord x.2 = x.1 := by decide

theorem test_decode_memory : ∀ x ∈ ([
    (0b0_1_110010_011_01_10101_0000101_0101100, .ldg true .s16 .clu 21 5 (.reg 44)),
    (0b0_1_110011_100_11_00111_0000101_0101100, .stg true .b32 .sys 7 (.reg 5) (.reg 44)),
    (0b0_1_110100_001_01_11001_0000101_0101100, .lds true .s8 .clu 25 5 (.reg 44)),
    (0b0_1_110101_110_11_01011_0000101_0101100, .sts true .b128 .sys 11 (.reg 5) (.reg 44)),
    (0b0_1_110110_100_01_11101_0000101_0101100, .atomgA true .and .clu 29 5 (.reg 44)),
    (0b0_1_110111_010_11_01111_0000101_0101100, .atomgB true .umax .sys 15 5 (.reg 44)),
    (0b0_1_111000_000_01_00001_0000101_0101100, .atomsA true .add .clu 1 5 (.reg 44)),
    (0b0_1_111001_110_11_10011_0000101_0101100, .atomsB true .min64 .sys 19 5 (.reg 44)),
    (0b0_1_111010_000_00_10010_0000000_0000101, .pref true .l1 18 (.reg 5)),
    (0b0_1_111011_101_00_11110_0000101_0000000, .fenq true .b64 30 (.reg 5)),
    (0b0_1_111100_110_00_01010_0000101_0000000, .fdeq true .b128 10 5)] : List (Word × Instr)),
    decodeWord x.1 0 = .ok x.2 ∧ x.2.wf = true ∧ encodeWord x.2 = x.1 := by decide

theorem test_decode_uniform_control : ∀ x ∈ ([
    (0b1_1_000000000_0000101_0101100_1010011, .sadd true 5 (.reg 44) (.reg 83)),
    (0b1_1_000000001_0000101_0101100_1010011, .ssub true 5 (.reg 44) (.reg 83)),
    (0b1_1_000000010_0000101_0101100_1010011, .smul true 5 (.reg 44) (.reg 83)),
    (0b1_1_000000011_0000101_0101100_1010011, .sand true 5 (.reg 44) (.reg 83)),
    (0b1_1_000000100_0000101_0101100_1010011, .sor true 5 (.reg 44) (.reg 83)),
    (0b1_1_000000101_0000101_0101100_1010011, .sxor true 5 (.reg 44) (.reg 83)),
    (0b1_1_000000110_0000101_0101100_1010011, .sshl true 5 (.reg 44) (.reg 83)),
    (0b1_1_000000111_0000101_0101100_1010011, .sshr true 5 (.reg 44) (.reg 83)),
    (0b1_1_000001_000_0000101_0101100_1010011, .scmp true .eq 5 (.reg 44) (.reg 83)),
    (0b1_0_00001000_1_0000101_0101100_0000000, .smov false true 5 (.reg 44)),
    (0b1_0_000011_01110_1001010111011000001, .sli false 14 306881),
    (0b1_1_00010000_0_0000101_0101100_1010011, .sld true false 5 (.reg 44) (.reg 83)),
    (0b1_0_00010100_1_0000101_0101100_1010011, .sst false true (.reg 5) (.reg 44) (.reg 83)),
    (0b1_1_000110_101_001100001110000011000, .bra true 5 400408),
    (0b1_0_0001110000000000_0000101_0000000, .jmp false (.reg 5)),
    (0b1_0_001000_100_100100101100111010111, .jz false 4 1202647),
    (0b1_1_001001_101_100110100101110110000, .jnz true 5 1264560),
    (0b1_0_001010000_111101001011110010110, .call false 2004886),
    (0b1_0_0010110000000000_0000101_0000000, .ret false (.reg 5)),
    (0b1_0_001100000_101010010111101100010, .rcv false 1388386),
    (0b1_0_001101000000000000000000000000, .join false),
    (0b1_1_001110000000000000000000000000, .exit true)] : List (Word × Instr)),
    decodeWord x.1 0 = .ok x.2 ∧ x.2.wf = true ∧ encodeWord x.2 = x.1 := by decide

theorem test_decode_sync_system : ∀ x ∈ ([
    (0b1_0_001111_1110_00000000000000000000, .bar false 14),
    (0b1_0_010000000000000000000000000000, .cbar false),
    (0b1_1_010001000_0000101_0101100_1010011, .binit true (.reg 5) (.reg 44) (.reg 83)),
    (0b1_1_010010000_0000101_0101100_1010011, .barv true 5 (.reg 44) (.reg 83)),
    (0b1_1_0100110000000000_0000101_0101100, .bwait true (.reg 5) (.reg 44)),
    (0b1_0_010100_000_100001000000001101011, .yield false 0 1081451),
    (0b1_1_010101_010_11_0000000000000000000, .fence true .ar .sys),
    (0b1_0_010110_0101010_00000000000000000, .regreq false 42),
    (0b1_0_010111_0010000_00000000000000000, .regrel false 16),
    (0b1_0_011000_001_0000000_0000101_0000000, .setfmt false .sat (.reg 5)),
    (0b1_1_011001000_0000101_0101100_0000000, .sigx true 5 (.reg 44)),
    (0b1_0_0110100000000000_0000101_0000000, .sigchk false (.reg 5)),
    (0b1_0_011011_0000101_10000001_000000000, .mfsr false 5 129),
    (0b1_1_011100_0000101_01011010_000000000, .mtsr true (.reg 5) 90),
    (0b1_0_011101_0110100101000000_00000000, .trap false 26944),
    (0b1_0_011110000000000000000000000000, .rte false),
    (0b1_1_011111_0101101100011001_00000000, .bkpt true 23321),
    (0b1_1_100000000000000000000000000000, .nop true),
    (0b1_0_1000010000000000_0000101_0000000, .sleep false (.reg 5)),
    (0b1_0_1000100000000000_0000101_0101100, .launch false (.reg 5) (.reg 44)),
    (0b1_1_1000110000000000_0000101_0101100, .send true (.reg 5) (.reg 44)),
    (0b1_0_10010000_1_0000101_0101100_1010011, .wait false true (.reg 5) (.reg 44) (.reg 83))] : List (Word × Instr)),
    decodeWord x.1 0 = .ok x.2 ∧ x.2.wf = true ∧ encodeWord x.2 = x.1 := by decide

theorem test_decode_scratch_copy : ∀ x ∈ ([
    (0b1_1_10010100_0_0000101_0101100_1010011, .salloc true false 5 (.reg 44) (.reg 83)),
    (0b1_0_10011000_1_0000000_0000101_0000000, .sfree false true (.reg 5)),
    (0b1_1_1001110000000000_0000101_0101100, .renew true (.reg 5) (.reg 44)),
    (0b1_0_101000000_0000101_0101100_0000000, .sstat false 5 (.reg 44)),
    (0b1_1_101001000_0000101_0101100_1010011, .poolcfg true 5 (.reg 44) (.reg 83)),
    (0b1_1_1010100000000000_0000101_0000000, .kick true (.reg 5))] : List (Word × Instr)),
    decodeWord x.1 0 = .ok x.2 ∧ x.2.wf = true ∧ encodeWord x.2 = x.1 := by decide

theorem test_decode_matrix : ∀ x ∈ ([
    (0b1_1_1010110000000000_0000101_0000000, .gang true (.reg 5)),
    (0b1_1_1011000_00_0000101_0101100_0000000, .tagbind true .q 5 (.reg 44)),
    (0b1_1_1011010000000000_0000101_0000000, .tagfree true (.reg 5)),
    (0b1_1_101110_11101_10000_00011_000000000, .mma true 29 16 3),
    (0b1_1_101111_01001_0000000000000000000, .accz true 9),
    (0b1_1_110000_01111_0000101_110101_000000, .accrd true 15 5 53),
    (0b1_1_110001_11011_0000101_000001_000000, .accwr true 27 5 1),
    (0b1_1_110010_00111_11010_00000000000000, .accst true 7 26),
    (0b1_0_110011_00000_10011_1_0000000000000, .mstat false 0 19 true),
    (0b1_0_110100_01100_0000000000000000000, .mfreeze false 12),
    (0b1_0_110101_10010_0000000000000000000, .mthaw false 18),
    (0b1_0_110110_11000_0000000000000000000, .tagkill false 24)] : List (Word × Instr)),
    decodeWord x.1 0 = .ok x.2 ∧ x.2.wf = true ∧ encodeWord x.2 = x.1 := by decide

theorem test_decode_views : ∀ x ∈ ([
    (0b1_0_110111_110_110100000011101110001, .fork false 6 1705841),
    (0b1_1_111000000000000000000000000000, .choose true),
    (0b1_0_111001000000000000000000000000, .vabort false),
    (0b1_1_111010000_0000101_0101100_0000000, .vstat true 5 (.reg 44)),
    (0b1_0_111011000000000000000000000000, .vcommit false)] : List (Word × Instr)),
    decodeWord x.1 0 = .ok x.2 ∧ x.2.wf = true ∧ encodeWord x.2 = x.1 := by decide
end Sys2Proof
end

section
/-! The words of the slots of lane integer arithmetic, logic and shifts, LEA and ISEL (R129, R131, R135, R138). -/

namespace Sys2Proof

/-! ## The fields of a lane word (R55) -/

section
open BitVec (extractLsb'_append_eq_of_le extractLsb'_append_eq_of_add_le extractLsb'_eq_self)

variable (e : Bool) (op : BitVec 6) (fn : BitVec 3) (d a b : BitVec 7)

theorem laneWord_unit : (laneWord e op fn d a b).getLsbD 31 = false := by
  simp only [laneWord, BitVec.getLsbD_append]; simp

theorem laneWord_ebb : (laneWord e op fn d a b).getLsbD 30 = e := by
  simp only [laneWord, BitVec.getLsbD_append]; simp

@[simp] theorem bits_laneWord_op : bits (laneWord e op fn d a b) 24 6 = op := by
  rw [bits, laneWord, extractLsb'_append_eq_of_le (by decide), extractLsb'_append_eq_of_le (by decide),
    extractLsb'_append_eq_of_le (by decide), extractLsb'_append_eq_of_le (by decide),
    extractLsb'_append_eq_of_add_le (by decide), extractLsb'_eq_self]

@[simp] theorem bits_laneWord_fn : bits (laneWord e op fn d a b) 21 3 = fn := by
  rw [bits, laneWord, extractLsb'_append_eq_of_le (by decide), extractLsb'_append_eq_of_le (by decide),
    extractLsb'_append_eq_of_le (by decide), extractLsb'_append_eq_of_add_le (by decide), extractLsb'_eq_self]

@[simp] theorem bits_laneWord_d : bits (laneWord e op fn d a b) 14 7 = d := by
  rw [bits, laneWord, extractLsb'_append_eq_of_le (by decide), extractLsb'_append_eq_of_le (by decide),
    extractLsb'_append_eq_of_add_le (by decide), extractLsb'_eq_self]

@[simp] theorem bits_laneWord_a : bits (laneWord e op fn d a b) 7 7 = a := by
  rw [bits, laneWord, extractLsb'_append_eq_of_le (by decide), extractLsb'_append_eq_of_add_le (by decide), extractLsb'_eq_self]

@[simp] theorem bits_laneWord_b : bits (laneWord e op fn d a b) 0 7 = b := by
  rw [bits, laneWord, extractLsb'_append_eq_of_add_le (by decide), extractLsb'_eq_self]

end

theorem ofField_eq_namedSrc (r : RegNum) (lit : Word) : Src.ofField r lit = namedSrc r lit := rfl

/-! ## The slots of a major -/

/-- What the slot `fn` of a major means whose assigned slots are `l`, in order from slot 0; the slots after them are unassigned (R65). -/
def slotOf (l : List DecodeResult) (fn : BitVec 3) : DecodeResult := l.getD fn.toNat (.error .illegalOp)

theorem slotOf_unassigned {l : List DecodeResult} {fn : BitVec 3} (h : l.length ≤ fn.toNat) : slotOf l fn = .error .illegalOp :=
  List.getD_eq_default _ _ h

/-- The majors of R129 and R131 that have unassigned slots. -/
def arithmeticMajors : List (BitVec 6) := [0x01, 0x02, 0x04, 0x05, 0x06, 0x07, 0x08, 0x09, 0x0A, 0x0B, 0x0C, 0x0D, 0x0E]

/-- The assigned slots of the majors of R129 and R131, the fields being `d`, `a` and `b`; a unary form has b = 0 (R129). -/
def arithmeticSlots (e : Bool) (d a b : RegNum) (lit : Word) (op : BitVec 6) : List DecodeResult :=
  let A := namedSrc a lit
  let B := namedSrc b lit
  match op.toNat with
  | 0x01 => [.ok (.iadd e .wrap d A B), .ok (.iadd e .sat d A B), .ok (.iadd e .usat d A B)]
  | 0x02 => [.ok (.isub e .wrap d A B), .ok (.isub e .sat d A B), .ok (.isub e .usat d A B)]
  | 0x04 => [.ok (.imul e d A B), .ok (.imulh e false d A B), .ok (.imulh e true d A B)]
  | 0x05 => [.ok (.imad e d A B)]
  | 0x06 => [.ok (.imin e false d A B), .ok (.imin e true d A B), .ok (.imax e false d A B), .ok (.imax e true d A B)]
  | 0x07 => [ifZero (b == 0) false (.ok (.iabs e false d A)), ifZero (b == 0) false (.ok (.iabs e true d A))]
  | 0x08 => [ifZero (b == 0) false (.ok (.ineg e false d A)), ifZero (b == 0) false (.ok (.ineg e true d A))]
  | 0x09 => [.ok (.and e d A B), .ok (.andn e d A B)]
  | 0x0A => [.ok (.or e d A B)]
  | 0x0B => [.ok (.xor e d A B)]
  | 0x0C => [.ok (.shl e d A B), .ok (.shr e d A B)]
  | 0x0D => [.ok (.sar e d A B)]
  | 0x0E => [.ok (.rotl e d A B)]
  | _ => []

/-- A word of one of these majors decodes by the table of its slots. -/
theorem decodeWord_arithmetic {op : BitVec 6} (h : op ∈ arithmeticMajors) (e : Bool) (fn : BitVec 3) (d a b : RegNum) (lit : Word) :
    decodeWord (laneWord e op fn d a b) lit = slotOf (arithmeticSlots e d a b lit op) fn := by
  simp only [decodeWord, decodeLane, slotOf, laneWord_unit, laneWord_ebb, bits_laneWord_op, bits_laneWord_fn, bits_laneWord_d,
    bits_laneWord_a, bits_laneWord_b, ofField_eq_namedSrc, withSlot, SatMode.ofCode]
  generalize fn.toNat = n
  -- for each major, a slot that one of its rows may assign (0 to 3), or one past the end of every table
  simp only [arithmeticMajors, List.mem_cons, List.not_mem_nil, or_false] at h
  rcases h with rfl | rfl | rfl | rfl | rfl | rfl | rfl | rfl | rfl | rfl | rfl | rfl | rfl <;>
    rcases n with _ | _ | _ | _ | n <;> rfl

/-- A slot past the assigned ones of its major is unassigned. -/
theorem decodeWord_arithmetic_unassigned {op : BitVec 6} {e : Bool} {fn : BitVec 3} {d a b : RegNum} {lit : Word}
    (h : op ∈ arithmeticMajors) (hfn : (arithmeticSlots e d a b lit op).length ≤ fn.toNat) :
    decodeWord (laneWord e op fn d a b) lit = .error .illegalOp :=
  (decodeWord_arithmetic h e fn d a b lit).trans (slotOf_unassigned hfn)

theorem ifZero_nonzero {b : RegNum} (h : b ≠ 0) (k : DecodeResult) : ifZero (b == 0) false k = .error (.illegalOperand false) := by
  rw [ifZero, beq_false_of_ne h]; rfl

/-- The words of R129, by the table of the slots. -/
theorem integerWords : IntegerWords := by
  intro e d a b lit fn S is unary no
  have slot {op} (fn) (h : op ∈ arithmeticMajors) := decodeWord_arithmetic h e fn d a b lit
  have unarySlot {op} (fn) (h : op ∈ arithmeticMajors) (i : Instr)
      (hi : ∀ b, slotOf (arithmeticSlots e d a b lit op) fn = ifZero (b == 0) false (.ok i)) : unary op fn i :=
    ⟨(decodeWord_arithmetic h e fn d a 0 lit).trans (hi 0),
      fun hb => (slot fn h).trans ((hi b).trans (ifZero_nonzero hb _))⟩
  have unassigned {op} (h : op ∈ arithmeticMajors) (hfn : (arithmeticSlots e d a b lit op).length ≤ fn.toNat) : no op :=
    decodeWord_arithmetic_unassigned h hfn
  exact ⟨slot 0 (by decide), slot 1 (by decide), slot 2 (by decide),
    slot 0 (by decide), slot 1 (by decide), slot 2 (by decide),
    slot 0 (by decide), slot 1 (by decide), slot 2 (by decide),
    slot 0 (by decide),
    slot 0 (by decide), slot 1 (by decide), slot 2 (by decide), slot 3 (by decide),
    unarySlot 0 (by decide) _ fun _ => rfl, unarySlot 1 (by decide) _ fun _ => rfl,
    unarySlot 0 (by decide) _ fun _ => rfl, unarySlot 1 (by decide) _ fun _ => rfl,
    fun h => ⟨unassigned (by decide) h, unassigned (by decide) h, unassigned (by decide) h⟩,
    fun h => unassigned (by decide) h, fun h => unassigned (by decide) h, fun h => ⟨unassigned (by decide) h, unassigned (by decide) h⟩⟩

/-- The words of R131, by the table of the slots. -/
theorem logicWords : LogicWords := by
  intro e d a b lit fn S is no
  have slot {op} (fn) (h : op ∈ arithmeticMajors) := decodeWord_arithmetic h e fn d a b lit
  have unassigned {op} (h : op ∈ arithmeticMajors) (hfn : (arithmeticSlots e d a b lit op).length ≤ fn.toNat) : no op :=
    decodeWord_arithmetic_unassigned h hfn
  exact ⟨slot 0 (by decide), slot 1 (by decide), slot 0 (by decide), slot 0 (by decide),
    slot 0 (by decide), slot 1 (by decide), slot 0 (by decide), slot 0 (by decide),
    fun h => ⟨unassigned (by decide) h, unassigned (by decide) h⟩,
    fun h => ⟨unassigned (by decide) h, unassigned (by decide) h, unassigned (by decide) h, unassigned (by decide) h⟩⟩

/-- Every slot of LEA's major is LEA, with the slot's number as its scale (R135). -/
theorem decodeWord_lea (e : Bool) (k : BitVec 3) (d a b : RegNum) (lit : Word) :
    decodeWord (laneWord e 0x14 k d a b) lit = .ok (.lea e k d (namedSrc a lit) (namedSrc b lit)) := by
  simp only [decodeWord, decodeLane, laneWord_unit, laneWord_ebb, bits_laneWord_op, bits_laneWord_fn, bits_laneWord_d, bits_laneWord_a,
    bits_laneWord_b]
  rfl

/-- Every slot of ISEL's major is ISEL, with the slot's number as its predicate (R138). -/
theorem decodeWord_isel (e : Bool) (k : BitVec 3) (d a b : RegNum) (lit : Word) :
    decodeWord (laneWord e 0x18 k d a b) lit = .ok (.isel e k d (namedSrc a lit) (namedSrc b lit)) := by
  simp only [decodeWord, decodeLane, laneWord_unit, laneWord_ebb, bits_laneWord_op, bits_laneWord_fn, bits_laneWord_d, bits_laneWord_a,
    bits_laneWord_b]
  rfl

end Sys2Proof
end

section
/-! What lane integer arithmetic, logic and shifts, LEA and ISEL write (R129, R131, R135, R138), and the obligations O4, O5 and O9. -/

namespace Sys2Proof.Machine

/-! ## The operand forms of lane integer instructions (R125) -/

/-- Only the words of the 32 lanes count in what an instruction writes. -/
theorem WritesLanes.congr {i : Instr} {e : Bool} {d : RegNum} {f f' : Nat → Word} {s : State} {g : Group} {p : Split}
    (h : WritesLanes i e d f s g p) (hf : ∀ l, l < 32 → f l = f' l) : WritesLanes i e d f' s g p := by
  obtain ⟨g1, hr, hk, hv⟩ := h
  exact ⟨g1, hr, hk, fun r l hl => by rw [hv r l hl, hf l hl]⟩

/-- A legal destination may be read as a source. -/
theorem srcOk_of_laneDstOk {g : Group} {d : RegNum} (h : laneDstOk g d = true) : srcOk g (.reg d) = true := by
  simp only [laneDstOk, Bool.or_eq_true, Bool.and_eq_true, beq_iff_eq] at h
  rcases h with ⟨_, h⟩ | h
  · exact h
  · simp [srcOk, regExists, h]

section
variable {i : Instr} {e : Bool} {d : RegNum} {a b : Src} {s : State} {g : Group} {p : Split}

theorem laneBinary_writes {f : Word → Word → Word} (h : Ready s g p) (hx : exec i s = laneBinary i e d a b f s)
    (hd : laneDstOk g d = true) (ha : srcOk g a = true) (hb : srcOk g b = true) :
    WritesLanes i e d (fun l => f (srcVal g a l) (srcVal g b l)) s g p :=
  laneWord_writes h hx hd (by simp [ha, hb])

theorem laneUnary_writes {f : Word → Word} (h : Ready s g p) (hx : exec i s = laneUnary i e d a f s)
    (hd : laneDstOk g d = true) (ha : srcOk g a = true) : WritesLanes i e d (fun l => f (srcVal g a l)) s g p :=
  laneWord_writes h hx hd (by simp [ha])

theorem laneTernary_writes {f : Word → Word → Word → Word} (h : Ready s g p) (hx : exec i s = laneTernary i e d a b f s)
    (hd : laneDstOk g d = true) (ha : srcOk g a = true) (hb : srcOk g b = true) :
    WritesLanes i e d (fun l => f (readReg g d.toNat l) (srcVal g a l) (srcVal g b l)) s g p :=
  laneWord_writes h hx hd (by simp [ha, hb, srcOk_of_laneDstOk hd])

end

/-! ## What one lane computes -/

/-- ISUB.usat is 0 where the difference would be negative. -/
theorem subBy_usat (x y : Word) : subBy .usat x y = if x.toNat < y.toNat then 0 else x - y := by
  split
  · simp [subBy, Nat.sub_eq_zero_of_le (Nat.le_of_lt ‹_›)]
  · rw [subBy, ← BitVec.ofNat_sub_ofNat_of_le _ _ y.isLt (by omega)]
    simp

/-- IABS takes the least integer to itself. -/
theorem absBy_wrap (x : Word) : absBy false x = if x.toInt < 0 then -x else x := by
  by_cases h : x.toInt < 0 <;> simp [absBy, h, BitVec.ofInt_neg]

theorem minBy_eq (u : Bool) (x y : Word) : minBy u x y = if (if u then x.toNat ≤ y.toNat else x.toInt ≤ y.toInt) then x else y := by
  cases u <;> simp [minBy]

theorem maxBy_eq (u : Bool) (x y : Word) : maxBy u x y = if (if u then y.toNat ≤ x.toNat else y.toInt ≤ x.toInt) then x else y := by
  cases u <;> simp [maxBy]

/-- A rotation to the right is one to the left by what is left of the width. -/
theorem rotateRight_eq_rotateLeft {w : Nat} (x : BitVec w) {n : Nat} (h : n ≤ w) : x.rotateRight n = x.rotateLeft (w - n) := by
  rw [BitVec.rotateRight_def, BitVec.rotateLeft_def]
  rcases Nat.eq_or_lt_of_le h with rfl | hw
  · simp [BitVec.ushiftRight_eq_zero]
  · rcases Nat.eq_zero_or_pos n with rfl | h0
    · simp [BitVec.ushiftRight_eq_zero]
    · rw [Nat.mod_eq_of_lt hw, Nat.mod_eq_of_lt (by omega), BitVec.or_comm, Nat.sub_sub_self h]

/-- A shift to the left is a product by a power of two, which wraps. -/
theorem shiftLeft_eq_ofNat {w : Nat} (y : BitVec w) (k : Nat) : y <<< k = BitVec.ofNat w (y.toNat * 2 ^ k) := by
  apply BitVec.eq_of_toNat_eq
  simp [Nat.shiftLeft_eq]

/-- p7 is 1 in every lane (R22). -/
theorem laneIn_readPred_seven (g : Group) {l : Nat} (hl : l < 32) : laneIn (readPred g 7) l = true := by
  rw [laneIn, readPred, if_neg (by decide), BitVec.getLsbD_allOnes, decide_eq_true hl]

/-! ## The obligations -/

/-- Settles O4: the words by the table of the slots, the results by the three operand forms and what one lane computes. -/
theorem laneIntegerArithmetic : Obligations.LaneIntegerArithmetic := by
  refine ⟨integerWords, fun s g p e d a b hr hd ha hb => ?_⟩
  have binary {i} (f) (hx : exec i s = laneBinary i e d a b f s) := laneBinary_writes hr hx hd ha hb
  have unary {i} (f) (hx : exec i s = laneUnary i e d a f s) := laneUnary_writes hr hx hd ha
  refine ⟨binary (addBy .wrap) rfl, binary (addBy .sat) rfl, binary (addBy .usat) rfl,
    binary (subBy .wrap) rfl, binary (subBy .sat) rfl, ?subUsat,
    binary (· * ·) rfl, binary (mulHigh false) rfl, binary (mulHigh true) rfl,
    laneTernary_writes (f := fun z x y => x * y + z) hr rfl hd ha hb,
    ?minSigned, ?minUnsigned, ?maxSigned, ?maxUnsigned,
    ?absWrap, unary (absBy true) rfl, unary (negBy false) rfl, unary (negBy true) rfl⟩
  case subUsat => exact (binary (subBy .usat) rfl).congr fun l _ => subBy_usat _ _
  case minSigned => exact (binary (minBy false) rfl).congr fun l _ => minBy_eq false _ _
  case minUnsigned => exact (binary (minBy true) rfl).congr fun l _ => minBy_eq true _ _
  case maxSigned => exact (binary (maxBy false) rfl).congr fun l _ => maxBy_eq false _ _
  case maxUnsigned => exact (binary (maxBy true) rfl).congr fun l _ => maxBy_eq true _ _
  case absWrap => exact (unary (absBy false) rfl).congr fun l _ => absBy_wrap _

/-- Settles O5: the words by the table of the slots, the results by the form of two sources. -/
theorem laneLogicShifts : Obligations.LaneLogicShifts := by
  refine ⟨logicWords, fun x n h => rotateRight_eq_rotateLeft x h, fun s g p e d a b hr hd ha hb => ?_⟩
  have binary {i} (f) (hx : exec i s = laneBinary i e d a b f s) := laneBinary_writes hr hx hd ha hb
  exact ⟨binary (· &&& ·) rfl, binary (fun x y => x &&& ~~~ y) rfl, binary (· ||| ·) rfl, binary (· ^^^ ·) rfl,
    binary shlWord rfl, binary shrWord rfl, binary sarWord rfl, binary rotlWord rfl⟩

theorem isel_writes {e : Bool} {k : PredNum} {d : RegNum} {a b : Src} {s : State} {g : Group} {p : Split} (h : Ready s g p)
    (hd : laneDstOk g d = true) (ha : srcOk g a = true) (hb : srcOk g b = true) :
    WritesLanes (.isel e k d a b) e d (fun l => if laneIn (readPred g k.toNat) l = true then srcVal g a l else srcVal g b l) s g p :=
  laneWord_writes (f := fun g _ l => if predBit g k l then srcVal g a l else srcVal g b l) h rfl hd (by simp [ha, hb])

/-- Settles O9: the words of both majors; LEA's shift is the product, and p7, 1 in every lane, selects the first word. -/
theorem scaledSumSelect : Obligations.ScaledSumSelect := by
  refine ⟨fun e k d a b lit => ⟨decodeWord_lea e k d a b lit, decodeWord_isel e k d a b lit⟩,
    fun s g p e k d a b hr hd ha hb => ⟨?lea, isel_writes hr hd ha hb, ?iselP7⟩⟩
  case lea =>
    have h := laneBinary_writes (f := fun x y => x + (y <<< k.toNat)) (i := .lea e k d a b) hr rfl hd ha hb
    exact h.congr fun l _ => by rw [shiftLeft_eq_ofNat]
  case iselP7 =>
    exact (isel_writes (k := 7) hr hd ha hb).congr fun l hl => if_pos (laneIn_readPred_seven g hl)

end Sys2Proof.Machine
end
